-- ==== Sys2Proof/Word.lean ====
section
/-! DEFINITION. The word types of the Krydy: bytes, 32-bit register words, 64-bit pairs. -/

namespace Sys2Proof

/-- One byte of memory. -/
abbrev Byte := BitVec 8

/-- One lane of a thread register, a uniform register, or a lane mask (03 R79). -/
abbrev Word := BitVec 32

/-- A 64-bit pair, an address, or an instruction word (06 R151). -/
abbrev DWord := BitVec 64

end Sys2Proof
end

