-- ==== Sys2Proof/Machine/Store.lean ====
section
/-! DEFINITION. Sparse stores: lists of key and value pairs in one canonical form, keys strictly rising. Memory, registers and
tables are such stores. -/

namespace Sys2Proof.Machine

/-- The value at key `k`, if the store lists one. -/
def Store.find {α : Type} : List (Nat × α) → Nat → Option α
  | [], _ => none
  | (j, v) :: t, k => if k = j then some v else Store.find t k

/-- Lists `v` at key `k`, keeping the keys rising. -/
def Store.put {α : Type} : List (Nat × α) → Nat → α → List (Nat × α)
  | [], k, v => [(k, v)]
  | (j, w) :: t, k, v =>
    if k < j then (k, v) :: (j, w) :: t
    else if k = j then (k, v) :: t
    else (j, w) :: Store.put t k v

/-- Lists nothing at key `k`. -/
def Store.del {α : Type} : List (Nat × α) → Nat → List (Nat × α)
  | [], _ => []
  | (j, w) :: t, k => if k = j then Store.del t k else (j, w) :: Store.del t k

/-- The value at `k`, or `d` where the store lists none. -/
def Store.get {α : Type} (d : α) (m : List (Nat × α)) (k : Nat) : α :=
  match Store.find m k with
  | some v => v
  | none => d

/-- Writes `v` at `k`, in the canonical form that lists no entry equal to the default `d`. -/
def Store.set {α : Type} [DecidableEq α] (d : α) (m : List (Nat × α)) (k : Nat) (v : α) : List (Nat × α) :=
  if v = d then Store.del m k else Store.put m k v

/-- Applies `f` to the value at `k`, if the store lists one. -/
def Store.modify {α : Type} : List (Nat × α) → Nat → (α → α) → List (Nat × α)
  | [], _, _ => []
  | (j, w) :: t, k, f => (j, if k = j then f w else w) :: Store.modify t k f

/-- All keys above `lo` and strictly rising. -/
def Store.above {α : Type} : Nat → List (Nat × α) → Bool
  | _, [] => true
  | lo, (j, _) :: t => decide (lo < j) && Store.above j t

/-- The keys rise strictly. -/
def Store.sorted {α : Type} : List (Nat × α) → Bool
  | [] => true
  | (j, _) :: t => Store.above j t

/-- The canonical form: keys strictly rising, and no entry equal to the default `d`. -/
def Store.wf {α : Type} [DecidableEq α] (d : α) (m : List (Nat × α)) : Bool :=
  Store.sorted m && m.all (fun e => decide (e.2 ≠ d))

/-- The lowest number from `i` that the store does not list, within `fuel` tries. -/
def Store.freeKey {α : Type} (m : List (Nat × α)) : Nat → Nat → Option Nat
  | 0, _ => none
  | fuel + 1, i => match Store.find m i with
    | none => some i
    | some _ => Store.freeKey m fuel (i + 1)

/-- `n` copies of a step applied to indices from `i` upward. -/
def upFrom {σ : Type} (f : Nat → σ → σ) : Nat → Nat → σ → σ
  | 0, _, s => s
  | n + 1, i, s => upFrom f n (i + 1) (f i s)

end Sys2Proof.Machine
end

