-- ==== Sys2Proof/Machine/Bits.lean ====
section
/-! DEFINITION. Lane masks, bit fields and the exact integer helpers that the meanings share (00 R6, R11, 05 R123, R124). -/

namespace Sys2Proof.Machine

/-- Whether a value lies in a list. -/
def elemOf {α : Type} [DecidableEq α] (x : α) (l : List α) : Bool :=
  l.any (fun y => decide (y = x))

/-- The lanes of a warp in ascending order. -/
def laneList : List Nat := List.range 32

/-- Bits `hi` down to `lo` of a number, read as unsigned (00 R6). -/
def bitsOf (x hi lo : Nat) : Nat := x / 2 ^ lo % 2 ^ (hi + 1 - lo)

/-- Bit `i` of a number. -/
def bitOf (x i : Nat) : Bool := x.testBit i

/-- A lane of a mask. -/
def inMask (m : Word) (l : Nat) : Bool := m.getLsbD l

/-- The lanes of a mask, ascending. -/
def maskLanes (m : Word) : List Nat := laneList.filter (fun l => m.getLsbD l)

/-- The mask of the lanes of which `f` holds. -/
def maskOf (f : Nat → Bool) : Word :=
  laneList.foldl (fun m l => if f l then m ||| (1#32 <<< l) else m) 0#32

/-- The mask of one lane. -/
def laneMask (l : Nat) : Word := 1#32 <<< l

/-- Number of set bits. -/
def popCount {n : Nat} (x : BitVec n) : Nat := (List.range n).countP (fun i => x.getLsbD i)

/-- The lowest lane of a mask. -/
def lowLane (m : Word) : Option Nat := laneList.find? (fun l => m.getLsbD l)

/-- Bit `i` of the result is bit `n - 1 - i` (07 R187). -/
def reverseBits (x : Word) : Word := maskOf (fun i => x.getLsbD (31 - i))

/-- Leading zero bits of a word (07 R187). -/
def leadingZeros (x : Word) : Nat := if x.toNat = 0 then 32 else 31 - x.toNat.log2

/-- Trailing zero bits of a word (07 R187). -/
def trailingZeros (x : Word) : Nat :=
  match lowLane x with
  | some l => l
  | none => 32

/-- `Sat` of 05 R124. -/
def satInt (x lo hi : Int) : Int := if x < lo then lo else if hi < x then hi else x

/-- An integer modulo `2 ^ n` as bits. -/
def wrapN (n : Nat) (x : Int) : BitVec n := BitVec.ofInt n x

/-- The low and high words of a pair. -/
def lowWord (x : DWord) : Word := x.extractLsb' 0 32
def highWord (x : DWord) : Word := x.extractLsb' 32 32
def pairOf (lo hi : Word) : DWord := hi ++ lo

/-- A 32-bit word from a number, and a 64-bit one. -/
def w32 (n : Nat) : Word := BitVec.ofNat 32 n
def w64 (n : Nat) : DWord := BitVec.ofNat 64 n

/-- A Boolean as a word. -/
def boolWord (b : Bool) : Word := if b then 1 else 0

/-- A bit as a number. -/
def boolNat (b : Bool) : Nat := if b then 1 else 0

/-- `n` rounded up to a multiple of `m`. -/
def roundUp (n m : Nat) : Nat := (n + m - 1) / m * m

/-- Bit number `i` of a double word set to `b`. -/
def setBit (x : DWord) (i : Nat) (b : Bool) : DWord :=
  if b then x ||| (1#64 <<< i) else x &&& ~~~(1#64 <<< i)

/-- The integer square root by bisection on bits, `fuel` bits wide. -/
def isqrtBits (n : Nat) : Nat → Nat → Nat
  | 0, r => r
  | fuel + 1, r =>
    let t := r + 2 ^ fuel
    isqrtBits n fuel (if t * t ≤ n then t else r)

/-- ⌊√n⌋. -/
def isqrt (n : Nat) : Nat := isqrtBits n (n.log2 / 2 + 1) 0

/-- The first element of which `f` gives a value. -/
def firstSome {α β : Type} (f : α → Option β) : List α → Option β
  | [] => none
  | x :: t => match f x with
    | some y => some y
    | none => firstSome f t

/-- The element with the least key. -/
def minBy {α : Type} (f : α → Nat) : List α → Option α
  | [] => none
  | x :: t => match minBy f t with
    | none => some x
    | some y => if f x ≤ f y then some x else some y

/-- Element `i` of a list, or a default. -/
def nthD {α : Type} (l : List α) (i : Nat) (d : α) : α := (l[i]?).getD d

/-- The list with element `i` replaced. -/
def setNth {α : Type} : List α → Nat → α → List α
  | [], _, _ => []
  | _ :: t, 0, y => y :: t
  | x :: t, i + 1, y => x :: setNth t i y

/-- The list with element `i` changed by `f`. -/
def modNth {α : Type} : List α → Nat → (α → α) → List α
  | [], _, _ => []
  | x :: t, 0, f => f x :: t
  | x :: t, i + 1, f => x :: modNth t i f

/-- A list in ascending order of a key. -/
def insertBy {α : Type} (f : α → Nat) (x : α) : List α → List α
  | [] => [x]
  | y :: t => if f x < f y then x :: y :: t else y :: insertBy f x t
def sortBy {α : Type} (f : α → Nat) (l : List α) : List α := l.foldl (fun acc x => insertBy f x acc) []

end Sys2Proof.Machine
end

