-- ==== Sys2Proof/Syntax.lean ====
section
/-! DEFINITION. The instruction syntax: operand and modifier types, one structure for each operation-modifier layout of chapter 06,
and Instr with one constructor for each row of the opcode table (instructions first, then the device's own steps). -/

namespace Sys2Proof

/-- An operand named by an 8-bit field and its kind bit (06 R155). `bad` is an unassigned kind-1 code, which no instruction accepts. -/
inductive Opnd where
  | v (n : BitVec 8)
  | k (n : BitVec 6)
  | p (n : BitVec 3)
  | vz
  | bad (code : BitVec 8)
  deriving DecidableEq, Repr, Inhabited

/-- The guard: predicate `p` of each lane, inverted when `neg` (06 R154). -/
structure Guard where
  neg : Bool
  p : BitVec 3
  deriving DecidableEq, Repr, Inhabited

/-- Operand types of the TYPE field (06 R157). -/
inductive Ty where
  | dflt | s32 | z32 | s64 | z64 | s16 | z16 | s8 | z8 | f32 | f64 | f16 | bf16 | f16x2 | bf16x2 | b128
  deriving DecidableEq, Repr, Inhabited

/-- Rounding modes (05 R133). -/
inductive RMode where
  | rn | rz | ru | rd
  deriving DecidableEq, Repr, Inhabited

/-- Memory spaces of the SPACE field (06 R158). -/
inductive Space where
  | die | shared | spill | const
  deriving DecidableEq, Repr, Inhabited

/-- Ordering annotations of the ANN field (06 R158). In a FENCE, `relaxed` is written `.sc`. -/
inductive Ann where
  | relaxed | acq | rel | ar
  deriving DecidableEq, Repr, Inhabited

/-- The arithmetic layout of OPM (06 R156). -/
structure RArith where
  g : Guard
  d : Opnd
  a : Opnd
  b : Opnd
  c : Opnd
  ty : Ty
  rm : RMode
  sat : Bool
  ftz : Bool
  sub : BitVec 4
  deriving DecidableEq, Repr, Inhabited

/-- An R-form word whose OPM has a layout of the instruction's own, or is zero. -/
structure RRaw where
  g : Guard
  d : Opnd
  a : Opnd
  b : Opnd
  c : Opnd
  opm : BitVec 12
  deriving DecidableEq, Repr, Inhabited

/-- LD, ST and LDK: the memory layout with the offset in place of b and c (06 R158). `kbc` holds KB and KC, which are zero. -/
structure RMem where
  g : Guard
  d : Opnd
  a : Opnd
  off : BitVec 16
  kbc : BitVec 2
  ty : Ty
  space : Space
  ann : Ann
  scope : BitVec 3
  z : BitVec 1
  deriving DecidableEq, Repr, Inhabited

/-- Atomics, reductions and FENCE: the memory layout with operands b and c (06 R158). -/
structure RAtom where
  g : Guard
  d : Opnd
  a : Opnd
  b : Opnd
  c : Opnd
  ty : Ty
  space : Space
  ann : Ann
  scope : BitVec 3
  z : BitVec 1
  deriving DecidableEq, Repr, Inhabited

/-- The layout of future and lock instructions (09 R244). -/
structure RSync where
  g : Guard
  d : Opnd
  a : Opnd
  b : Opnd
  c : Opnd
  zero : BitVec 4
  space : Space
  var : BitVec 6
  deriving DecidableEq, Repr, Inhabited

/-- The layout of copies and GARUN (09 R257, 10 R287). -/
structure RCopy where
  g : Guard
  d : Opnd
  a : Opnd
  b : Opnd
  c : Opnd
  ty : Ty
  xsp : BitVec 2
  ann : Ann
  fsp : BitVec 2
  ops : BitVec 2
  deriving DecidableEq, Repr, Inhabited

/-- The layout of MMA and MMAS (10 R274). -/
structure RMma where
  g : Guard
  d : Opnd
  a : Opnd
  b : Opnd
  c : Opnd
  fmt : BitVec 4
  dtype : BitVec 2
  sat : Bool
  blk16 : Bool
  kz : Bool
  zero : BitVec 3
  deriving DecidableEq, Repr, Inhabited

/-- The layout of LDM and STM (10 R280). -/
structure RLdm where
  g : Guard
  d : Opnd
  a : Opnd
  b : Opnd
  c : Opnd
  wid : BitVec 2
  tr : BitVec 2
  space : Space
  ann : Ann
  scope : BitVec 3
  geo : Bool
  deriving DecidableEq, Repr, Inhabited

/-- The layout of TMV (08 R232): `wty` is WTYPE, `m` and `n` hold the counts less one. -/
structure RTmv where
  g : Guard
  d : Opnd
  a : Opnd
  b : Opnd
  c : Opnd
  wty : Ty
  m : BitVec 4
  n : BitVec 4
  deriving DecidableEq, Repr, Inhabited

/-- The layout of CVTN and CVTW (08 R225, R226). -/
structure RNarrow where
  g : Guard
  d : Opnd
  a : Opnd
  b : Opnd
  c : Opnd
  ty : Ty
  rm : RMode
  sat : Bool
  ftz : Bool
  nosat : Bool
  fmt : BitVec 3
  deriving DecidableEq, Repr, Inhabited

/-- An I-form word (06 R159). -/
structure IForm where
  g : Guard
  d : BitVec 8
  a : BitVec 8
  imm : Word
  deriving DecidableEq, Repr, Inhabited

/-- A B-form word (06 R160). -/
structure BForm where
  g : Guard
  off : Word
  join : BitVec 16
  deriving DecidableEq, Repr, Inhabited

/-- A T-form target as its three fields (06 R162). -/
structure Target where
  cell : BitVec 6
  ctx : BitVec 3
  slot : BitVec 2
  deriving DecidableEq, Repr, Inhabited

/-- A T-form word (06 R161). `imm` holds bits `[24:2]`: the immediate when `immv`, else OPM. -/
structure TForm where
  op : BitVec 10
  top : BitVec 3
  t1 : Target
  t2 : Target
  arity : BitVec 3
  immv : Bool
  imm : BitVec 23
  deriving DecidableEq, Repr, Inhabited

/-- A block header word (06 R168). -/
structure BlockHdr where
  stmask : Word
  tdepth : BitVec 2
  nexit : BitVec 4
  nword : BitVec 8
  nmem : BitVec 6
  deriving DecidableEq, Repr, Inhabited

/-- Where a lattice context stands on a core: a cell and a context of it (12 R325). -/
structure CtxId where
  cell : Nat
  ctx : Nat
  deriving DecidableEq, Repr, Inhabited

/-- A warp of the lattice: the core and the warp slot, 8 × bench + slot on the bench (12 R329). -/
structure WarpAt where
  core : Nat
  wslot : Nat
  deriving DecidableEq, Repr, Inhabited

/-- What the placer answers for a request (12 R324): the origin, and for a loop the grid context, at origin 0, of each context of its graph
in turn; or a failure. -/
inductive PlacerAnswer where
  | placed (nodes : List Nat) (origin : Nat)
  | failed
  deriving DecidableEq, Repr, Inhabited

/-- The register windows of the host and the tenant, and the whole of BAR0 of physical function 0, which holds all but the tenant's
(14 R379, R383). -/
inductive RegWindow where
  | host (vd : Nat)
  | tenant (vd : Nat)
  | part (p : Nat)
  | mailbox
  | launchTable
  | bar0
  deriving DecidableEq, Repr, Inhabited

/-- A queue of events: a VD's or a partition's (17 R428). -/
inductive QueueId where
  | vd (n : Nat)
  | part (p : Nat)
  deriving DecidableEq, Repr, Inhabited

/-- Where a checked word failed (17 R421, R433). -/
inductive ErrPlace where
  | dieSector (die off : Nat)
  | l2Sector (die off : Nat)
  | farSector (off : Nat)
  | register (task warp reg lane : Nat)
  | uniform (task warp reg : Nat)
  | predicate (task warp pred lane : Nat)
  | spillWord (task warp off lane : Nat)
  | sharedWord (task off : Nat)
  | constWord (core off : Nat)
  | parkRecord (die rec : Nat)
  | cell (core cell : Nat)
  | token (core n : Nat)
  | overflowEntry (core n : Nat)
  | link (n : Nat)
  deriving DecidableEq, Repr, Inhabited

/-- One constructor for each row of spec/opcode_table.json, in the table's order, with the unassigned word among the instructions. -/
inductive Instr where
  -- groups 0x0 to 0x2 (07)
  | add (f : RArith) | addImm (f : IForm) | sub (f : RArith) | subImm (f : IForm)
  | addc (f : RArith) | subb (f : RArith) | mul (f : RArith) | mulImm (f : IForm)
  | mulh (f : RArith) | mad (f : RArith) | madw (f : RArith) | div (f : RArith) | rem (f : RArith)
  | min (f : RArith) | minImm (f : IForm) | max (f : RArith) | maxImm (f : IForm)
  | abs (f : RArith) | neg (f : RArith) | sad (f : RArith)
  | and (f : RArith) | andImm (f : IForm) | or (f : RArith) | orImm (f : IForm)
  | xor (f : RArith) | xorImm (f : IForm) | not (f : RArith) | andn (f : RArith) | andnImm (f : IForm)
  | blut (f : RRaw)
  | shl (f : RArith) | shlImm (f : IForm) | shr (f : RArith) | shrImm (f : IForm)
  | sra (f : RArith) | sraImm (f : IForm) | rot (f : RArith) | rotImm (f : IForm)
  | fshl (f : RArith) | bfx (f : RArith) | bfi (f : RArith)
  | popc (f : RArith) | clz (f : RArith) | ctz (f : RArith) | brev (f : RArith) | bpick (f : RRaw)
  | setp (f : RArith) | sel (f : RArith) | plop (f : RRaw) | mov (f : RArith) | movi (f : IForm)
  | movk (f : RArith) | movkImm (f : IForm) | cvti (f : RArith) | lea (f : RArith)
  | srd (f : RRaw) | clk (f : RArith)
  -- group 0x3 (07)
  | bra (f : BForm) | brx (f : RRaw) | call (f : BForm) | ret (f : RRaw)
  | exit (f : RRaw) | nop (f : RRaw) | yield (f : RRaw)
  -- group 0x4 (07)
  | vote (f : RArith) | lxch (f : RArith) | match (f : RArith) | segred (f : RArith) | scan (f : RArith)
  | actm (f : RArith) | elect (f : RArith)
  -- groups 0x5 to 0x7 (08)
  | fadd (f : RArith) | faddImm (f : IForm) | fsub (f : RArith) | fmul (f : RArith) | fmulImm (f : IForm)
  | ffma (f : RArith) | fmin (f : RArith) | fminImm (f : IForm) | fmax (f : RArith) | fmaxImm (f : IForm)
  | fsetp (f : RArith) | fsel (f : RArith) | frcp (f : RArith) | frsq (f : RArith) | fsqrt (f : RArith)
  | fdiv (f : RArith) | frnd (f : RArith) | fclass (f : RArith) | fscale (f : RArith) | frexp (f : RArith)
  | pkadd (f : RArith) | pkmul (f : RArith) | pkfma (f : RArith)
  | fchkTest (f : RArith) | fchkTrap (f : RArith)
  | fpmode (f : RArith) | fpmodeImm (f : IForm) | fpmodeGet (f : RArith)
  | dadd (f : RArith) | dmul (f : RArith) | dfma (f : RArith) | dsetp (f : RArith)
  | fex2 (f : RArith) | flg2 (f : RArith) | fsin (f : RArith) | fcos (f : RArith)
  | tmv (f : RTmv) | cvt (f : RArith) | cvtn (f : RNarrow) | cvtw (f : RNarrow)
  | pack (f : RArith) | unpack (f : RArith)
  -- groups 0x8 and 0x9 (09)
  | ld (f : RMem) | st (f : RMem) | ldk (f : RMem)
  | atomAdd (f : RAtom) | atomMin (f : RAtom) | atomMax (f : RAtom) | atomAnd (f : RAtom) | atomOr (f : RAtom)
  | atomXor (f : RAtom) | atomExch (f : RAtom) | atomCas (f : RAtom) | atomFadd (f : RAtom)
  | atomFmin (f : RAtom) | atomFmax (f : RAtom)
  | redAdd (f : RAtom) | redMin (f : RAtom) | redMax (f : RAtom) | redAnd (f : RAtom) | redOr (f : RAtom)
  | redXor (f : RAtom) | redFadd (f : RAtom) | redFmin (f : RAtom) | redFmax (f : RAtom)
  -- group 0xA (09)
  | fence (f : RAtom) | fnew (f : RSync) | fput (f : RSync) | fget (f : RSync) | ftry (f : RSync)
  | lkacq (f : RSync) | lkrel (f : RSync) | spawn (f : RSync) | tend (f : RRaw)
  | barInit (f : RRaw) | barArr (f : RRaw) | barWait (f : RRaw) | barSync (f : RRaw)
  -- group 0xB (09)
  | copy (f : RCopy) | copy2 (f : RCopy) | copy3 (f : RCopy) | gather (f : RCopy) | scatter (f : RCopy)
  | prefetch (f : RRaw) | cwb (f : RRaw) | cinv (f : RRaw)
  -- groups 0xC and 0xD (10)
  | mma (f : RMma) | mmas (f : RMma) | ldm (f : RLdm) | stm (f : RLdm) | trn (f : RArith)
  | gaset (f : RRaw) | garow (f : RRaw) | garun (f : RCopy) | gaq (f : RArith)
  -- group 0xE (11)
  | trap (f : IForm) | bkpt (f : RRaw) | eret (f : RRaw) | srwRead (f : RRaw) | srwWrite (f : RRaw)
  | capt (f : IForm) | jigld (f : RRaw) | jigst (f : RRaw) | drain (f : RArith) | drainFree (f : RArith)
  | live (f : RRaw) | capq (f : RRaw) | pmcr (f : RRaw) | pmcrClr (f : RRaw)
  -- group 0xF, T form (11)
  | steer (t : TForm) | merge (t : TForm) | wadv (t : TForm) | fan (t : TForm)
  | tagpsh (t : TForm) | tagpop (t : TForm) | bexit (t : TForm) | inj (t : TForm)
  -- a word that no rule assigns, read by the front end (18)
  | unassignedWordFetch (reason field : Nat)
  -- steps of the lattice (12)
  | contextFiring (t : TForm)
  | tokenArrival (core n : Nat)
  | orderQueueLoadIssue (w : WarpAt)
  | iterationCommit (w : WarpAt)
  | wadvAdmit (core : Nat) (x : CtxId)
  | drainComplete (w : WarpAt)
  | latticeWatchdog (w : WarpAt)
  | placerDone (core : Nat) (r : PlacerAnswer)
  | blockEntry (h : BlockHdr)
  | jigldComplete (w : WarpAt)
  -- scheduling (02, 13, 14)
  | adoptAnswer (vd : Nat) (cand : DWord)
  | tailWrite (vd : Nat) (tail : DWord)
  | launchAccept (vd : Nat)
  | taskPlacement (part die : Nat)
  | dispatchHeadTimeout (part die : Nat)
  | zalnaLaunchPacket (port src : Nat) (key : Word) (vd : Nat) (record : List Byte) (whole : Bool)
  | timeSliceEnd (part : Nat)
  | hostPreemptRequest (vd : Nat)
  | vdSwitchRestore (part : Nat)
  -- engines (09, 10, 19)
  | copyChunk (core entry : Nat)
  | gaeRow (core : Nat)
  | engctlResume (vd : Nat) (gen : Nat) (core entry : Nat)
  | engctlAbort (vd : Nat) (gen : Nat) (core entry : Nat)
  -- translation (03, 19)
  | tableWalk (vd die : Nat) (va : DWord) (needs : BitVec 3)
  | pageFaultService (vd die : Nat) (va : DWord) (needs : BitVec 3)
  | presp (vd : Nat) (value : DWord)
  | priResponse (vd gen : Nat) (page : DWord) (core entry : Nat) (ok : Bool)
  | invalidateStart (vd : Nat) (stage2 : Bool) (value : Word)
  | invalidationComplete (vd : Nat)
  | dlheadWrite (vd : Nat) (value : DWord)
  | dirtyLogFull (vd : Nat)
  | parkGrowthHw (part die : Nat) (granted : Bool)
  | pkgrowGrant (part : Nat) (value : DWord)
  | pkgrowRefuse (part : Nat) (value : DWord)
  | eventQueueRoom (q : QueueId)
  -- VDs, the host interface, clamping (14, 17)
  | vdCreate (vd : Nat) (cfg : DWord)
  | vdDisable (vd : Nat) (cfg : DWord)
  | vdreset (vd : Nat)
  | functionLevelReset (vd : Nat)
  | wake (vd : Nat)
  | cxlMemWrite (part off : Nat) (data : List Byte)
  | cxlMemRead (part off len : Nat)
  | clamp (part : Nat)
  | clampackConfirm (part num : Nat)
  | clampackDecline (part num : Nat)
  | wakeComplete (part micros : Nat) (failed : List Nat)
  | w2Restore (part off : Nat)
  | triageFence (part num : Nat)
  | triageRetire (part num : Nat)
  -- Firex (14, 17, 21)
  | pcreate (part : Nat) (bays : DWord) (list : DWord) (mode : DWord)
  | pdestroy (part : Nat)
  | capmove (src dst count : Nat)
  | capmoveConfirm (badBlock : Option Nat)
  | capmoveTimeout
  | attest (nonce report : DWord)
  | fwstage (image len : DWord) (raise : Bool)
  | errlog (part : Nat) (buffer : DWord) (maxCount : DWord)
  -- power and temperature (14, 21)
  | pvoteWrite (part : Nat) (value : DWord)
  | powerLimitStep
  | powerLimitRelax
  | thermalStage (far : Bool) (unit stage : Nat)
  | railDroop (die rail : Nat)
  | railShut (die rail : Nat)
  | railRestart (die rail : Nat) (ok : Bool)
  | dieLost (die : Nat)
  -- links and memory (17, 19, 21)
  | flitCrcError (link : Nat) (lasting : Bool)
  | boundaryLaneError (i dir lane : Nat)
  | zalnaLaneError (port dir lane : Nat)
  | channelFault (die slice : Nat) (unreadable : List Nat)
  | farChannelLost (channel : Nat)
  | dataErrorDetected (place : ErrPlace) (syndrome : DWord) (lasting : Bool)
  | patrolRead (die off : Nat) (lasting : Bool)
  -- reset and the rest
  | powerOnReset
  | fwHealthTimeout
  | registerWrite (w : RegWindow) (off : Nat) (value : DWord)
  | railVoltageRecovered (die rail : Nat)
  | fwHealthyReport
  deriving DecidableEq, Repr, Inhabited

end Sys2Proof
end

