-- ==== Sys2Proof/Machine/Accept.lean ====
section
/-! DEFINITION. Which words each instruction accepts (06 R155 to R164, 18 R439): the class of each operand field, the accepted
values of each modifier, and the reason and field code of everything else. -/

namespace Sys2Proof.Machine

/-- What an operand field may name. `src`, `dst` and `base` take `n` consecutive registers aligned to `n`. -/
inductive OpCls where
  /-- No operand: the field and its kind bit are zero (R164). -/
  | no
  /-- A source of `n` registers of either kind, or zero; a predicate only where `n` is 1 (R155). -/
  | src (n : Nat)
  /-- A destination of `n` thread registers, or discard; a predicate only where `n` is 1 (R155). -/
  | dst (n : Nat)
  /-- A memory base of `n` registers of either kind (R174). -/
  | base (n : Nat)
  /-- A block of `count` thread registers whose first is a multiple of `align`. -/
  | thr (align count : Nat)
  /-- As `thr`, or `vz`. -/
  | thrZ (align count : Nat)
  /-- A range of `count` registers of either kind whose first is a multiple of `align`. -/
  | rng (align count : Nat)
  /-- A uniform source of `n` registers aligned to `n`. -/
  | uni (n : Nat)
  /-- A uniform destination of `n` registers aligned to `n`. -/
  | uniDst (n : Nat)
  /-- `vz` alone. -/
  | zero
  deriving DecidableEq, Repr

/-- One operand of an instruction: its field code (R439), its class and what the word names. -/
structure OpUse where
  pos : Nat
  cls : OpCls
  o : Opnd
  deriving DecidableEq, Repr

/-- Reason 8 at field `pos` where `x` is not a multiple of `n`. -/
def misaligned (pos x n : Nat) : List (Nat × Nat) :=
  if x % n = 0 then [] else [(8, pos)]

/-- The unassigned features of one operand (18 R439): reason and field code. `vz` may stand where a register or a pair of either kind may, and
reads 0 there, of which R155 does not speak (DESIGN CHOICE, log 72). -/
def operandViol (u : OpUse) : List (Nat × Nat) :=
  match u.cls, u.o with
  | .no, .v n => if n = 0 then [] else [(3, u.pos)]
  | .no, _ => [(3, u.pos)]
  | _, .bad _ => [(4, u.pos)]
  | .src n, .v r => misaligned u.pos r.toNat n
  | .src n, .k r => misaligned u.pos r.toNat n
  | .src n, .p _ => if n = 1 then [] else [(4, u.pos)]
  | .src _, .vz => []
  | .dst n, .v r => misaligned u.pos r.toNat n
  | .dst _, .k _ => [(4, u.pos)]
  | .dst n, .p _ => if n = 1 then [] else [(4, u.pos)]
  | .dst _, .vz => []
  | .base n, .v r => misaligned u.pos r.toNat n
  | .base n, .k r => misaligned u.pos r.toNat n
  | .base _, .p _ => [(4, u.pos)]
  | .base _, .vz => []
  | .thr al _, .v r => misaligned u.pos r.toNat al
  | .thr _ _, _ => [(4, u.pos)]
  | .thrZ al _, .v r => misaligned u.pos r.toNat al
  | .thrZ _ _, .vz => []
  | .thrZ _ _, _ => [(4, u.pos)]
  | .rng al _, .v r => misaligned u.pos r.toNat al
  | .rng al _, .k r => misaligned u.pos r.toNat al
  | .rng _ _, _ => [(4, u.pos)]
  | .uni n, .k r => misaligned u.pos r.toNat n
  | .uni _, _ => [(4, u.pos)]
  | .uniDst n, .k r => misaligned u.pos r.toNat n
  | .uniDst _, _ => [(4, u.pos)]
  | .zero, .vz => []
  | .zero, _ => [(4, u.pos)]

/-- How many thread registers an operand of the class spans. -/
def clsCount : OpCls → Nat
  | .no => 0
  | .src n => n
  | .dst n => n
  | .base n => n
  | .thr _ c => c
  | .thrZ _ c => c
  | .rng _ c => c
  | .uni n => n
  | .uniDst n => n
  | .zero => 0

/-- One past the last thread register that an operand names; 0 where it names none (18 R442). -/
def operandEnd (u : OpUse) : Nat :=
  match u.cls, u.o with
  | .no, _ => 0
  | c, .v r => r.toNat + clsCount c
  | _, _ => 0

/-- Registers that a value of the type fills (R155, R157). -/
def tyRegs : Ty → Nat
  | .s64 | .z64 | .f64 => 2
  | .b128 => 4
  | .dflt | .s32 | .z32 | .s16 | .z16 | .s8 | .z8 | .f32 | .f16 | .bf16 | .f16x2 | .bf16x2 => 1

/-- What the modifiers of an instruction of the arithmetic layout may hold (R156, R157). -/
structure ArithMods where
  types : List Ty := [.dflt]
  rm : Bool := false
  sat : List Ty := []
  ftz : List Ty := []
  subs : Nat → Bool := fun n => decide (n = 0)

/-- The unassigned modifiers of a word of the arithmetic layout: TYPE is reason 6, the others are reason 7. -/
def arithViol (m : ArithMods) (f : RArith) : List (Nat × Nat) :=
  (if elemOf f.ty m.types then [] else [(6, 4)])
  ++ (if (decide (f.rm = .rn) || m.rm) && (!f.sat || elemOf f.ty m.sat) && (!f.ftz || elemOf f.ty m.ftz)
        && m.subs f.sub.toNat then [] else [(7, 4)])

/-- A layout bit pattern that must be zero: reason 3 at the OPM field. -/
def zeroOpm (b : Bool) : List (Nat × Nat) :=
  if b then [] else [(3, 4)]

/-- Reason 7 at the OPM field where the condition fails. -/
def opm7 (b : Bool) : List (Nat × Nat) :=
  if b then [] else [(7, 4)]

/-- Reason 6 at the OPM field where the condition fails. -/
def opm6 (b : Bool) : List (Nat × Nat) :=
  if b then [] else [(6, 4)]

def tInt : List Ty := [.dflt, .s32, .z32, .s64, .z64]
def tInt32 : List Ty := [.dflt, .s32, .z32]
def tMove : List Ty := [.dflt, .z32, .z64]
def tF3 : List Ty := [.dflt, .f32, .f16, .bf16]
def tF4 : List Ty := [.dflt, .f32, .f64, .f16, .bf16]
def tF2 : List Ty := [.dflt, .f32, .f64]
def tF1 : List Ty := [.dflt, .f32]
def tF6 : List Ty := [.dflt, .f32, .f64, .f16, .bf16, .f16x2, .bf16x2]
def tPk : List Ty := [.dflt, .f16x2, .bf16x2]
def tD : List Ty := [.dflt, .f64]
def tAllInt : List Ty := [.dflt, .s32, .z32, .s64, .z64, .s16, .z16, .s8, .z8]
def tLd : List Ty := [.dflt, .s32, .z32, .s64, .z64, .s16, .z16, .s8, .z8, .b128]
def tWide : List Ty := [.dflt, .s32, .z32, .s64, .z64, .b128]
def tElem : List Ty := [.dflt, .z32, .z64, .b128]

/-- Comparison conditions 0 to 5 with the combining bit (R192). -/
def subCmp (n : Nat) : Bool := decide (n % 8 ≤ 5)
def subAny (_ : Nat) : Bool := true
def subTo (m n : Nat) : Bool := decide (n ≤ m)

/-- The type that a SUB field holding a TYPE code names (R195, R224). -/
def subTy (s : BitVec 4) : Ty :=
  match s.toNat with
  | 0 => .dflt | 1 => .s32 | 2 => .z32 | 3 => .s64 | 4 => .z64 | 5 => .s16 | 6 => .z16 | 7 => .s8 | 8 => .z8
  | 9 => .f32 | 10 => .f64 | 11 => .f16 | 12 => .bf16 | 13 => .f16x2 | 14 => .bf16x2 | _ => .b128

/-- Whether a CVT type code names a floating format (R224); code 0 is FP32. -/
def cvtFloat : Ty → Bool
  | .dflt | .f32 | .f64 | .f16 | .bf16 => true
  | .s32 | .z32 | .s64 | .z64 | .s16 | .z16 | .s8 | .z8 | .f16x2 | .bf16x2 | .b128 => false

/-- Whether a CVT type names a format in which FTZ acts (R224). -/
def cvtFtz : Ty → Bool
  | .dflt | .f32 | .f16 | .bf16 => true
  | .f64 | .s32 | .z32 | .s64 | .z64 | .s16 | .z16 | .s8 | .z8 | .f16x2 | .bf16x2 | .b128 => false

/-- Whether CVT takes the type code (R224). -/
def cvtTy : Ty → Bool
  | .f16x2 | .bf16x2 | .b128 => false
  | .dflt | .f32 | .f64 | .f16 | .bf16 | .s32 | .z32 | .s64 | .z64 | .s16 | .z16 | .s8 | .z8 => true

/-- Elements of a CVTN or CVTW register (R225): 8 for `.f4` and `.s4`, else 4. -/
def narrowK (fmt : BitVec 3) : Nat :=
  if fmt.toNat = 2 ∨ fmt.toNat = 4 then 8 else 4

/-- Whether a matrix FMT carries KS scales (R272). -/
def fmtScaled (fmt : BitVec 4) : Bool :=
  elemOf fmt.toNat [2, 3, 4, 5, 10]

/-- Whether a matrix FMT is an integer format (R275). -/
def fmtInt (fmt : BitVec 4) : Bool :=
  elemOf fmt.toNat [6, 7, 8, 9, 11, 12]

/-- Lane length L of an operand (R271). -/
def fmtLaneLen (sparse : Bool) (fmt : BitVec 4) : Nat :=
  let l := match fmt.toNat with
    | 0 | 1 => 16
    | 10 | 11 | 12 => 64
    | 13 => 2
    | _ => 32
  if sparse then 2 * l else l

/-- Scale block size (R272, R274). -/
def mmaBlk (f : RMma) : Nat := if f.blk16 then 16 else 32

/-- Registers of the scale string of one operand (R272). -/
def scaleRegs (sparse : Bool) (f : RMma) : Nat :=
  if fmtScaled f.fmt then (fmtLaneLen sparse f.fmt + 2 * mmaBlk f - 1) / (2 * mmaBlk f) else 0

/-- Registers of one element block of A or B (R271). -/
def mmaElemRegs (sparse : Bool) (f : RMma) : Nat :=
  if f.fmt.toNat = 13 then 4 else if sparse then 16 else 8

/-- Registers of A, with its bitmap and scales (R272, R277). -/
def mmaARegs (sparse : Bool) (f : RMma) : Nat :=
  mmaElemRegs sparse f + (if sparse then fmtLaneLen sparse f.fmt / 32 else 0) + scaleRegs sparse f

/-- Registers of B, with its scales. -/
def mmaBRegs (sparse : Bool) (f : RMma) : Nat :=
  mmaElemRegs sparse f + scaleRegs sparse f

/-- Registers of C and D (R271): 4 for half-width formats and FP64. -/
def mmaCRegs (f : RMma) : Nat :=
  if f.dtype.toNat = 1 ∨ f.dtype.toNat = 2 ∨ f.fmt.toNat = 13 then 4 else 8

/-- Width class of an address in a space: a pair for `.die`, one register for the others (R174). -/
def baseCls (sp : Space) : OpCls :=
  match sp with
  | .die => .base 2
  | .shared | .spill | .const => .base 1

/-- The operand in the XSP space of a copy (R257). -/
def xspCls (x : BitVec 2) : OpCls := if x.toNat = 0 then .base 2 else .base 1

/-- The completion future of a copy (R257). -/
def fspCls (x : BitVec 2) : OpCls :=
  match x.toNat with
  | 0 => .base 2
  | 1 => .base 1
  | 2 => .zero
  | _ => .src 1

/-- Whether a control register is 64 bits wide (11 R303). -/
def crWide (sel : Nat) : Bool := elemOf sel [0x002, 0x010, 0x020, 0x022]

/-- The control registers of 11 R303. -/
def crSel (sel : Nat) : Bool := elemOf sel [0x000, 0x001, 0x002, 0x008, 0x010, 0x020, 0x022, 0x023]

/-- The SEL field of SRW, CAPQ and PMCR: OPM`[10:0]`. -/
def selOf (f : RRaw) : Nat := (f.opm.extractLsb' 0 11).toNat

/-- OPM`[11]` of SRW, CAPQ and PMCR. -/
def topOf (f : RRaw) : Bool := f.opm.getLsbD 11

/-- The four operands of an arithmetic word. -/
def usesA (f : RArith) (d a b c : OpCls) : List OpUse :=
  [⟨0, d, f.d⟩, ⟨1, a, f.a⟩, ⟨2, b, f.b⟩, ⟨3, c, f.c⟩]

/-- The four operands of a raw word. -/
def usesR (f : RRaw) (d a b c : OpCls) : List OpUse :=
  [⟨0, d, f.d⟩, ⟨1, a, f.a⟩, ⟨2, b, f.b⟩, ⟨3, c, f.c⟩]

/-- The operands of an atomic or reduction: `cas` reads c, a reduction writes no register (R242). -/
def usesAtom (f : RAtom) (red cas : Bool) : List OpUse :=
  let n := tyRegs f.ty
  [⟨0, if red then .no else .dst n, f.d⟩, ⟨1, baseCls f.space, f.a⟩, ⟨2, .src n, f.b⟩,
   ⟨3, if cas then .src n else .no, f.c⟩]

/-- The operands of a future or lock word. -/
def usesS (f : RSync) (d b c : OpCls) : List OpUse :=
  [⟨0, d, f.d⟩, ⟨1, baseCls f.space, f.a⟩, ⟨2, b, f.b⟩, ⟨3, c, f.c⟩]

/-- The operands of COPY, COPY2, COPY3 and GARUN. -/
def usesC (f : RCopy) : List OpUse :=
  [⟨0, .no, f.d⟩, ⟨1, xspCls f.xsp, f.a⟩, ⟨2, fspCls f.fsp, f.b⟩, ⟨3, .no, f.c⟩]

def usesMma (sparse : Bool) (f : RMma) : List OpUse :=
  let al := if f.fmt.toNat = 13 then 4 else 8
  [⟨0, .thr (mmaCRegs f) (mmaCRegs f), f.d⟩, ⟨1, .thr al (mmaARegs sparse f), f.a⟩,
   ⟨2, .thr al (mmaBRegs sparse f), f.b⟩, ⟨3, .thrZ (mmaCRegs f) (mmaCRegs f), f.c⟩]

def usesLdm (f : RLdm) : List OpUse :=
  [⟨0, .thr 4 (4 * 2 ^ f.wid.toNat), f.d⟩, ⟨1, baseCls f.space, f.a⟩, ⟨2, .src 1, f.b⟩, ⟨3, .no, f.c⟩]

/-- An I-form word with a destination and a register source. -/
def usesI (f : IForm) : List OpUse := [⟨0, .dst 1, .v f.d⟩, ⟨1, .src 1, .v f.a⟩]

/-- An I-form word with a destination alone: the a field is zero. -/
def usesId (f : IForm) : List OpUse := [⟨0, .dst 1, .v f.d⟩, ⟨1, .no, .v f.a⟩]

/-- An I-form word without registers. -/
def usesIn (f : IForm) : List OpUse := [⟨0, .no, .v f.d⟩, ⟨1, .no, .v f.a⟩]

/-- The operands that each instruction reads and writes, with their classes. T-form words and events have none. -/
def operandUses : Instr → List OpUse
  | .add f | .sub f | .mul f | .div f | .rem f | .min f | .max f =>
    usesA f (.dst (tyRegs f.ty)) (.src (tyRegs f.ty)) (.src (tyRegs f.ty)) .no
  | .addImm f | .subImm f | .mulImm f | .minImm f | .maxImm f => usesI f
  | .addc f | .subb f | .mad f | .sad f => usesA f (.dst 1) (.src 1) (.src 1) (.src 1)
  | .mulh f => usesA f (.dst 1) (.src 1) (.src 1) .no
  | .madw f => usesA f (.dst 2) (.src 1) (.src 1) (.src 2)
  | .abs f | .neg f => usesA f (.dst (tyRegs f.ty)) (.src (tyRegs f.ty)) .no .no
  | .and f | .or f | .xor f | .andn f | .shl f | .shr f | .sra f | .rot f | .bfx f =>
    usesA f (.dst 1) (.src 1) (.src 1) .no
  | .andImm f | .orImm f | .xorImm f | .andnImm f | .shlImm f | .shrImm f | .sraImm f | .rotImm f => usesI f
  | .not f | .popc f | .clz f | .ctz f | .brev f => usesA f (.dst 1) (.src 1) .no .no
  | .blut f | .plop f => usesR f (.dst 1) (.src 1) (.src 1) (.src 1)
  | .fshl f | .bfi f => usesA f (.dst 1) (.src 1) (.src 1) (.src 1)
  | .bpick f => usesR f (.dst 1) (.src 1) (.src 1) .no
  | .setp f => usesA f (.dst 1) (.src (tyRegs f.ty)) (.src (tyRegs f.ty)) (.src 1)
  | .sel f => usesA f (.dst (tyRegs f.ty)) (.src (tyRegs f.ty)) (.src (tyRegs f.ty)) (.src 1)
  | .mov f => usesA f (.dst (tyRegs f.ty)) (.src (tyRegs f.ty)) .no .no
  | .movi f => usesId f
  | .movk f => usesA f (.uniDst 1) (.src 1) .no .no
  | .movkImm f => [⟨1, .no, .v f.a⟩]
  | .cvti f => usesA f (.dst (tyRegs (subTy f.sub))) (.src (tyRegs f.ty)) .no .no
  | .lea f => usesA f (.dst 2) (.src 2) (.src 1) .no
  | .srd f => usesR f (.dst 1) .no .no .no
  | .clk f => usesA f (.dst 2) .no .no .no
  | .bra _ | .call _ => []
  | .brx f => usesR f .no (.src 2) (.uni 2) .no
  | .ret f => usesR f .no (.uni 2) .no .no
  | .exit f | .nop f | .yield f | .bkpt f | .eret f => usesR f .no .no .no .no
  | .vote f => usesA f (.dst 1) (.src 1) .no .no
  | .lxch f => usesA f (.dst (tyRegs f.ty)) (.src (tyRegs f.ty)) (.src 1) (.src 1)
  | .match f => usesA f (.dst 1) (.src (tyRegs f.ty)) .no .no
  | .segred f | .scan f => usesA f (.dst 1) (.src 1) (.src 1) .no
  | .actm f | .elect f => usesA f (.dst 1) .no .no .no
  | .fadd f | .fsub f | .fmul f => usesA f (.dst 1) (.src 1) (.src 1) .no
  | .faddImm f | .fmulImm f | .fminImm f | .fmaxImm f => usesI f
  | .ffma f => usesA f (.dst 1) (.src 1) (.src 1) (.src 1)
  | .fmin f | .fmax f | .fdiv f => usesA f (.dst (tyRegs f.ty)) (.src (tyRegs f.ty)) (.src (tyRegs f.ty)) .no
  | .fsetp f => usesA f (.dst 1) (.src 1) (.src 1) (.src 1)
  | .fsel f => usesA f (.dst (tyRegs f.ty)) (.src (tyRegs f.ty)) (.src (tyRegs f.ty)) (.src (tyRegs f.ty))
  | .frcp f | .fsqrt f | .frnd f => usesA f (.dst (tyRegs f.ty)) (.src (tyRegs f.ty)) .no .no
  | .frsq f | .fex2 f | .flg2 f | .fsin f | .fcos f => usesA f (.dst 1) (.src 1) .no .no
  | .fclass f => usesA f (.dst 1) (.src (tyRegs f.ty)) .no .no
  | .fscale f => usesA f (.dst (tyRegs f.ty)) (.src (tyRegs f.ty)) (.src 1) .no
  | .frexp f => usesA f (.dst (if f.sub = 1 then 1 else tyRegs f.ty)) (.src (tyRegs f.ty)) .no .no
  | .pkadd f | .pkmul f => usesA f (.dst 1) (.src 1) (.src 1) .no
  | .pkfma f => usesA f (.dst 1) (.src 1) (.src 1) (.src 1)
  | .fchkTest f => usesA f (.dst 1) (.src (tyRegs f.ty)) .no .no
  | .fchkTrap f => usesA f .no (.src (tyRegs f.ty)) .no .no
  | .fpmode f => usesA f (.dst 1) (.src 1) .no .no
  | .fpmodeImm f => usesId f
  | .fpmodeGet f => usesA f (.dst 1) .no .no .no
  | .dadd f | .dmul f => usesA f (.dst 2) (.src 2) (.src 2) .no
  | .dfma f => usesA f (.dst 2) (.src 2) (.src 2) (.src 2)
  | .dsetp f => usesA f (.dst 1) (.src 2) (.src 2) (.src 1)
  | .tmv f => [⟨0, .thr 1 (f.m.toNat + 1), f.d⟩, ⟨1, .thr 1 (f.n.toNat + 1), f.a⟩, ⟨2, .rng 1 1, f.b⟩,
      ⟨3, .thrZ 1 (f.m.toNat + 1), f.c⟩]
  | .cvt f => usesA f (.dst (tyRegs (subTy f.sub))) (.src (tyRegs f.ty)) .no .no
  | .cvtn f => [⟨0, .thr 1 1, f.d⟩, ⟨1, .rng (narrowK f.fmt) (narrowK f.fmt), f.a⟩, ⟨2, .src 1, f.b⟩, ⟨3, .no, f.c⟩]
  | .cvtw f =>
    let n := if f.ty = .bf16x2 then narrowK f.fmt / 2 else narrowK f.fmt
    [⟨0, .thr n n, f.d⟩, ⟨1, .src 1, f.a⟩, ⟨2, .src 1, f.b⟩, ⟨3, .no, f.c⟩]
  | .pack f => usesA f (.dst 1) (.src 1) (.src 1) (if f.sub.toNat < 2 then .no else .src 1)
  | .unpack f => usesA f (.dst 1) (.src 1) (if f.sub.toNat < 2 then .no else .src 1) .no
  | .ld f => [⟨0, .dst (tyRegs f.ty), f.d⟩, ⟨1, baseCls f.space, f.a⟩]
  | .st f => [⟨0, .src (tyRegs f.ty), f.d⟩, ⟨1, baseCls f.space, f.a⟩]
  | .ldk f => [⟨0, .uniDst (tyRegs f.ty), f.d⟩, ⟨1, .uni (if f.space = .die then 2 else 1), f.a⟩]
  | .atomAdd f | .atomMin f | .atomMax f | .atomAnd f | .atomOr f | .atomXor f | .atomExch f | .atomFadd f
  | .atomFmin f | .atomFmax f => usesAtom f false false
  | .atomCas f => usesAtom f false true
  | .redAdd f | .redMin f | .redMax f | .redAnd f | .redOr f | .redXor f | .redFadd f | .redFmin f | .redFmax f =>
    usesAtom f true false
  | .fence f => [⟨0, .no, f.d⟩, ⟨1, .no, f.a⟩, ⟨2, .no, f.b⟩, ⟨3, .no, f.c⟩]
  | .fnew f => usesS f .no (if f.var = 1 then .no else .src 2) .no
  | .fput f => usesS f .no (.src 2) (.src 1)
  | .fget f => usesS f (.dst 2) .no .no
  | .ftry f => usesS f (.dst 2) (.dst 1) .no
  | .lkacq f | .lkrel f => usesS f .no .no .no
  | .spawn f => usesS f (.dst 1) .no .no
  | .tend f => usesR f .no (.src 2) (.src 1) .no
  | .barInit f | .barWait f => usesR f .no (.src 1) (.src 1) .no
  | .barArr f => usesR f (.dst 1) (.src 1) .no .no
  | .barSync f => usesR f .no (.src 1) .no .no
  | .copy f | .copy2 f | .copy3 f | .garun f => usesC f
  | .gather f => [⟨0, xspCls f.xsp, f.d⟩, ⟨1, .src 2, f.a⟩, ⟨2, fspCls f.fsp, f.b⟩, ⟨3, .no, f.c⟩]
  | .scatter f => [⟨0, .src 2, f.d⟩, ⟨1, xspCls f.xsp, f.a⟩, ⟨2, fspCls f.fsp, f.b⟩, ⟨3, .no, f.c⟩]
  | .prefetch f | .cwb f | .cinv f => usesR f .no (.src 2) (.src 1) .no
  | .mma f => usesMma false f
  | .mmas f => usesMma true f
  | .ldm f | .stm f => usesLdm f
  | .trn f => usesA f (.thr 8 8) (.thr 8 8) (.thr 8 8) .no
  | .gaset f => usesR f .no (.src 1) (.src 1) (.src 1)
  | .garow f => usesR f (.thr 4 4) (.src 2) .no .no
  | .gaq f => usesA f (.dst 1) .no .no .no
  | .trap f | .capt f => usesIn f
  | .srwRead f => usesR f (.dst (if crWide (selOf f) then 2 else 1)) .no .no .no
  | .srwWrite f => usesR f .no (.src (if crWide (selOf f) then 2 else 1)) .no .no
  | .jigld f | .jigst f => usesR f (.dst 1) (.src 2) (.src 1) .no
  | .drain f | .drainFree f => usesA f .no (.src 1) .no .no
  | .live f => usesR f (.dst 1) (.src 1) .no .no
  | .capq f | .pmcr f | .pmcrClr f => usesR f (.dst 2) .no .no .no
  | _ => []

/-- The memory layout of LD, ST and LDK (R158, R238 to R240). -/
def memViol (types : List Ty) (anns : List Ann) (spaces : List Space) (f : RMem) : List (Nat × Nat) :=
  zeroOpm (decide (f.z = 0))
  ++ (if f.kbc.getLsbD 1 then [(3, 2)] else []) ++ (if f.kbc.getLsbD 0 then [(3, 3)] else [])
  ++ opm6 (elemOf f.ty types && (decide (f.space ≠ .spill) || elemOf f.ty tWide))
  ++ opm7 (elemOf f.space spaces && elemOf f.ann anns && decide (f.scope.toNat ≤ 4)
      && (elemOf f.space [.die, .shared] || (decide (f.ann = .relaxed) && decide (f.scope = 0))))

/-- The memory layout of atomics and reductions (R241, R242). A `.b128` access outside `.shared` has reason 7, where R439 could give it 6 too
(DESIGN CHOICE, log 73). -/
def atomViol (types : List Ty) (red : Bool) (f : RAtom) : List (Nat × Nat) :=
  zeroOpm (decide (f.z = 0)) ++ opm6 (elemOf f.ty types)
  ++ opm7 (elemOf f.space [.die, .shared] && decide (f.scope.toNat ≤ 4)
      && (decide (f.ty ≠ .b128) || decide (f.space = .shared))
      && (!red || elemOf f.ann [.relaxed, .rel]))

/-- The layout of futures and locks (R244): `maxVar` is the greatest variant. -/
def syncViol (maxVar : Nat) (f : RSync) : List (Nat × Nat) :=
  zeroOpm (decide (f.zero = 0)) ++ opm7 (elemOf f.space [.die, .shared] && decide (f.var.toNat ≤ maxVar))

/-- The layout of copies (R257, R263). -/
def copyViol (types : List Ty) (ops : Bool) (f : RCopy) : List (Nat × Nat) :=
  opm6 (elemOf f.ty types)
  ++ opm7 (decide (f.xsp.toNat ≤ 1) && elemOf f.ann [.relaxed, .rel] && decide (f.fsp.toNat ≤ 2)
      && (decide (f.ops = 0) || (ops && (decide (f.ops = 1) && decide (f.ty ≠ .b128)
          || decide (f.ops = 2) && elemOf f.ty [.dflt, .z32]))))

/-- The layout of MMA and MMAS (R274, R277). -/
def mmaViol (sparse : Bool) (f : RMma) : List (Nat × Nat) :=
  zeroOpm (decide (f.zero = 0))
  ++ opm7 (decide (f.fmt.toNat ≤ 13) && (!sparse || decide (f.fmt.toNat ≠ 13)) && decide (f.dtype.toNat ≤ 2)
      && (decide (f.dtype = 0) || !(fmtInt f.fmt || decide (f.fmt.toNat = 13)))
      && (!f.sat || fmtInt f.fmt) && (!(f.blk16 || f.kz) || fmtScaled f.fmt))

/-- The layout of LDM and STM (R280). -/
def ldmViol (store : Bool) (f : RLdm) : List (Nat × Nat) :=
  opm7 (decide (f.wid.toNat ≤ 2) && (!store || decide (f.tr = 0)) && elemOf f.space [.die, .shared]
    && decide (f.scope.toNat ≤ 4) && elemOf f.ann (if store then [.relaxed, .rel] else [.relaxed, .acq]))

/-- The layout of CVTN and CVTW (R225, R226). -/
def narrowViol (wide : Bool) (f : RNarrow) : List (Nat × Nat) :=
  opm6 (elemOf f.ty (if wide then [.dflt, .f32, .bf16x2] else [.dflt, .f32]))
  ++ opm7 (!f.sat && !f.ftz && decide (f.fmt.toNat ≤ 4) && (!f.nosat || (!wide && decide (f.fmt.toNat ≤ 1))))

/-- A raw OPM that must be zero. -/
def rawZero (f : RRaw) : List (Nat × Nat) := zeroOpm (decide (f.opm = 0))

/-- A raw OPM with an 8-bit table below zero bits (R187, R193). -/
def rawLut (f : RRaw) : List (Nat × Nat) := zeroOpm (decide (f.opm.toNat < 256))

/-- The unassigned modifier values of each instruction (18 R439). -/
def opmViol : Instr → List (Nat × Nat)
  | .add f | .sub f => arithViol { types := tInt, sat := tInt32 } f
  | .addc f | .subb f | .sad f | .mulh f | .madw f => arithViol { types := tInt32 } f
  | .mul f | .rem f | .min f | .max f => arithViol { types := tInt } f
  | .mad f => arithViol { types := tInt32, sat := tInt32 } f
  | .div f => arithViol { types := tInt, sat := [.dflt, .s32, .s64] } f
  | .abs f | .neg f => arithViol { types := [.dflt, .s32, .s64], sat := [.dflt, .s32, .s64] } f
  | .and f | .or f | .xor f | .not f | .andn f | .shl f | .shr f | .sra f | .rot f | .bfi f | .popc f | .clz f
  | .ctz f | .brev f | .actm f | .elect f => arithViol {} f
  | .movk f => zeroOpm (decide (f.ty = .dflt) && decide (f.rm = .rn) && !f.sat && !f.ftz && decide (f.sub = 0))
  | .fshl f => arithViol { subs := subTo 1 } f
  | .bfx f => arithViol { types := tInt32 } f
  | .blut f | .plop f => rawLut f
  | .bpick _ => []
  | .setp f => arithViol { types := tInt, subs := subCmp } f
  | .sel f | .mov f => arithViol { types := tMove } f
  | .cvti f => arithViol { types := tAllInt, sat := tAllInt, subs := subTo 8 } f
  | .lea f => arithViol { types := tInt32, subs := subAny } f
  | .srd f => opm7 (decide (f.opm.toNat ≤ 0xD))
  | .clk f => arithViol { subs := subTo 1 } f
  | .brx f | .ret f | .exit f | .nop f | .yield f => rawZero f
  | .call f => zeroOpm (decide (f.join = 0))
  | .vote f => arithViol { subs := subTo 3 } f
  | .lxch f => arithViol { types := tMove, subs := subTo 3 } f
  | .match f => arithViol { types := tMove, subs := subTo 1 } f
  | .segred f => arithViol { types := [.dflt, .s32, .z32, .f32], subs := fun n => decide (n ≤ if f.ty = .f32 then 2 else 5) } f
  | .scan f => arithViol { types := [.dflt, .s32, .z32, .f32], subs := fun n => decide (n % 8 ≤ if f.ty = .f32 then 2 else 5) } f
  | .fadd f | .fsub f | .fmul f | .ffma f => arithViol { types := tF3, rm := true, ftz := tF3 } f
  | .fmin f | .fmax f => arithViol { types := tF4, ftz := tF3 } f
  | .fsetp f => arithViol { types := tF3, ftz := tF3, subs := subAny } f
  | .fsel f => arithViol { types := tF2, ftz := tF1, subs := subTo 7 } f
  | .frcp f | .fsqrt f | .fdiv f | .fscale f => arithViol { types := tF2, rm := true, ftz := tF1 } f
  | .frsq f | .fex2 f | .flg2 f | .fsin f | .fcos f => arithViol { types := tF1, ftz := tF1 } f
  | .frnd f => arithViol { types := tF4, rm := true, ftz := tF3 } f
  | .fclass f => arithViol { types := tF4 } f
  | .frexp f => arithViol { types := tF2, ftz := tF1, subs := subTo 1 } f
  | .pkadd f | .pkmul f | .pkfma f => arithViol { types := tPk, rm := true, ftz := tPk } f
  | .fchkTest f => arithViol { types := tF6 } f
  | .fchkTrap f => arithViol { types := tF6, subs := fun n => decide (n = 1) } f
  | .fpmode f => arithViol {} f
  | .fpmodeGet f => arithViol { subs := fun n => decide (n = 1) } f
  | .dadd f | .dmul f | .dfma f => arithViol { types := tD, rm := true } f
  | .dsetp f => arithViol { types := tD, subs := subAny } f
  | .tmv f => opm6 (elemOf f.wty [.dflt, .f32, .bf16])
  | .cvt f => opm6 (cvtTy f.ty) ++ opm7 (cvtTy (subTy f.sub) && !f.sat
      && (cvtFloat f.ty || cvtFloat (subTy f.sub)) && (!f.ftz || cvtFtz f.ty || cvtFtz (subTy f.sub)))
  | .cvtn f => narrowViol false f
  | .cvtw f => narrowViol true f
  | .pack f | .unpack f => arithViol { subs := subTo 3 } f
  | .ld f => memViol tLd [.relaxed, .acq] [.die, .shared, .spill, .const] f
  | .st f => memViol tLd [.relaxed, .rel] [.die, .shared, .spill] f
  | .ldk f => memViol tWide [.relaxed, .acq] [.die, .shared, .const] f
  | .atomAdd f | .atomMin f | .atomMax f => atomViol tInt false f
  | .redAdd f | .redMin f | .redMax f => atomViol tInt true f
  | .atomAnd f | .atomOr f | .atomXor f => atomViol tMove false f
  | .redAnd f | .redOr f | .redXor f => atomViol tMove true f
  | .atomExch f | .atomCas f => atomViol tElem false f
  | .atomFadd f => atomViol [.dflt, .f32, .f64, .f16x2, .bf16x2] false f
  | .redFadd f => atomViol [.dflt, .f32, .f64, .f16x2, .bf16x2] true f
  | .atomFmin f | .atomFmax f => atomViol tF2 false f
  | .redFmin f | .redFmax f => atomViol tF2 true f
  | .fence f => zeroOpm (decide (f.z = 0) && decide (f.ty = .dflt) && decide (f.space = .die))
      ++ opm7 (decide (f.scope.toNat ≤ 4))
  | .fnew f => syncViol 1 f
  | .fput f | .fget f | .ftry f | .lkacq f | .lkrel f | .spawn f => syncViol 0 f
  | .tend f | .barInit f | .barArr f | .barWait f | .barSync f => rawZero f
  | .copy f | .copy2 f | .copy3 f => copyViol [.dflt] false f
  | .gather f => copyViol tElem false f
  | .scatter f => copyViol tElem true f
  | .prefetch f | .cwb f | .cinv f => rawZero f
  | .mma f => mmaViol false f
  | .mmas f => mmaViol true f
  | .ldm f => ldmViol false f
  | .stm f => ldmViol true f
  | .trn f => arithViol { types := [.dflt, .bf16, .f16], rm := true, ftz := [.dflt, .bf16, .f16], subs := subTo 1 } f
  | .gaset f | .garow f => rawZero f
  | .garun f => zeroOpm (decide (f.ty = .dflt) && decide (f.ann = .relaxed) && decide (f.ops = 0))
      ++ opm7 (decide (f.xsp.toNat ≤ 1) && decide (f.fsp.toNat ≤ 2))
  | .gaq f => arithViol { subs := subTo 2 } f
  | .bkpt f | .eret f | .jigld f | .jigst f | .live f => rawZero f
  | .srwRead f => opm7 (crSel (selOf f)) ++ zeroOpm (!topOf f)
  | .srwWrite f => opm7 (crSel (selOf f)) ++ zeroOpm (topOf f)
  | .capt f => zeroOpm (decide ((f.imm.extractLsb' 2 14) = 0))
      ++ opm7 (decide ((f.imm.extractLsb' 16 16) ≠ 0) && decide ((f.imm.extractLsb' 0 2).toNat ≤ 2))
  | .drain f => arithViol {} f
  | .drainFree f => arithViol { subs := fun n => decide (n = 1) } f
  | .capq f => zeroOpm (!topOf f) ++ opm7 (decide (selOf f ≤ 3))
  | .pmcr f => zeroOpm (!topOf f) ++ opm7 (decide (selOf f ≤ 5))
  | .pmcrClr f => zeroOpm (topOf f) ++ opm7 (decide (selOf f ≤ 5))
  | .movkImm f => if f.d.toNat < 64 then [] else [(4, 0)]
  | _ => []

/-- The guard of a front-end instruction; none for T-form words and events. -/
def guardOf : Instr → Option Guard
  | .add f | .sub f | .addc f | .subb f | .mul f | .mulh f | .mad f | .madw f | .div f | .rem f | .min f | .max f
  | .abs f | .neg f | .sad f | .and f | .or f | .xor f | .not f | .andn f | .shl f | .shr f | .sra f | .rot f
  | .fshl f | .bfx f | .bfi f | .popc f | .clz f | .ctz f | .brev f | .setp f | .sel f | .mov f | .movk f | .cvti f
  | .lea f | .clk f | .vote f | .lxch f | .match f | .segred f | .scan f | .actm f | .elect f | .fadd f | .fsub f
  | .fmul f | .ffma f | .fmin f | .fmax f | .fsetp f | .fsel f | .frcp f | .frsq f | .fsqrt f | .fdiv f | .frnd f
  | .fclass f | .fscale f | .frexp f | .pkadd f | .pkmul f | .pkfma f | .fchkTest f | .fchkTrap f | .fpmode f
  | .fpmodeGet f | .dadd f | .dmul f | .dfma f | .dsetp f | .fex2 f | .flg2 f | .fsin f | .fcos f | .cvt f | .pack f
  | .unpack f | .trn f | .gaq f | .drain f | .drainFree f => some f.g
  | .addImm f | .subImm f | .mulImm f | .minImm f | .maxImm f | .andImm f | .orImm f | .xorImm f | .andnImm f
  | .shlImm f | .shrImm f | .sraImm f | .rotImm f | .movi f | .movkImm f | .faddImm f | .fmulImm f | .fminImm f
  | .fmaxImm f | .fpmodeImm f | .trap f | .capt f => some f.g
  | .blut f | .bpick f | .plop f | .srd f | .brx f | .ret f | .exit f | .nop f | .yield f | .tend f | .barInit f
  | .barArr f | .barWait f | .barSync f | .prefetch f | .cwb f | .cinv f | .gaset f | .garow f | .bkpt f | .eret f
  | .srwRead f | .srwWrite f | .jigld f | .jigst f | .live f | .capq f | .pmcr f | .pmcrClr f => some f.g
  | .bra f | .call f => some f.g
  | .tmv f => some f.g
  | .cvtn f | .cvtw f => some f.g
  | .ld f | .st f | .ldk f => some f.g
  | .atomAdd f | .atomMin f | .atomMax f | .atomAnd f | .atomOr f | .atomXor f | .atomExch f | .atomCas f
  | .atomFadd f | .atomFmin f | .atomFmax f | .redAdd f | .redMin f | .redMax f | .redAnd f | .redOr f | .redXor f
  | .redFadd f | .redFmin f | .redFmax f | .fence f => some f.g
  | .fnew f | .fput f | .fget f | .ftry f | .lkacq f | .lkrel f | .spawn f => some f.g
  | .copy f | .copy2 f | .copy3 f | .gather f | .scatter f | .garun f => some f.g
  | .mma f | .mmas f => some f.g
  | .ldm f | .stm f => some f.g
  | _ => none

/-- A slot-3 target must be a south port or no target (R162). -/
def targetViol (fieldCode : Nat) (t : Target) : List (Nat × Nat) :=
  if t.slot = 3 then
    if t.ctx = 0 ∧ ((t.cell.extractLsb' 3 3) = 0 ∨ t.cell = 24) then [] else [(10, fieldCode)]
  else []

/-- The TOP values that an opcode accepts (R163, R313): `.push`, `.pop` and `.popinc` only for TAGPSH and TAGPOP. -/
def topAccepted (op top : Nat) : Bool :=
  match op with
  | 0x3C0 => elemOf top [0]
  | 0x3C1 => elemOf top [0, 7]
  | 0x3C2 => elemOf top [1, 5, 6]
  | 0x3C3 => elemOf top [0, 1, 7]
  | 0x3C4 => elemOf top [2]
  | 0x3C5 => elemOf top [3, 4]
  | 0x3C6 => elemOf top [0]
  | 0x3C7 => elemOf top [0]
  | _ => elemOf top [0, 1, 5, 6, 7]

/-- The OPM of a T-form word with IMMV = 0: immediate bits `[13:2]` of the word. -/
def tOpm (t : TForm) : BitVec 12 := t.imm.extractLsb' 0 12

/-- The SUB field of a T-form word's OPM. -/
def tSub (t : TForm) : Nat := ((tOpm t).extractLsb' 0 4).toNat

/-- Whether an opcode accepts an ARITY (R161, R313): each operation of group 0xF has one, `MERGE.first` (SUB 1) another than
`MERGE.join`; in the other groups a slot that ARITY does not count reads as zero (12 R345). -/
def arityAccepted (t : TForm) : Bool :=
  match t.op.toNat with
  | 0x3C0 => decide (t.arity = 2)
  | 0x3C1 => decide (t.arity = if t.immv = false ∧ tSub t = 1 then 1 else 2)
  | 0x3C2 | 0x3C3 | 0x3C4 | 0x3C5 | 0x3C6 => decide (t.arity = 1)
  | 0x3C7 => decide (t.arity = 0)
  | _ => decide (t.arity.toNat ≤ 3)

/-- The features of a T-form word that its layout leaves unassigned (R161 to R163, R313, R320). -/
def tFormViol (t : TForm) : List (Nat × Nat) :=
  (if topAccepted t.op.toNat t.top.toNat then [] else [(10, 10)])
  ++ (if arityAccepted t then [] else [(10, 11)])
  ++ targetViol 7 t.t1 ++ targetViol 8 t.t2
  ++ (if t.immv then [] else zeroOpm (decide ((t.imm.extractLsb' 12 11) = 0)))

/-- The features of a lattice-only word that uses no field of OPM but a sub-operation up to `maxSub` (R313 to R315, R319). -/
def latticeViol (t : TForm) (maxSub : Nat) : List (Nat × Nat) :=
  tFormViol t ++ zeroOpm (!t.immv && decide ((tOpm t).toNat < 16)) ++ opm7 (decide (tSub t ≤ maxSub))

/-- The features of a lattice-only word that uses nothing of its OPM (R313, R316 to R318). -/
def plainViol (t : TForm) : List (Nat × Nat) := tFormViol t ++ zeroOpm (!t.immv && decide (tOpm t = 0))

/-- The features of a WADV word: with IMMV the register of its caught token stands in IMM`[8:0]` (R346), else OPM is zero. -/
def wadvViol (t : TForm) : List (Nat × Nat) :=
  tFormViol t ++ zeroOpm (if t.immv then decide ((t.imm.extractLsb' 9 14) = 0) else decide (tOpm t = 0))

/-- The features of an INJ word: IMMV is 1 and IMM`[22:9]` is zero (R320). -/
def injViol (t : TForm) : List (Nat × Nat) :=
  tFormViol t ++ opm7 t.immv ++ zeroOpm (!t.immv || decide ((t.imm.extractLsb' 9 14) = 0))

/-- The target `nil` (R162). -/
def nilTarget : Target := ⟨24, 0, 3⟩

/-- An instruction whose first or second target must be `nil`: BEXIT names none (R319), nor do ST, RED and FENCE (R267), and MMA's second
is `nil` (R293). -/
def nilFirst (t : TForm) : List (Nat × Nat) := if t.t1 = nilTarget then [] else [(10, 7)]
def nilSecond (t : TForm) : List (Nat × Nat) := if t.t2 = nilTarget then [] else [(10, 8)]
def bexitTargets (t : TForm) : List (Nat × Nat) := nilFirst t ++ nilSecond t

/-- Whether an instruction that a T-form word holds with IMMV = 1 takes operand b from the immediate (R161, R208, R235): those of groups 0x0
to 0x7 that have an operand b when every OPM field is zero. -/
def takesImm (op : Nat) : Bool :=
  elemOf op [0x000, 0x001, 0x002, 0x003, 0x004, 0x005, 0x006, 0x007, 0x008, 0x009, 0x00A, 0x00B, 0x00E, 0x051,
    0x040, 0x041, 0x042, 0x044, 0x045, 0x046, 0x047, 0x048, 0x049, 0x04A, 0x04B, 0x04C, 0x080, 0x081, 0x082, 0x084, 0x087]
  || elemOf op [0x140, 0x141, 0x142, 0x143, 0x144, 0x145, 0x146, 0x147, 0x14B, 0x14E, 0x150, 0x151, 0x152,
    0x180, 0x181, 0x182, 0x183, 0x190, 0x1C1, 0x1C2, 0x1C3]

/-- The fields of a header by themselves (R168, R440 step 1). -/
def headerOk (h : BlockHdr) : Bool :=
  decide ((List.range 32).countP (fun i => h.stmask.getLsbD i) ≤ 16)
  && (List.range 32).all (fun i => !h.stmask.getLsbD i || decide (i < h.nmem.toNat))
  && decide (h.tdepth ≠ 0) && decide (h.nword ≠ 0) && decide (h.nmem.toNat ≤ 32)

end Sys2Proof.Machine
end

