-- ==== Sys2Proof/Machine/Layout.lean ====
section
/-! DEFINITION. The fields of the instruction word (06 R151 to R162): a reader and a writer for each layout, and the opcode map of
R166 with the forms of R167. -/

namespace Sys2Proof.Machine

/-- The operand that a field and its kind bit name (R155). -/
def opndOf (kind : BitVec 1) (f : BitVec 8) : Opnd :=
  if kind = 0 then .v f
  else if f.toNat < 0x40 then .k (f.extractLsb' 0 6)
  else if f.toNat < 0x48 then .p (f.extractLsb' 0 3)
  else if f = 0xFF then .vz
  else .bad f

/-- The kind bit of an operand. -/
def opndKind : Opnd → BitVec 1
  | .v _ => 0
  | .k _ | .p _ | .vz | .bad _ => 1

/-- The field value of an operand. -/
def opndField : Opnd → BitVec 8
  | .v n => n
  | .k n => (0#2 ++ n : BitVec 8)
  | .p n => (8#5 ++ n : BitVec 8)
  | .vz => 0xFF
  | .bad c => c

/-- The type of a TYPE code (R157). -/
def tyOf (c : BitVec 4) : Ty := subTy c

/-- The TYPE code of a type (R157). -/
def tyCode : Ty → BitVec 4
  | .dflt => 0 | .s32 => 1 | .z32 => 2 | .s64 => 3 | .z64 => 4 | .s16 => 5 | .z16 => 6 | .s8 => 7 | .z8 => 8
  | .f32 => 9 | .f64 => 10 | .f16 => 11 | .bf16 => 12 | .f16x2 => 13 | .bf16x2 => 14 | .b128 => 15

def rmOf (c : BitVec 2) : RMode :=
  match c.toNat with | 0 => .rn | 1 => .rz | 2 => .ru | _ => .rd
def rmCode : RMode → BitVec 2 | .rn => 0 | .rz => 1 | .ru => 2 | .rd => 3

def spaceOf (c : BitVec 2) : Space :=
  match c.toNat with | 0 => .die | 1 => .shared | 2 => .spill | _ => .const
def spaceCode : Space → BitVec 2 | .die => 0 | .shared => 1 | .spill => 2 | .const => 3

def annOf (c : BitVec 2) : Ann :=
  match c.toNat with | 0 => .relaxed | 1 => .acq | 2 => .rel | _ => .ar
def annCode : Ann → BitVec 2 | .relaxed => 0 | .acq => 1 | .rel => 2 | .ar => 3

def boolOf (b : BitVec 1) : Bool := decide (b = 1)
def boolCode (b : Bool) : BitVec 1 := if b then 1 else 0

/-- Fields of the R form (R153). -/
def wGuard (w : DWord) : Guard := ⟨boolOf (w.extractLsb' 53 1), w.extractLsb' 50 3⟩
def wD (w : DWord) : Opnd := opndOf (w.extractLsb' 14 1) (w.extractLsb' 42 8)
def wA (w : DWord) : Opnd := opndOf (w.extractLsb' 17 1) (w.extractLsb' 34 8)
def wB (w : DWord) : Opnd := opndOf (w.extractLsb' 16 1) (w.extractLsb' 26 8)
def wC (w : DWord) : Opnd := opndOf (w.extractLsb' 15 1) (w.extractLsb' 18 8)

/-- Readers, one for each layout of OPM. -/
def getRaw (w : DWord) : RRaw :=
  ⟨wGuard w, wD w, wA w, wB w, wC w, w.extractLsb' 2 12⟩
def getArith (w : DWord) : RArith :=
  ⟨wGuard w, wD w, wA w, wB w, wC w, tyOf (w.extractLsb' 10 4), rmOf (w.extractLsb' 8 2), boolOf (w.extractLsb' 7 1),
   boolOf (w.extractLsb' 6 1), w.extractLsb' 2 4⟩
def getMem (w : DWord) : RMem :=
  ⟨wGuard w, wD w, wA w, w.extractLsb' 18 16, w.extractLsb' 15 2, tyOf (w.extractLsb' 10 4),
   spaceOf (w.extractLsb' 8 2), annOf (w.extractLsb' 6 2), w.extractLsb' 3 3, w.extractLsb' 2 1⟩
def getAtom (w : DWord) : RAtom :=
  ⟨wGuard w, wD w, wA w, wB w, wC w, tyOf (w.extractLsb' 10 4), spaceOf (w.extractLsb' 8 2),
   annOf (w.extractLsb' 6 2), w.extractLsb' 3 3, w.extractLsb' 2 1⟩
def getSync (w : DWord) : RSync :=
  ⟨wGuard w, wD w, wA w, wB w, wC w, w.extractLsb' 10 4, spaceOf (w.extractLsb' 8 2), w.extractLsb' 2 6⟩
def getCopy (w : DWord) : RCopy :=
  ⟨wGuard w, wD w, wA w, wB w, wC w, tyOf (w.extractLsb' 10 4), w.extractLsb' 8 2, annOf (w.extractLsb' 6 2),
   w.extractLsb' 4 2, w.extractLsb' 2 2⟩
def getMma (w : DWord) : RMma :=
  ⟨wGuard w, wD w, wA w, wB w, wC w, w.extractLsb' 10 4, w.extractLsb' 8 2, boolOf (w.extractLsb' 7 1),
   boolOf (w.extractLsb' 6 1), boolOf (w.extractLsb' 5 1), w.extractLsb' 2 3⟩
def getLdm (w : DWord) : RLdm :=
  ⟨wGuard w, wD w, wA w, wB w, wC w, w.extractLsb' 12 2, w.extractLsb' 10 2, spaceOf (w.extractLsb' 8 2),
   annOf (w.extractLsb' 6 2), w.extractLsb' 3 3, boolOf (w.extractLsb' 2 1)⟩
def getTmv (w : DWord) : RTmv :=
  ⟨wGuard w, wD w, wA w, wB w, wC w, tyOf (w.extractLsb' 10 4), w.extractLsb' 6 4, w.extractLsb' 2 4⟩
def getNarrow (w : DWord) : RNarrow :=
  ⟨wGuard w, wD w, wA w, wB w, wC w, tyOf (w.extractLsb' 10 4), rmOf (w.extractLsb' 8 2), boolOf (w.extractLsb' 7 1),
   boolOf (w.extractLsb' 6 1), boolOf (w.extractLsb' 5 1), w.extractLsb' 2 3⟩
def getI (w : DWord) : IForm :=
  ⟨wGuard w, w.extractLsb' 42 8, w.extractLsb' 34 8, w.extractLsb' 2 32⟩
def getB (w : DWord) : BForm := ⟨wGuard w, w.extractLsb' 18 32, w.extractLsb' 2 16⟩
def getT (w : DWord) : TForm :=
  ⟨w.extractLsb' 54 10, w.extractLsb' 51 3, ⟨w.extractLsb' 45 6, w.extractLsb' 42 3, w.extractLsb' 40 2⟩,
   ⟨w.extractLsb' 34 6, w.extractLsb' 31 3, w.extractLsb' 29 2⟩, w.extractLsb' 26 3, boolOf (w.extractLsb' 25 1),
   w.extractLsb' 2 23⟩
def getHdr (w : DWord) : BlockHdr :=
  ⟨w.extractLsb' 22 32, w.extractLsb' 20 2, w.extractLsb' 16 4, w.extractLsb' 8 8, w.extractLsb' 2 6⟩

/-- The guard field of a word. -/
def guardBits (g : Guard) : BitVec 4 := boolCode g.neg ++ g.p

/-- An R-form word (R153). -/
def putR (op : BitVec 10) (g : Guard) (d a b c : Opnd) (opm : BitVec 12) : DWord :=
  op ++ guardBits g ++ opndField d ++ opndField a ++ opndField b ++ opndField c
    ++ opndKind a ++ opndKind b ++ opndKind c ++ opndKind d ++ opm ++ (0#2)

/-- Writers, one for each layout of OPM. -/
def putRaw (op : BitVec 10) (f : RRaw) : DWord := putR op f.g f.d f.a f.b f.c f.opm
def putArith (op : BitVec 10) (f : RArith) : DWord :=
  putR op f.g f.d f.a f.b f.c (tyCode f.ty ++ rmCode f.rm ++ boolCode f.sat ++ boolCode f.ftz ++ f.sub)
def putMem (op : BitVec 10) (f : RMem) : DWord :=
  op ++ guardBits f.g ++ opndField f.d ++ opndField f.a ++ f.off ++ opndKind f.a ++ f.kbc ++ opndKind f.d
    ++ tyCode f.ty ++ spaceCode f.space ++ annCode f.ann ++ f.scope ++ f.z ++ (0#2)
def putAtom (op : BitVec 10) (f : RAtom) : DWord :=
  putR op f.g f.d f.a f.b f.c (tyCode f.ty ++ spaceCode f.space ++ annCode f.ann ++ f.scope ++ f.z)
def putSync (op : BitVec 10) (f : RSync) : DWord :=
  putR op f.g f.d f.a f.b f.c (f.zero ++ spaceCode f.space ++ f.var)
def putCopy (op : BitVec 10) (f : RCopy) : DWord :=
  putR op f.g f.d f.a f.b f.c (tyCode f.ty ++ f.xsp ++ annCode f.ann ++ f.fsp ++ f.ops)
def putMma (op : BitVec 10) (f : RMma) : DWord :=
  putR op f.g f.d f.a f.b f.c
    (f.fmt ++ f.dtype ++ boolCode f.sat ++ boolCode f.blk16 ++ boolCode f.kz ++ f.zero)
def putLdm (op : BitVec 10) (f : RLdm) : DWord :=
  putR op f.g f.d f.a f.b f.c
    (f.wid ++ f.tr ++ spaceCode f.space ++ annCode f.ann ++ f.scope ++ boolCode f.geo)
def putTmv (op : BitVec 10) (f : RTmv) : DWord :=
  putR op f.g f.d f.a f.b f.c (tyCode f.wty ++ f.m ++ f.n)
def putNarrow (op : BitVec 10) (f : RNarrow) : DWord :=
  putR op f.g f.d f.a f.b f.c
    (tyCode f.ty ++ rmCode f.rm ++ boolCode f.sat ++ boolCode f.ftz ++ boolCode f.nosat ++ f.fmt)
def putI (op : BitVec 10) (f : IForm) : DWord := op ++ guardBits f.g ++ f.d ++ f.a ++ f.imm ++ (1#2)
def putB (op : BitVec 10) (f : BForm) : DWord := op ++ guardBits f.g ++ f.off ++ f.join ++ (2#2)
def putT (op : BitVec 10) (t : TForm) : DWord :=
  op ++ t.top ++ t.t1.cell ++ t.t1.ctx ++ t.t1.slot ++ t.t2.cell ++ t.t2.ctx ++ t.t2.slot ++ t.arity
    ++ boolCode t.immv ++ t.imm ++ (3#2)
def putHdr (h : BlockHdr) : DWord := (0x3FF#10) ++ h.stmask ++ h.tdepth ++ h.nexit ++ h.nword ++ h.nmem ++ (3#2)

/-- Chooses between the two instructions that share an opcode by a condition of the word. -/
def bySub (w : DWord) (a b : Instr) : Instr := if (getArith w).sub = 1 then b else a
def byTop (w : DWord) (a b : Instr) : Instr := if (w.extractLsb' 13 1) = 1 then b else a

/-- The R-form instruction of an opcode (R166, R167). -/
def rInstr (op : Nat) (w : DWord) : Option Instr :=
  match op with
  | 0x000 => some (.add (getArith w))
  | 0x001 => some (.sub (getArith w))
  | 0x002 => some (.addc (getArith w))
  | 0x003 => some (.subb (getArith w))
  | 0x004 => some (.mul (getArith w))
  | 0x005 => some (.mulh (getArith w))
  | 0x006 => some (.mad (getArith w))
  | 0x007 => some (.madw (getArith w))
  | 0x008 => some (.div (getArith w))
  | 0x009 => some (.rem (getArith w))
  | 0x00A => some (.min (getArith w))
  | 0x00B => some (.max (getArith w))
  | 0x00C => some (.abs (getArith w))
  | 0x00D => some (.neg (getArith w))
  | 0x00E => some (.sad (getArith w))
  | 0x040 => some (.and (getArith w))
  | 0x041 => some (.or (getArith w))
  | 0x042 => some (.xor (getArith w))
  | 0x043 => some (.not (getArith w))
  | 0x044 => some (.andn (getArith w))
  | 0x045 => some (.blut (getRaw w))
  | 0x046 => some (.shl (getArith w))
  | 0x047 => some (.shr (getArith w))
  | 0x048 => some (.sra (getArith w))
  | 0x049 => some (.rot (getArith w))
  | 0x04A => some (.fshl (getArith w))
  | 0x04B => some (.bfx (getArith w))
  | 0x04C => some (.bfi (getArith w))
  | 0x04D => some (.popc (getArith w))
  | 0x04E => some (.clz (getArith w))
  | 0x04F => some (.ctz (getArith w))
  | 0x050 => some (.brev (getArith w))
  | 0x051 => some (.bpick (getRaw w))
  | 0x080 => some (.setp (getArith w))
  | 0x081 => some (.sel (getArith w))
  | 0x082 => some (.plop (getRaw w))
  | 0x083 => some (.mov (getArith w))
  | 0x085 => some (.movk (getArith w))
  | 0x086 => some (.cvti (getArith w))
  | 0x087 => some (.lea (getArith w))
  | 0x088 => some (.srd (getRaw w))
  | 0x089 => some (.clk (getArith w))
  | 0x0C1 => some (.brx (getRaw w))
  | 0x0C3 => some (.ret (getRaw w))
  | 0x0C4 => some (.exit (getRaw w))
  | 0x0C5 => some (.nop (getRaw w))
  | 0x0C6 => some (.yield (getRaw w))
  | 0x100 => some (.vote (getArith w))
  | 0x101 => some (.lxch (getArith w))
  | 0x102 => some (.match (getArith w))
  | 0x103 => some (.segred (getArith w))
  | 0x104 => some (.scan (getArith w))
  | 0x105 => some (.actm (getArith w))
  | 0x106 => some (.elect (getArith w))
  | 0x140 => some (.fadd (getArith w))
  | 0x141 => some (.fsub (getArith w))
  | 0x142 => some (.fmul (getArith w))
  | 0x143 => some (.ffma (getArith w))
  | 0x144 => some (.fmin (getArith w))
  | 0x145 => some (.fmax (getArith w))
  | 0x146 => some (.fsetp (getArith w))
  | 0x147 => some (.fsel (getArith w))
  | 0x148 => some (.frcp (getArith w))
  | 0x149 => some (.frsq (getArith w))
  | 0x14A => some (.fsqrt (getArith w))
  | 0x14B => some (.fdiv (getArith w))
  | 0x14C => some (.frnd (getArith w))
  | 0x14D => some (.fclass (getArith w))
  | 0x14E => some (.fscale (getArith w))
  | 0x14F => some (.frexp (getArith w))
  | 0x150 => some (.pkadd (getArith w))
  | 0x151 => some (.pkmul (getArith w))
  | 0x152 => some (.pkfma (getArith w))
  | 0x153 => some (bySub w (.fchkTest (getArith w)) (.fchkTrap (getArith w)))
  | 0x154 => some (bySub w (.fpmode (getArith w)) (.fpmodeGet (getArith w)))
  | 0x180 => some (.dadd (getArith w))
  | 0x181 => some (.dmul (getArith w))
  | 0x182 => some (.dfma (getArith w))
  | 0x183 => some (.dsetp (getArith w))
  | 0x188 => some (.fex2 (getArith w))
  | 0x189 => some (.flg2 (getArith w))
  | 0x18A => some (.fsin (getArith w))
  | 0x18B => some (.fcos (getArith w))
  | 0x190 => some (.tmv (getTmv w))
  | 0x1C0 => some (.cvt (getArith w))
  | 0x1C1 => some (.cvtn (getNarrow w))
  | 0x1C2 => some (.cvtw (getNarrow w))
  | 0x1C3 => some (.pack (getArith w))
  | 0x1C4 => some (.unpack (getArith w))
  | 0x200 => some (.ld (getMem w))
  | 0x201 => some (.st (getMem w))
  | 0x202 => some (.ldk (getMem w))
  | 0x240 => some (.atomAdd (getAtom w))
  | 0x241 => some (.atomMin (getAtom w))
  | 0x242 => some (.atomMax (getAtom w))
  | 0x243 => some (.atomAnd (getAtom w))
  | 0x244 => some (.atomOr (getAtom w))
  | 0x245 => some (.atomXor (getAtom w))
  | 0x246 => some (.atomExch (getAtom w))
  | 0x247 => some (.atomCas (getAtom w))
  | 0x248 => some (.atomFadd (getAtom w))
  | 0x249 => some (.atomFmin (getAtom w))
  | 0x24A => some (.atomFmax (getAtom w))
  | 0x250 => some (.redAdd (getAtom w))
  | 0x251 => some (.redMin (getAtom w))
  | 0x252 => some (.redMax (getAtom w))
  | 0x253 => some (.redAnd (getAtom w))
  | 0x254 => some (.redOr (getAtom w))
  | 0x255 => some (.redXor (getAtom w))
  | 0x258 => some (.redFadd (getAtom w))
  | 0x259 => some (.redFmin (getAtom w))
  | 0x25A => some (.redFmax (getAtom w))
  | 0x280 => some (.fence (getAtom w))
  | 0x281 => some (.fnew (getSync w))
  | 0x282 => some (.fput (getSync w))
  | 0x283 => some (.fget (getSync w))
  | 0x284 => some (.ftry (getSync w))
  | 0x285 => some (.lkacq (getSync w))
  | 0x286 => some (.lkrel (getSync w))
  | 0x287 => some (.spawn (getSync w))
  | 0x288 => some (.tend (getRaw w))
  | 0x289 => some (.barInit (getRaw w))
  | 0x28A => some (.barArr (getRaw w))
  | 0x28B => some (.barWait (getRaw w))
  | 0x28C => some (.barSync (getRaw w))
  | 0x2C0 => some (.copy (getCopy w))
  | 0x2C1 => some (.copy2 (getCopy w))
  | 0x2C2 => some (.copy3 (getCopy w))
  | 0x2C3 => some (.gather (getCopy w))
  | 0x2C4 => some (.scatter (getCopy w))
  | 0x2C5 => some (.prefetch (getRaw w))
  | 0x2C6 => some (.cwb (getRaw w))
  | 0x2C7 => some (.cinv (getRaw w))
  | 0x300 => some (.mma (getMma w))
  | 0x301 => some (.mmas (getMma w))
  | 0x302 => some (.ldm (getLdm w))
  | 0x303 => some (.stm (getLdm w))
  | 0x304 => some (.trn (getArith w))
  | 0x340 => some (.gaset (getRaw w))
  | 0x341 => some (.garow (getRaw w))
  | 0x342 => some (.garun (getCopy w))
  | 0x343 => some (.gaq (getArith w))
  | 0x381 => some (.bkpt (getRaw w))
  | 0x382 => some (.eret (getRaw w))
  | 0x383 => some (byTop w (.srwRead (getRaw w)) (.srwWrite (getRaw w)))
  | 0x385 => some (.jigld (getRaw w))
  | 0x386 => some (.jigst (getRaw w))
  | 0x387 => some (bySub w (.drain (getArith w)) (.drainFree (getArith w)))
  | 0x388 => some (.live (getRaw w))
  | 0x389 => some (.capq (getRaw w))
  | 0x38A => some (byTop w (.pmcr (getRaw w)) (.pmcrClr (getRaw w)))
  | _ => none

/-- The I-form instruction of an opcode (R167). -/
def iInstr (op : Nat) (w : DWord) : Option Instr :=
  match op with
  | 0x000 => some (.addImm (getI w))
  | 0x001 => some (.subImm (getI w))
  | 0x004 => some (.mulImm (getI w))
  | 0x00A => some (.minImm (getI w))
  | 0x00B => some (.maxImm (getI w))
  | 0x040 => some (.andImm (getI w))
  | 0x041 => some (.orImm (getI w))
  | 0x042 => some (.xorImm (getI w))
  | 0x044 => some (.andnImm (getI w))
  | 0x046 => some (.shlImm (getI w))
  | 0x047 => some (.shrImm (getI w))
  | 0x048 => some (.sraImm (getI w))
  | 0x049 => some (.rotImm (getI w))
  | 0x085 => some (.movkImm (getI w))
  | 0x140 => some (.faddImm (getI w))
  | 0x142 => some (.fmulImm (getI w))
  | 0x144 => some (.fminImm (getI w))
  | 0x145 => some (.fmaxImm (getI w))
  | 0x154 => some (.fpmodeImm (getI w))
  | 0x084 => some (.movi (getI w))
  | 0x380 => some (.trap (getI w))
  | 0x384 => some (.capt (getI w))
  | _ => none

/-- The B-form instruction of an opcode (R167). -/
def bInstr (op : Nat) (w : DWord) : Option Instr :=
  match op with
  | 0x0C0 => some (.bra (getB w))
  | 0x0C2 => some (.call (getB w))
  | _ => none

/-- The lattice-only instruction of an opcode of group 0xF (R167). -/
def fInstr (op : Nat) (w : DWord) : Option Instr :=
  match op with
  | 0x3C0 => some (.steer (getT w))
  | 0x3C1 => some (.merge (getT w))
  | 0x3C2 => some (.wadv (getT w))
  | 0x3C3 => some (.fan (getT w))
  | 0x3C4 => some (.tagpsh (getT w))
  | 0x3C5 => some (.tagpop (getT w))
  | 0x3C6 => some (.bexit (getT w))
  | 0x3C7 => some (.inj (getT w))
  | _ => none

/-- Opcodes that R166 lists. -/
def opListed (op : Nat) : Bool :=
  (rInstr op 0).isSome || (iInstr op 0).isSome || (bInstr op 0).isSome || (fInstr op 0).isSome || decide (op = 0x3FF)

/-- Opcodes of groups 0x0 to 0xE that the T form accepts (R167). -/
def tAccepted (op : Nat) : Bool :=
  opListed op &&
  match op / 64 with
  | 0 | 1 | 5 | 6 | 7 => true
  | 2 => decide (op ≠ 0x088 ∧ op ≠ 0x089)
  | 8 => decide (op ≠ 0x202)
  | 9 => decide (0x250 ≤ op)
  | 10 => decide (op = 0x280)
  | 12 => decide (op = 0x300)
  | 13 => decide (op = 0x341 ∨ op = 0x342)
  | _ => false

/-- The R-form word with the opcode and OPM of a T-form word, every operand zero: what its OPM means (R161). -/
def tRWord (t : TForm) : DWord :=
  putR t.op ⟨false, 7⟩ (.v 0) (.v 0) (.v 0) (.v 0) (if t.immv then 0 else tOpm t)

/-- The front-end instruction whose computation a T-form word of groups 0x0 to 0xD performs; MOVI stands in I form. -/
def tBase (t : TForm) : Option Instr :=
  match rInstr t.op.toNat (tRWord t) with
  | some i => some i
  | none => iInstr t.op.toNat 0

end Sys2Proof.Machine
end

