-- ==== Sys2Proof/WellFormed.lean ====
section
/-! DEFINITION. Well-formed instructions: those with no unassigned feature under a version of the encoding (06 R164, R169, 18 R439). -/

namespace Sys2Proof

open Sys2Proof.Machine in
/-- The guard `!p7?` is unassigned (R154). -/
def guardViol (i : Instr) : List (Nat × Nat) :=
  match guardOf i with
  | some g => if g.neg && decide (g.p = 7) then [(5, 5)] else []
  | none => []

/-- TOP values that version 2 lacks (R169). -/
def topVersionViol (ver : Nat) (t : TForm) : List (Nat × Nat) :=
  if ver < 3 ∧ 5 ≤ t.top.toNat then [(9, 10)] else []

open Sys2Proof.Machine in
/-- Opcodes that the version lacks (R169). -/
def opVersionViol (ver op : Nat) : List (Nat × Nat) :=
  (if ver < 3 ∧ op = 0x190 then [(9, 6)] else [])
  ++ (if ver < 2 ∧ (op / 64 = 13 ∨ op = 0x301) then [(9, 6)] else [])

/-- Features that a word has only in a later version (R169). -/
def versionViol (ver : Nat) : Instr → List (Nat × Nat)
  | .tmv _ => opVersionViol ver 0x190
  | .mmas _ => opVersionViol ver 0x301
  | .gaset _ => opVersionViol ver 0x340
  | .garow _ => opVersionViol ver 0x341
  | .garun _ => opVersionViol ver 0x342
  | .gaq _ => opVersionViol ver 0x343
  | .steer t | .merge t | .wadv t | .fan t | .tagpsh t | .tagpop t | .bexit t | .inj t => topVersionViol ver t
  | .contextFiring t => topVersionViol ver t ++ opVersionViol ver t.op.toNat
  | _ => []

open Sys2Proof.Machine in
/-- What the OPM of a T-form word with IMMV = 0 leaves unassigned; SPACE 2 in LD, ST and RED stands for itself (R267), and its TYPE is read
as for `.die`. -/
def tOpmViol (t : TForm) : List (Nat × Nat) :=
  let spill (sp : Space) : Bool := decide (sp = .spill)
  let red (f : RAtom) (x : RAtom → Instr) : List (Nat × Nat) :=
    if spill f.space then opmViol (x { f with space := .die }) ++ [(10, 4)] else opmViol (x f)
  match tBase t with
  | some (.tmv f) => opmViol (.tmv f) ++ zeroOpm (decide (f.m = 0) && decide (f.n = 0))
  | some (.ld f) => opmViol (.ld f) ++ (if spill f.space then [(10, 4)] else [])
  | some (.st f) => opmViol (.st f) ++ (if spill f.space then [(10, 4)] else [])
  | some (.redAdd f) => red f .redAdd
  | some (.redMin f) => red f .redMin
  | some (.redMax f) => red f .redMax
  | some (.redAnd f) => red f .redAnd
  | some (.redOr f) => red f .redOr
  | some (.redXor f) => red f .redXor
  | some (.redFadd f) => red f .redFadd
  | some (.redFmin f) => red f .redFmin
  | some (.redFmax f) => red f .redFmax
  | some (.movi _) => zeroOpm (decide (tOpm t = 0))
  | some i => opmViol i
  | none => []

open Sys2Proof.Machine in
/-- Targets that an instruction of groups 0x0 to 0xD does not send to (R267, R293). -/
def tNilViol (t : TForm) : List (Nat × Nat) :=
  if t.op.toNat = 0x201 ∨ t.op.toNat / 64 = 9 ∨ t.op.toNat = 0x280 then nilFirst t ++ nilSecond t
  else if t.op.toNat = 0x300 then nilSecond t
  else []

open Sys2Proof.Machine in
/-- The unassigned features of a T-form word of groups 0x0 to 0xD (R161 to R164, R208, R235, R267, R293). -/
def firingViol (t : TForm) : List (Nat × Nat) :=
  (if opListed t.op.toNat then [] else [(1, 6)])
  ++ (if tAccepted t.op.toNat then [] else [(10, 6)])
  ++ tFormViol t ++ tNilViol t
  ++ (if t.immv then
        zeroOpm (takesImm t.op.toNat)
        ++ (if t.op = 0x190 then zeroOpm (decide ((t.imm.extractLsb' 17 5) = 0)) else [])
      else tOpmViol t)

open Sys2Proof.Machine in
/-- Every unassigned feature of an instruction under an encoding version: reason and field code (18 R439). -/
def violations (ver : Nat) (i : Instr) : List (Nat × Nat) :=
  guardViol i ++ versionViol ver i ++
  match i with
  | .contextFiring t => firingViol t
  | .steer t | .fan t | .tagpsh t | .tagpop t => plainViol t
  | .merge t => latticeViol t 1
  | .wadv t => wadvViol t
  | .bexit t => latticeViol t 15 ++ bexitTargets t
  | .inj t => injViol t
  | .blockEntry h => if headerOk h then [] else [(12, 9)]
  | i => (operandUses i).flatMap operandViol ++ opmViol i

/-- Whether the first reason and field code come before the second (18 R439). -/
def violLe (x y : Nat × Nat) : Bool := decide (x.1 < y.1 ∨ (x.1 = y.1 ∧ x.2 ≤ y.2))

/-- The lowest reason code, and among its features the lowest field code (18 R439). -/
def firstViol : List (Nat × Nat) → Option (Nat × Nat)
  | [] => none
  | x :: t => match firstViol t with
    | none => some x
    | some y => if violLe x y then some x else some y

/-- Whether an instruction of groups 0x0 to 0xD named by a T-form word is one that a T-form word may hold. -/
def tOpMatches : Instr → Bool
  | .steer t => decide (t.op = 0x3C0)
  | .merge t => decide (t.op = 0x3C1)
  | .wadv t => decide (t.op = 0x3C2)
  | .fan t => decide (t.op = 0x3C3)
  | .tagpsh t => decide (t.op = 0x3C4)
  | .tagpop t => decide (t.op = 0x3C5)
  | .bexit t => decide (t.op = 0x3C6)
  | .inj t => decide (t.op = 0x3C7)
  | _ => true

/-- A well-formed instruction of an encoding version: no unassigned feature, and a lattice-only word under its own opcode. -/
def WellFormed (ver : Nat) (i : Instr) : Prop := violations ver i = [] ∧ tOpMatches i = true

end Sys2Proof
end

