-- ==== Sys2Proof/Decode.lean ====
section
/-! DEFINITION. The decoder, total on any word and rejecting by reason and field (06 R151 to R170, 18 R439), and the encoder. -/

namespace Sys2Proof

open Sys2Proof.Machine

/-- The 64-bit word of eight bytes in little-endian order (R151, 00 R5). -/
def wordOfBytes (l : List Byte) : DWord :=
  l.foldr (fun b w => (w <<< 8) ||| (b.zeroExtend 64)) 0

/-- The instruction that a word's opcode and form name, before its fields are checked, or the reason and field of R439 that refuses
them. `block` reads a word inside an explicit block; otherwise the front end reads it. R439 lists no reason for a word of R, I or B
form, nor for a header word, among a block's words: they have reason 2, and reason 10 at field 6 (DESIGN CHOICE, log 73). -/
def parseWord (block : Bool) (w : DWord) : Except (Nat × Nat) Instr :=
  let op := (w.extractLsb' 54 10).toNat
  let form := (w.extractLsb' 0 2).toNat
  if !opListed op then .error (1, 6)
  else if block then
    if form ≠ 3 then .error (2, 6)
    else if op = 0x3FF then .error (10, 6)
    else match fInstr op w with
      | some i => .ok i
      | none => .ok (.contextFiring (getT w))
  else if op = 0x3FF ∧ form = 3 then .ok (.blockEntry (getHdr w))
  else if 15 ≤ op / 64 ∨ form = 3 then .error (11, 6)
  else match form with
    | 0 => match rInstr op w with
      | some i => .ok i
      | none => .error (2, 6)
    | 1 => match iInstr op w with
      | some i => .ok i
      | none => .error (2, 6)
    | _ => match bInstr op w with
      | some i => .ok i
      | none => .error (2, 6)

/-- Decodes a word under an encoding version: the instruction, or the reason and field code of its refusal (18 R439). -/
def decodeWord (ver : Nat) (block : Bool) (w : DWord) : Except (Nat × Nat) Instr :=
  match parseWord block w with
  | .error e => .error e
  | .ok i => match firstViol (violations ver i) with
    | some e => .error e
    | none => .ok i

/-- What the front end runs for a word that it fetched: the instruction, or the fetch of an unassigned word (18 R439). -/
def fetchInstr (ver : Nat) (w : DWord) : Instr :=
  match decodeWord ver false w with
  | .ok i => i
  | .error (r, f) => .unassignedWordFetch r f

/-- Whether a word is read as one of an explicit block: T form and not a block header. -/
def isBlockWord (w : DWord) : Bool :=
  decide ((w.extractLsb' 0 2) = 3) && decide ((w.extractLsb' 54 10) ≠ 0x3FF)

/-- The instruction that the decoder reads from a word with the bits `w`, at encoding version 3: T-form words as those of a block. -/
def decodeTableWord (_nbits w : Nat) : Option Instr :=
  let d : DWord := BitVec.ofNat 64 w
  match decodeWord 3 (isBlockWord d) d with
  | .ok i => some i
  | .error _ => none

/-- The word of an instruction, from the encoding tables of chapter 06; an event of the device has none. -/
def encode : Instr → Option DWord
  | .add f => some (putArith 0x000 f)
  | .sub f => some (putArith 0x001 f)
  | .addc f => some (putArith 0x002 f)
  | .subb f => some (putArith 0x003 f)
  | .mul f => some (putArith 0x004 f)
  | .mulh f => some (putArith 0x005 f)
  | .mad f => some (putArith 0x006 f)
  | .madw f => some (putArith 0x007 f)
  | .div f => some (putArith 0x008 f)
  | .rem f => some (putArith 0x009 f)
  | .min f => some (putArith 0x00A f)
  | .max f => some (putArith 0x00B f)
  | .abs f => some (putArith 0x00C f)
  | .neg f => some (putArith 0x00D f)
  | .sad f => some (putArith 0x00E f)
  | .and f => some (putArith 0x040 f)
  | .or f => some (putArith 0x041 f)
  | .xor f => some (putArith 0x042 f)
  | .not f => some (putArith 0x043 f)
  | .andn f => some (putArith 0x044 f)
  | .blut f => some (putRaw 0x045 f)
  | .shl f => some (putArith 0x046 f)
  | .shr f => some (putArith 0x047 f)
  | .sra f => some (putArith 0x048 f)
  | .rot f => some (putArith 0x049 f)
  | .fshl f => some (putArith 0x04A f)
  | .bfx f => some (putArith 0x04B f)
  | .bfi f => some (putArith 0x04C f)
  | .popc f => some (putArith 0x04D f)
  | .clz f => some (putArith 0x04E f)
  | .ctz f => some (putArith 0x04F f)
  | .brev f => some (putArith 0x050 f)
  | .bpick f => some (putRaw 0x051 f)
  | .setp f => some (putArith 0x080 f)
  | .sel f => some (putArith 0x081 f)
  | .plop f => some (putRaw 0x082 f)
  | .mov f => some (putArith 0x083 f)
  | .movk f => some (putArith 0x085 f)
  | .cvti f => some (putArith 0x086 f)
  | .lea f => some (putArith 0x087 f)
  | .srd f => some (putRaw 0x088 f)
  | .clk f => some (putArith 0x089 f)
  | .brx f => some (putRaw 0x0C1 f)
  | .ret f => some (putRaw 0x0C3 f)
  | .exit f => some (putRaw 0x0C4 f)
  | .nop f => some (putRaw 0x0C5 f)
  | .yield f => some (putRaw 0x0C6 f)
  | .vote f => some (putArith 0x100 f)
  | .lxch f => some (putArith 0x101 f)
  | .match f => some (putArith 0x102 f)
  | .segred f => some (putArith 0x103 f)
  | .scan f => some (putArith 0x104 f)
  | .actm f => some (putArith 0x105 f)
  | .elect f => some (putArith 0x106 f)
  | .fadd f => some (putArith 0x140 f)
  | .fsub f => some (putArith 0x141 f)
  | .fmul f => some (putArith 0x142 f)
  | .ffma f => some (putArith 0x143 f)
  | .fmin f => some (putArith 0x144 f)
  | .fmax f => some (putArith 0x145 f)
  | .fsetp f => some (putArith 0x146 f)
  | .fsel f => some (putArith 0x147 f)
  | .frcp f => some (putArith 0x148 f)
  | .frsq f => some (putArith 0x149 f)
  | .fsqrt f => some (putArith 0x14A f)
  | .fdiv f => some (putArith 0x14B f)
  | .frnd f => some (putArith 0x14C f)
  | .fclass f => some (putArith 0x14D f)
  | .fscale f => some (putArith 0x14E f)
  | .frexp f => some (putArith 0x14F f)
  | .pkadd f => some (putArith 0x150 f)
  | .pkmul f => some (putArith 0x151 f)
  | .pkfma f => some (putArith 0x152 f)
  | .fchkTest f => some (putArith 0x153 f)
  | .fchkTrap f => some (putArith 0x153 f)
  | .fpmode f => some (putArith 0x154 f)
  | .fpmodeGet f => some (putArith 0x154 f)
  | .dadd f => some (putArith 0x180 f)
  | .dmul f => some (putArith 0x181 f)
  | .dfma f => some (putArith 0x182 f)
  | .dsetp f => some (putArith 0x183 f)
  | .fex2 f => some (putArith 0x188 f)
  | .flg2 f => some (putArith 0x189 f)
  | .fsin f => some (putArith 0x18A f)
  | .fcos f => some (putArith 0x18B f)
  | .tmv f => some (putTmv 0x190 f)
  | .cvt f => some (putArith 0x1C0 f)
  | .cvtn f => some (putNarrow 0x1C1 f)
  | .cvtw f => some (putNarrow 0x1C2 f)
  | .pack f => some (putArith 0x1C3 f)
  | .unpack f => some (putArith 0x1C4 f)
  | .ld f => some (putMem 0x200 f)
  | .st f => some (putMem 0x201 f)
  | .ldk f => some (putMem 0x202 f)
  | .atomAdd f => some (putAtom 0x240 f)
  | .atomMin f => some (putAtom 0x241 f)
  | .atomMax f => some (putAtom 0x242 f)
  | .atomAnd f => some (putAtom 0x243 f)
  | .atomOr f => some (putAtom 0x244 f)
  | .atomXor f => some (putAtom 0x245 f)
  | .atomExch f => some (putAtom 0x246 f)
  | .atomCas f => some (putAtom 0x247 f)
  | .atomFadd f => some (putAtom 0x248 f)
  | .atomFmin f => some (putAtom 0x249 f)
  | .atomFmax f => some (putAtom 0x24A f)
  | .redAdd f => some (putAtom 0x250 f)
  | .redMin f => some (putAtom 0x251 f)
  | .redMax f => some (putAtom 0x252 f)
  | .redAnd f => some (putAtom 0x253 f)
  | .redOr f => some (putAtom 0x254 f)
  | .redXor f => some (putAtom 0x255 f)
  | .redFadd f => some (putAtom 0x258 f)
  | .redFmin f => some (putAtom 0x259 f)
  | .redFmax f => some (putAtom 0x25A f)
  | .fence f => some (putAtom 0x280 f)
  | .fnew f => some (putSync 0x281 f)
  | .fput f => some (putSync 0x282 f)
  | .fget f => some (putSync 0x283 f)
  | .ftry f => some (putSync 0x284 f)
  | .lkacq f => some (putSync 0x285 f)
  | .lkrel f => some (putSync 0x286 f)
  | .spawn f => some (putSync 0x287 f)
  | .tend f => some (putRaw 0x288 f)
  | .barInit f => some (putRaw 0x289 f)
  | .barArr f => some (putRaw 0x28A f)
  | .barWait f => some (putRaw 0x28B f)
  | .barSync f => some (putRaw 0x28C f)
  | .copy f => some (putCopy 0x2C0 f)
  | .copy2 f => some (putCopy 0x2C1 f)
  | .copy3 f => some (putCopy 0x2C2 f)
  | .gather f => some (putCopy 0x2C3 f)
  | .scatter f => some (putCopy 0x2C4 f)
  | .prefetch f => some (putRaw 0x2C5 f)
  | .cwb f => some (putRaw 0x2C6 f)
  | .cinv f => some (putRaw 0x2C7 f)
  | .mma f => some (putMma 0x300 f)
  | .mmas f => some (putMma 0x301 f)
  | .ldm f => some (putLdm 0x302 f)
  | .stm f => some (putLdm 0x303 f)
  | .trn f => some (putArith 0x304 f)
  | .gaset f => some (putRaw 0x340 f)
  | .garow f => some (putRaw 0x341 f)
  | .garun f => some (putCopy 0x342 f)
  | .gaq f => some (putArith 0x343 f)
  | .bkpt f => some (putRaw 0x381 f)
  | .eret f => some (putRaw 0x382 f)
  | .srwRead f => some (putRaw 0x383 f)
  | .srwWrite f => some (putRaw 0x383 f)
  | .jigld f => some (putRaw 0x385 f)
  | .jigst f => some (putRaw 0x386 f)
  | .drain f => some (putArith 0x387 f)
  | .drainFree f => some (putArith 0x387 f)
  | .live f => some (putRaw 0x388 f)
  | .capq f => some (putRaw 0x389 f)
  | .pmcr f => some (putRaw 0x38A f)
  | .pmcrClr f => some (putRaw 0x38A f)
  | .addImm f => some (putI 0x000 f)
  | .subImm f => some (putI 0x001 f)
  | .mulImm f => some (putI 0x004 f)
  | .minImm f => some (putI 0x00A f)
  | .maxImm f => some (putI 0x00B f)
  | .andImm f => some (putI 0x040 f)
  | .orImm f => some (putI 0x041 f)
  | .xorImm f => some (putI 0x042 f)
  | .andnImm f => some (putI 0x044 f)
  | .shlImm f => some (putI 0x046 f)
  | .shrImm f => some (putI 0x047 f)
  | .sraImm f => some (putI 0x048 f)
  | .rotImm f => some (putI 0x049 f)
  | .movkImm f => some (putI 0x085 f)
  | .faddImm f => some (putI 0x140 f)
  | .fmulImm f => some (putI 0x142 f)
  | .fminImm f => some (putI 0x144 f)
  | .fmaxImm f => some (putI 0x145 f)
  | .fpmodeImm f => some (putI 0x154 f)
  | .movi f => some (putI 0x084 f)
  | .trap f => some (putI 0x380 f)
  | .capt f => some (putI 0x384 f)
  | .bra f => some (putB 0x0C0 f)
  | .call f => some (putB 0x0C2 f)
  | .steer f => some (putT 0x3C0 f)
  | .merge f => some (putT 0x3C1 f)
  | .wadv f => some (putT 0x3C2 f)
  | .fan f => some (putT 0x3C3 f)
  | .tagpsh f => some (putT 0x3C4 f)
  | .tagpop f => some (putT 0x3C5 f)
  | .bexit f => some (putT 0x3C6 f)
  | .inj f => some (putT 0x3C7 f)
  | .blockEntry h => some (putHdr h)
  | .contextFiring t => some (putT t.op t)
  | _ => none

end Sys2Proof
end

