-- ==== Sys2Proof/Config.lean ====
section
/-! DEFINITION. Values that an implementation fixes and that the manual leaves open: opaque constants without a body. -/

namespace Sys2Proof.Config

/-- The special functions whose result bits the manual leaves open within bounds (08 R217, R223). -/
inductive SfuFn where
  | frsq | fex2 | flg2 | fsin | fcos
  deriving DecidableEq, Repr

/-- The fixed function of its input that an implementation computes for each special function (08 R217, R223; log 6). -/
opaque sfu : SfuFn → Word → Word

/-- A fresh free value for each index: the value of a read or result that the manual does not state (log 6). -/
opaque free : Nat → DWord

/-- The energy in microjoules that a core of a partition takes in a stretch of time: for each index, the partition, the region, the point of
its clock and that of its rail (14 R405; log 6). -/
opaque energy : Nat → Nat → Nat → Nat → Nat → Word

/-- Whether the Ed25519 signature of a firmware image verifies against the fused vendor key (14 R407; log 9). -/
opaque imageVerifies : List Byte → Bool

/-- Whether the length and format of a firmware image are right (14 R407, 21 R517; log 9). -/
opaque imageFormatOk : List Byte → Bool

/-- The security version that a firmware image carries (14 R407; log 9). -/
opaque imageVersion : List Byte → Word

/-- The words of the SHA-512 digest of the partition table, the ownership table and the PMODE words, whose form in the digest is not given: a
function of the tables (14 R408; log 6). -/
opaque tableDigest : List Nat → Nat → DWord

end Sys2Proof.Config
end

