-- ==== Sys2Proof/Machine/State.lean ====
section
/-! DEFINITION. The state of the package as plain data: everything chapters 01 to 21 give the machine, the reasons a step can stop,
and the state after power-on reset. -/

namespace Sys2Proof.Machine

/-- Reasons a step stops as a fault of the model. -/
inductive Fault where
  /-- Raised by a warp instruction or a context firing executed while no warp or context is current. `step` never does that. Safe. -/
  | noWarp
  deriving DecidableEq, Repr

/-- Reasons a step is refused. -/
inductive Refusal where
  /-- Raised by the dispatch arm of an instruction without a meaning. Safe. -/
  | notModelled (mnemonic : String)
  deriving DecidableEq, Repr

/-- The variant and the optional units that the package has (00 R1, R2, 01 R32). -/
structure Fitted where
  fourDies : Bool
  gae : Bool
  farm : Bool
  wzero : Bool
  zports : BitVec 8
  deriving DecidableEq, Repr

/-- One entry of a divergence stack (02 R60). -/
structure DivEntry where
  join : DWord
  restore : Word
  pendingPc : DWord
  pending : Word
  deriving DecidableEq, Repr

/-- The place of a future or lock word: a physical byte address, or an offset in a task's `.shared` space (02 R49). -/
inductive Loc where
  | phys (pa : Nat)
  | shared (task off : Nat)
  deriving DecidableEq, Repr

/-- What a fault record says of the instruction that met it (17 R423). -/
structure FaultInfo where
  cause : Nat
  lanes : Word := 0
  detail : Nat := 0
  addr : DWord := 0
  info : DWord := 0
  unit : Nat := 0
  /-- The handler's vector entry could not be read, so that it reads as zero (11 R297). -/
  noHandler : Bool := false
  deriving DecidableEq, Repr

/-- What a warp is blocked or held on (02 R63, 09 R264, 10 R290, 11 R307, R309, 13 R371, 19 R459, R477). -/
inductive Blocked where
  | ready
  /-- `FGET` on a record, at the address that its lowest lane named; `fin` holds its destination and lanes when all of them name that
  record, so that the wake completes it. -/
  | future (l : Loc) (rec : Nat) (va : DWord) (fin : Option (Opnd × Word))
  | lock (l : Loc) (rec : Nat) (va : DWord)
  /-- A barrier wait, with the lowest lane active at the instruction. -/
  | barrier (b lane : Nat)
  /-- A `GAROW` whose rows the GAE is running. -/
  | gae
  /-- A `JIGLD` that waits for the placer or the load. -/
  | jig
  /-- An explicit block's header that waits for the placer. -/
  | block
  /-- A `DRAIN` of the slot, or a `DRAIN.free`. -/
  | drain (slot : Nat) (free : Bool)
  /-- A `FENCE.dev` or `.sys` that waits for the warp's copies (04 R117). -/
  | copies
  /-- A fence of an iteration that a purge left committed, which waits for the warp's operations (04 R114, R117, 20 R481). -/
  | fence
  /-- An access held on page request tags, and the fault it meets if one is refused. -/
  | page (tags : List Nat) (f : FaultInfo)
  /-- A warp that must park while the overflow region grows, and the fault that it meets if the region does not. -/
  | parkRoom (f : FaultInfo)
  /-- An access that would set a stage-2 D bit of a throttled VD or a full dirty log. -/
  | dirty
  deriving DecidableEq, Repr

/-- The GAE context of a warp (10 R284). -/
structure GaeCtx where
  a : Word
  b : Word
  cfg : Word
  deriving DecidableEq, Repr

/-- A tag of the lattice (12 R329): warp slot, image slot and the three iteration fields. -/
structure Tag where
  wslot : Nat
  islot : Nat
  o : BitVec 16
  m : BitVec 16
  i : BitVec 16
  deriving DecidableEq, Repr

/-- A memory token of an iteration (12 R336): its sequence number, kind, lanes, addresses and data. That of a `GAROW` holds its place, the
number of memory operations before it. -/
structure MemTok where
  seq : Nat
  word : TForm
  node : Nat
  mask : Word
  addr : List DWord
  data : List DWord
  done : Bool
  /-- Where the free values stand that its instruction leaves open. -/
  free : Nat
  deriving DecidableEq, Repr

/-- A live-out token of an iteration: the sending context, the port number, and the value. -/
structure LiveOut where
  node : Nat
  port : Nat
  w64 : Bool
  mask : Word
  data : List DWord
  deriving DecidableEq, Repr

/-- An exit event (12 R340): the lanes it removed, the exit number, its level and the iteration. -/
structure ExitEv where
  lanes : Word
  exit : Nat
  level : Nat
  tag : Tag
  deriving DecidableEq, Repr

/-- One live iteration of a lattice warp (12 R330, R336). -/
structure Iter where
  level : Nat
  tag : Tag
  ordinal : Nat
  stamp : Nat
  toks : List MemTok
  outs : List LiveOut
  exits : List ExitEv
  /-- The values that the level's `WADV` contexts sent for this iteration: context and token (20 R481). -/
  heads : List (Nat × LiveOut)
  /-- The `MMA` contexts that have fired for it, how many of their instructions count, and KBC after each (10 R273, R293). -/
  fired : List (Nat × Nat × Option (BitVec 7))
  deriving DecidableEq, Repr

/-- One open level instance of a lattice warp: iterations admitted and the oldest uncommitted ordinal (12 R330). -/
structure LevelInst where
  level : Nat
  parent : Tag
  admitted : Nat
  committed : Nat
  closed : Bool
  /-- The `TAGPSH` contexts that have sent into it (12 R318). -/
  pushed : List Nat
  deriving DecidableEq, Repr

/-- Why a lattice warp drains (12 R337). -/
inductive DrainWhy where
  | preempt
  | sideExit
  | fault
  | purge
  deriving DecidableEq, Repr

/-- A warp's run in the lattice (02 R71, 12 R336 to R340). -/
structure LatRun where
  slot : Nat
  stack : List DivEntry
  mask : Word
  levels : List LevelInst
  iters : List Iter
  exits : List ExitEv
  /-- Tokens caught by `WADV` contexts: context and token. -/
  caught : List (Nat × LiveOut)
  /-- Tokens gathered by `TAGPOP` contexts: context, the level and tag of the enclosing iteration, and the token. -/
  gathered : List (Nat × Nat × Tag × LiveOut)
  /-- Those that have been forwarded, until their iteration commits. -/
  popped : List (Nat × Nat × Tag × LiveOut)
  drain : Option (DrainWhy × Tag × Nat)
  /-- The iteration that a drain's cause names, where that is not its boundary (20 R482). -/
  named : Option Tag
  /-- The ordinal of its first outermost iteration: 0, or that of the drain section with which it entered again (12 R341). -/
  first : Nat
  /-- The scope of a fence of a committed iteration that still waits for the warp's operations (04 R114, R117). -/
  fence : Option Nat
  watchdog : Nat
  /-- Accesses held on page requests: the request's tag, the tag and level of the iteration (20 R480). -/
  held : List (Nat × Tag × Nat)
  deriving DecidableEq, Repr

/-- What a drain left of a warp's run, for a drain section (12 R351): the slot, the boundary, its ordinals by level, the tokens that it
caught, and the exit events of its open instances. -/
structure DrainRec where
  slot : Nat
  tag : Tag
  ords : List Nat
  toks : List (Nat × LiveOut)
  events : List ExitEv
  deriving DecidableEq, Repr

/-- One warp (02 R59, R60, 03 R79, R80, 08 R228, 10 R273, R284, 11 R296, R312, 13 R367). -/
structure Warp where
  pc : DWord
  active : Word
  launch : Word
  /-- Thread registers: key 32 × register + lane, default 0. -/
  regs : List (Nat × Word)
  /-- Uniform registers, default 0. -/
  kregs : List (Nat × Word)
  /-- Predicates `p0` to `p6` as lane masks, default 0. -/
  preds : List (Nat × Word)
  stack : List DivEntry
  fpmode : Word
  kbc : BitVec 7
  gctx : Option GaeCtx
  handler : Bool
  trapCause : BitVec 8
  /-- `.spill` words: key 8 × spill address + lane, the word index of the backing store (R81), default 0. -/
  spill : List (Nat × Word)
  issued : DWord
  iters : DWord
  mmas : DWord
  blocked : Blocked
  /-- Order number of the blocking, for the earliest-blocked warp of 02 R64. -/
  blockedAt : Nat
  /-- Lock words that the `LKACQ` at PC has acquired already (09 R250). -/
  acq : List Loc
  /-- Barrier and token of the `BAR.SYNC` at PC that has arrived already (09 R255). -/
  arrived : Option (Nat × BitVec 16)
  /-- A fault that the warp's instruction has raised, while the read of its vector entry is held (11 R297). -/
  raised : Option FaultInfo
  stamp : Nat
  passed : Nat
  yieldLeft : Nat
  lat : Option LatRun
  drained : Option DrainRec
  /-- The image slot that the warp may enter again with a drain section's ordinal (12 R341). -/
  reenter : Option (Nat × Nat)
  /-- Registers and spill words whose value is marked lost (17 R433): thread registers by their key in `regs`, uniform register n as
  32,768 + n, and predicate p of lane l as 40,960 + 32 × p + l; spill words by their key in `spill`. -/
  lostRegs : List (Nat × Bool)
  lostSpill : List (Nat × Bool)
  /-- The image slot and boundary of a fault drain whose iteration the front end re-executes (20 R482), and the addresses between which
  that code stands. -/
  rebuilt : Option (Nat × Tag × DWord × DWord)
  /-- The results that the GAE has formed for the warp's `GAROW`: key 32 × column + lane. -/
  gaeOut : List (Nat × Word)
  deriving DecidableEq, Repr

/-- A named barrier (09 R255). -/
structure Barrier where
  expect : Nat
  mask : Word
  phase : BitVec 16
  deriving DecidableEq, Repr

/-- Task states other than UNSTARTED and DONE, which the job holds (02 R46); `ended` is a DONE task whose `.shared` allocation its
engine operations still hold (09 R265). -/
inductive TState where
  | running
  | waiting
  | parkedRunnable
  | parkedWaiting
  | ended
  deriving DecidableEq, Repr

/-- A capture hint (11 R305): the address of the closing branch, and whether it forces or forbids. -/
structure Hint where
  branch : DWord
  force : Bool
  deriving DecidableEq, Repr

/-- A kernel descriptor as read at acceptance (02 R41, R43). -/
structure Kernel where
  addr : DWord
  ltl : Nat
  nbar : Nat
  regs : Nat
  warps : Nat
  nargs : Nat
  cappol : Nat
  encv : Nat
  entry : DWord
  spill : Nat
  shmem : Nat
  constAddr : DWord
  constLen : Nat
  trapvec : DWord
  jigs : List DWord
  deriving DecidableEq, Repr

/-- A started task (02 R37, R44, R46, R48, R67). -/
structure Task where
  handle : DWord
  vd : Nat
  die : Nat
  st : TState
  /-- The core that it stands on, while resident. -/
  core : Option Nat
  /-- The core that it last stood on (04 R120). -/
  lastCore : Nat
  warps : List Warp
  /-- Warp slot of each warp, 8 × bench + slot, while resident. -/
  wslots : List Nat
  shared : List (Nat × Byte)
  /-- 4-byte words of `.shared` marked lost (17 R433). -/
  lostShared : List (Nat × Bool)
  barriers : List (Nat × Barrier)
  capthr : Word
  hints : List Hint
  ltlimit : Nat
  adoptions : DWord
  waitClocks : DWord
  gaeRows : DWord
  /-- The helper beneath it and the adopted tasks above it in its nest. -/
  helper : Option Nat
  adopted : List Nat
  /-- An acquire of one of its warps has completed while it was parked: the L1 of its next core is invalidated (03 R88). -/
  acquired : Bool
  /-- It is being pre-empted: its warps issue no more, and once its lattice warps have drained it is evicted (13 R366, R371). -/
  evicting : Bool
  /-- The warp whose `TEND` waits until the task's lattice warps have drained (09 R254). -/
  ending : Option Nat
  /-- The closing branches of its loops whose placement has failed, or whose image was withdrawn (12 R324, 20 R488). -/
  noCapture : List DWord
  /-- Window offsets of its spill backing and of its save block on its die (03 R81, R99). -/
  spillBase : Nat
  saveBase : Nat
  /-- Placement order on the package, for 13 R366. -/
  placed : Nat
  /-- Order in which it became runnable, for the resume list of 13 R362. -/
  runnableAt : Nat
  deriving DecidableEq, Repr

/-- A job (02 R36, R39, R55 to R58, 13 R356, R357). -/
structure Job where
  num : Nat
  vd : Nat
  kernel : Kernel
  ntask : Nat
  args : List Word
  dies : List Nat
  prio : Nat
  /-- RB of a launch or G of a `SPAWN`. -/
  base : DWord
  /-- The gate future's place and address, 0 for none. -/
  gate : Option Loc
  gateOpen : Bool
  /-- The task that spawned it. -/
  parent : Option Nat
  /-- Acceptance order. -/
  seq : Nat
  /-- Result of each DONE task: whether its result future ended POISONED. -/
  done : List (Nat × Bool)
  /-- Dies whose share future is filled. -/
  shares : List (Nat × Nat)
  deriving DecidableEq, Repr

/-- One queue of fault records and events (17 R428). -/
structure EventQueue where
  base : DWord
  en : Bool
  drop : Nat
  qlog : Nat
  head : DWord
  tail : DWord
  deriving DecidableEq, Repr

/-- A free-frame ring (19 R460), with the zeroed frame that R461 may keep. -/
structure FrameRing where
  base : DWord
  en : Bool
  x : Bool
  w : Bool
  rd : Bool
  qlog : Nat
  head : DWord
  tail : DWord
  kept : Option DWord
  deriving DecidableEq, Repr

/-- An invalidation (11 R304), with S1ROOT as it stood when the invalidation started (14 R383). -/
structure Inval where
  stage2 : Bool
  va : DWord
  size : Nat
  root : DWord
  deriving DecidableEq, Repr

/-- An outstanding page request (19 R462): the range's IPA, what the access needs, and whether its event has been posted. -/
structure PageReq where
  ipa : DWord
  va : DWord
  die : Nat
  needs : BitVec 3
  perm : Bool
  posted : Bool
  /-- For a PRI request of a copy engine for host memory, the generation that it carries (14 R392). -/
  pri : Option (BitVec 16)
  /-- The walks that hold on it: the package bay whose walkers they take, and the 64 KiB range of virtual addresses (03 R97). -/
  walks : List (Nat × Nat)
  deriving DecidableEq, Repr

/-- A virtual device (14 R382 to R389, R393, 17 R428, 19 R460 to R463). -/
structure Vd where
  en : Bool
  wcls : Nat
  slice : Nat
  qlog : Nat
  idle : Nat
  gen : BitVec 16
  cerr : Nat
  thr : Bool
  qbase : DWord
  s2root : DWord
  s1root : DWord
  /-- The stage-1 root that walks use: a new value counts after a SIZE 3 invalidation (R383). -/
  s1eff : DWord
  invva : DWord
  invsize : Nat
  invva2 : DWord
  invsize2 : Nat
  /-- Invalidations in progress and queued, in order. -/
  invq : List Inval
  dlbase : DWord
  dllog : Nat
  logen : Bool
  ovf : Bool
  dlhead : DWord
  dltail : DWord
  dlFullSince : Option Nat
  eq : EventQueue
  tff : FrameRing
  adoptWait : DWord
  adoptOut : Nat
  /-- The adoption requests posted and not answered. -/
  adoptReqs : List DWord
  tags : List (Nat × PageReq)
  /-- The tag on which the dispatcher's read of a launch record is held, and the range of one just refused (19 R459, R463). -/
  devHeld : Option Nat
  refused : Option DWord
  /-- ENGCTL writes that take effect when the VD next runs: core, entry and whether it resumes. -/
  engRec : List (Nat × Nat × Bool)
  /-- Whether a TAIL write awaits the dispatcher, and its value (13 R355). -/
  rung : Bool
  /-- A bad TAIL write or a failed queue read stops reading until the next TAIL write (20 R494, R496). -/
  stopped : Bool
  qhead : DWord
  /-- The last job number given: the search for the next goes upward from it (02 R39; log 8). -/
  jobLast : Nat
  /-- Record events awaiting room in the event queue, oldest first. -/
  held : List (List DWord)
  /-- Time at which the VD became idle. -/
  idleSince : Nat
  deriving DecidableEq, Repr

/-- How far a partition's clamp has come (14 R396 to R399). -/
inductive Clamp where
  | awake
  | clamped (cls : Nat)
  | waking (cls : Nat) (by_vd : Nat) (since : Nat)
  deriving DecidableEq, Repr

/-- An error that awaits the host's triage (17 R429). -/
structure Triage where
  num : Nat
  place : ErrPlace
  deriving DecidableEq, Repr

/-- What a reserved region of die memory is for (14 R377): the overflow tables of the cores of a die, its park overflow region, the
launch queues where far memory is absent, the save blocks of parked tasks, and the spill pools. -/
inductive AreaKind where
  | overflow
  | park
  | queue
  | save
  | spill
  deriving DecidableEq, Repr

/-- A region that Firex has reserved in a partition's window on a die: its first window offset, and its bytes. -/
structure Area where
  kind : AreaKind
  die : Nat
  base : Nat
  size : Nat
  deriving DecidableEq, Repr

/-- A CXL.mem access of the host: the bytes that it writes at an offset of a partition's window, or how many it reads (14 R391). -/
structure HostAcc where
  write : Bool
  off : Nat
  len : Nat
  data : List Byte
  deriving DecidableEq, Repr

/-- A hard partition (14 R375 to R388, R401, R404, R405, 17 R428, 19 R460, R465, R477). -/
structure Part where
  bays : DWord
  pmode : DWord
  pctl : DWord
  pvote : DWord
  penergy : DWord
  eq : EventQueue
  ff : List (Nat × FrameRing)
  stalecnt : Word
  /-- Records of the park overflow region of each die. -/
  parkCap : List (Nat × Nat)
  /-- Growth requests outstanding, by die. -/
  growReq : List Nat
  /-- What Firex has reserved in its die memory (14 R377). -/
  areas : List Area
  clamp : Clamp
  proposal : Option Nat
  propNext : Nat
  propAfter : Nat
  triage : List Triage
  triNext : Nat
  /-- The VD that holds the time slice, and when the slice began. -/
  cur : Option Nat
  sliceFrom : Nat
  /-- The next VD while a switch is in progress. -/
  switchTo : Option Nat
  /-- The 64 KiB ranges of the die part of its window that a W2 wake has not yet restored (R399), as rising intervals: first, one past
  the last. -/
  unrestored : List (Nat × Nat)
  /-- The unrestored ranges that an access has reached, in the order of first demand (R399). -/
  demand : List Nat
  /-- CXL.mem accesses of the host that wait for a wake or for a range (R398, R399), in their order. -/
  hostq : List HostAcc
  held : List (List DWord)
  /-- The heads of the lists of levels that have failed to fit: key 8 × die + 2 × level, and 1 more for the FIFO; the task, since when
  (13 R363, R366). -/
  headWait : List (Nat × Nat × Nat)
  deriving DecidableEq, Repr

/-- The run state of a copy issue entry or a GAE queue entry (09 R261, 19 R459, R466): going, held on a page request for an address,
held on the dirty log, or stopped with a cause and subcause. -/
inductive EngState where
  | going
  | held (tag : Nat) (va : DWord)
  | heldDirty
  | stopped (cause sub : Nat)
  deriving DecidableEq, Repr

/-- The completion future of an engine operation (09 R257). -/
inductive Comp where
  | none
  | die (va : DWord)
  | shared (off : Nat)
  deriving DecidableEq, Repr

/-- What a copy entry moves: a descriptor's copy, or the elements of a `GATHER` or `SCATTER` (09 R259, R263). -/
inductive CopyKind where
  | block (dst src : DWord) (dsp ssp : Bool) (xlen ycnt zcnt : Nat) (systr dystr szstr dzstr : Int)
  | elems (width : Nat) (op : Nat) (dshared sshared : Bool) (els : List (Nat × DWord × DWord))
  deriving DecidableEq, Repr

/-- One copy issue entry of a core (09 R257 to R264). -/
structure CopyOp where
  task : Nat
  warp : Nat
  pc : DWord
  kind : CopyKind
  comp : Comp
  /-- Chunks performed; for element copies, the mask of elements performed. -/
  progress : Nat
  st : EngState
  seq : Nat
  deriving DecidableEq, Repr

/-- One GAE queue entry (10 R286 to R290): a `GAROW` of a warp with its remaining lanes, or a `GARUN`. -/
inductive GaeKind where
  | row (d : Nat) (lanes : List (Nat × DWord))
  | run (nrow : Nat) (osp : Bool) (out : DWord) (ostr : Nat)
  /-- A T-form `GAROW` (10 R293): its context, iteration and lanes, and the results of the lanes that have run. -/
  | lrow (node level : Nat) (tag : Tag) (lanes : List (Nat × DWord)) (outs : List (Nat × List Nat))
  deriving DecidableEq, Repr

structure GaeOp where
  task : Nat
  warp : Nat
  pc : DWord
  ctx : GaeCtx
  /-- The codebook's codes as they stood at issue, with the entries whose data is lost, and the task's SHMEM. -/
  book : List (Nat × Bool)
  shmem : Nat
  kind : GaeKind
  comp : Comp
  /-- The next row header of a run. -/
  next : DWord
  progress : Nat
  st : EngState
  seq : Nat
  deriving DecidableEq, Repr

/-- A loop-monitor entry (12 R321). -/
structure MonEntry where
  task : Nat
  branch : DWord
  /-- The target of the branch. -/
  head : DWord
  count : Nat
  first : Nat
  used : Nat
  deriving DecidableEq, Repr

/-- A captured or loaded image in a slot of a core (12 R348 to R353). -/
structure Image where
  vd : Nat
  kdesc : DWord
  encv : Nat
  expl : Bool
  tdepth : Nat
  heads : List DWord
  joins : List DWord
  ddepth : Nat
  /-- Contexts by grid number 8 × cell + context, targets already translated. -/
  nodes : List (Nat × TForm)
  livein : List (Nat × Nat × Nat × Bool × Bool)
  carried : List (Nat × Nat × Bool × Bool)
  liveout : List (Nat × Nat × Bool × Bool)
  exits : List DWord
  seqs : List (Nat × Nat × Nat)
  /-- `GAROW` and `MMA` contexts with their place in program order: how many memory operations stand before them. -/
  rows : List (Nat × Nat)
  /-- Its drain section, until it is loaded: the task, the warp and the ordinal of its outermost level (12 R341, R351). -/
  drain : List (DWord × Nat × Nat)
  /-- The first 32 bytes of its SHA-512 digest. -/
  checksum : List Byte
  /-- Footprint columns and rows, and the origin as 8 × row0 + col0. -/
  fw : Nat
  fh : Nat
  origin : Nat
  /-- The task and the closing branch of the loop that it was captured from. -/
  captured : Option (Nat × DWord)
  withdrawn : Bool
  /-- The level at which each context fires, and the contexts that follow a `TAGPOP` within their iteration. -/
  levels : List (Nat × Nat)
  afterPop : List Nat
  deriving DecidableEq, Repr

/-- Where a token goes: an operand slot, or a south port with the sending context (12 R328). -/
inductive Dest where
  | slot (node s : Nat)
  | south (n sender : Nat)
  deriving DecidableEq, Repr

/-- A token of the lattice (12 R326), with the level of its iteration. -/
structure Token where
  dest : Dest
  tag : Tag
  level : Nat
  mask : Word
  w64 : Bool
  data : List DWord
  /-- The drain boundary's marker (12 R338). -/
  mark : Bool
  /-- Order of sending, and from its arrival on of arriving. -/
  arr : Nat
  /-- The cell that sent it, or 64 for a port. -/
  src : Nat
  deriving DecidableEq, Repr

/-- Where a held token stands (12 R332). -/
inductive HoldPlace where
  | general
  | reserved
  | overflow
  | matched
  deriving DecidableEq, Repr

/-- A placement in progress (12 R324, 11 R307, 20 R485): of a loop, with the divergence depth at its head; of a `JIGLD`, with its image as
read at issue, the origin that it names, and where its status goes; of an explicit block; of an image whose cells were fenced; or of a
prebuilt image. Images here stand at origin 0. -/
inductive PlaceReq where
  | loop (task : Nat) (branch : DWord) (kdesc : DWord) (depth : Nat)
  | jig (task warp : Nat) (img : Image) (origin : Option Nat) (dst : Opnd) (lanes : Word)
  | block (task warp : Nat) (img : Image)
  | again (img : Image)
  | prebuilt (vd : Nat) (kdesc : DWord) (addr : DWord)
  deriving DecidableEq, Repr

/-- A loaded constant image (02 R45, 03 R85). -/
structure ConstImg where
  vd : Nat
  addr : DWord
  len : Nat
  bytes : List Host.Cell
  lost : List (Nat × Bool)
  deriving DecidableEq, Repr

/-- A cached translation (03 R96): the VD, the range and the leaf's location and permissions. -/
structure TlbEntry where
  vd : Nat
  base : Nat
  size : Nat
  /-- Physical byte address of the range's first byte, and where it lies: 0 die, 1 far, 2 host, 3 peer. -/
  loc : Nat
  die : Nat
  pa : Nat
  x : Bool
  w : Bool
  rd : Bool
  /-- Whether a write through the entry has set the D bits, and an access the A bits. -/
  dirty : Bool
  accessed : Bool
  deriving DecidableEq, Repr

/-- A line of an L2 slice (03 R89): its tag in the set, and which of its four sectors are valid and which dirty. -/
structure L2Line where
  tag : Nat
  valid : BitVec 4
  dirty : BitVec 4
  deriving DecidableEq, Repr

/-- One core (01 R24, 11 R303, R306, 12 R321, R325, R330, R332, R333). -/
structure Core where
  consts : List ConstImg
  /-- L1 sectors: key physical address ÷ 16. -/
  l1 : List (Nat × BitVec 128)
  /-- The lines that L1 has room for beside the task-shared allocations (01 R26). -/
  l1Cap : Nat
  /-- Lines of the spill cache: key window offset of the backing ÷ 512, and whether the line is dirty (03 R82). -/
  spillc : List (Nat × Bool)
  tlb : List TlbEntry
  copyTlb : List TlbEntry
  monitor : List MonEntry
  slots : List (Nat × Image)
  badcell : DWord
  flight : List (Nat × Token)
  store : List (HoldPlace × Token)
  /-- Tokens held at `WADV` contexts until admitted. -/
  gate : List (Nat × Token)
  senior : Option Nat
  admStamp : Word
  copies : List (Nat × CopyOp)
  gaeq : List (Nat × GaeOp)
  gaeTurn : Nat
  stamp : Nat
  places : List PlaceReq
  /-- Explicit blocks whose image was withdrawn: VD, descriptor and header (20 R488). -/
  barred : List (Nat × DWord × DWord)
  /-- Its rail failed to restart (21 R506). -/
  disabled : Bool
  deriving DecidableEq, Repr

/-- One park record (02 R52). -/
structure ParkRec where
  task : Nat
  warp : Nat
  link : Option Nat
  loc : Loc
  deriving DecidableEq, Repr

/-- A rail of a die (21 R505, R506). -/
inductive Rail where
  | up
  | droop
  | shut
  | disabled
  deriving DecidableEq, Repr

/-- Lanes of a link direction: failed lanes in order, the groups of 32 disabled besides theirs, and whether the link is disabled (17 R429,
21 R508, R509, R514). -/
structure LinkState where
  failed : List Nat
  disabled : Bool
  groups : List Nat := []
  deriving DecidableEq, Repr

/-- A step of the power controller (14 R406). -/
inductive PowerStep where
  | halved (old : List (Nat × Nat))
  | raised (regions : List Nat)
  deriving DecidableEq, Repr

/-- A capacity move in progress (14 R381). -/
structure CapMove where
  src : Nat
  dst : Nat
  blocks : List Nat
  step : Nat
  since : Nat
  deriving DecidableEq, Repr

/-- One firmware slot (21 R516). -/
structure FwSlot where
  version : Word
  digest : List Byte
  raise : Bool
  /-- The order in which it was staged. -/
  order : Nat
  deriving DecidableEq, Repr

/-- Firex (14 R379, R407, R409, 17 R430, 20 R486, 21 R516). -/
structure Firex where
  args : List (Nat × DWord)
  code : BitVec 8
  busy : Bool
  farOwner : List (Nat × Nat)
  lostFar : List (Nat × Bool)
  /-- Blocks reserved for the W2 save areas, by block. -/
  reserved : List (Nat × Nat)
  move : Option CapMove
  /-- Records, newest first, each with the partitions that it concerns. -/
  log : List (List Nat × List DWord)
  fences : List (Nat × DWord)
  /-- Transient errors of each unit: times of the last records. -/
  transient : List (Nat × List Nat)
  slots : List (Nat × FwSlot)
  running : Option Nat
  counter : Word
  healthy : Bool
  /-- Whether the boot ROM has already fallen back since reset. -/
  fellBack : Bool
  bootAt : Nat
  /-- Parts reported to Firex already, so that a later consumer makes no new record (19 R479). -/
  reported : List (Nat × Bool)
  deriving DecidableEq, Repr

/-- A choice of which agent moves next, or of what the outside does (the model's own; log 4). -/
inductive Agent where
  | issue (core bench : Nat)
  | fire (core cell ctx : Nat)
  | event (i : Instr)
  /-- Time passes: the clocks that each region counts meanwhile, by region in rising order, and the nanoseconds. -/
  | tick (clocks : List (Nat × Nat)) (ns : Nat)
  | evictL1 (core sector : Nat)
  | evictTlb (core : Option Nat) (die : Nat) (va : Nat)
  /-- The host's translation of a page of host memory for a VD changes. -/
  | hostMap (vd page : Nat) (host : Option Nat)
  deriving DecidableEq, Repr

/-- The warp whose instruction this step runs. -/
structure CurWarp where
  task : Nat
  warp : Nat
  deriving DecidableEq, Repr

/-- The context whose firing this step runs. -/
structure CurCtx where
  core : Nat
  node : Nat
  deriving DecidableEq, Repr

/-- The state of the package. Sparse stores hold what differs from the default that their comment names. -/
structure State where
  fit : Fitted
  /-- Bytes by physical address (log 2), default 0: die memory, far memory from 2^40, host memory from 2^64. -/
  mem : List Host.Cell
  /-- Poisoned 16-byte sectors: key physical address ÷ 16, default false. -/
  poison : List (Nat × Bool)
  /-- Core clocks counted by each package region, default 0. -/
  clocks : List (Nat × Nat)
  timeNs : Nat
  /-- LTCAP of each region, default 16; operating point in effect, default 0. -/
  ltcap : List (Nat × Nat)
  point : List (Nat × Nat)
  power : List PowerStep
  /-- Voltage of each core rail in millivolts: key 2 × die + rail, default 900 (14 R403, R404). -/
  volts : List (Nat × Nat)
  rails : List (Nat × Rail)
  lostDies : List (Nat × Bool)
  /-- Boundary directions: key 2 × boundary + direction; Zalna directions: key 2 × port + direction. -/
  bounds : List (Nat × LinkState)
  zlinks : List (Nat × LinkState)
  /-- Spare channels used on each die, default 0; lost slices by package slice. -/
  sparesUsed : List (Nat × Nat)
  lostSlices : List (Nat × Bool)
  lostFarCh : List (Nat × Bool)
  thermal : List (Nat × Nat)
  /-- Zalna launch table: key 8 × entry + word, default 0. -/
  zlaunch : List (Nat × DWord)
  firex : Firex
  parts : List (Nat × Part)
  vds : List (Nat × Vd)
  /-- Jobs by 2^14 × VD + number, tasks by 2^48 × VD + handle. -/
  jobs : List (Nat × Job)
  tasks : List (Nat × Task)
  cores : List (Nat × Core)
  /-- The shares of each die's shared TLB (03 R96): key 4 × partition + die. -/
  dtlb : List (Nat × List TlbEntry)
  /-- Lines of the L2 slices by set, the last used first: key 1,024 × package slice + set (03 R89). The data of a line stands in `mem`,
  which holds what slice and channel give together. -/
  l2 : List (Nat × List L2Line)
  /-- Pages of 4 KiB of host memory whose ATS translation is not the page itself: key 2^52 × VD + page, and the page that the host gives
  or none (14 R390, R392; log 65). -/
  ats : List (Nat × Option Nat)
  /-- Park records: key 2^32 × die + number on the die, or with the partition for the overflow region. -/
  parks : List (Nat × ParkRec)
  agenda : List Agent
  cur : Option CurWarp
  latCur : Option CurCtx
  /-- Records that name an owner, for the poisoning of 02 R58: VD, place, whether it is a lock. -/
  futs : List (Nat × Loc × Bool)
  /-- Index of the next free value. -/
  freeIx : Nat
  /-- Order counter of the model's queues. -/
  seq : Nat
  deriving DecidableEq, Repr

/-- An empty core (13 R364): nothing resident, nothing cached. -/
def Core.empty : Core :=
  { consts := [], l1 := [], l1Cap := 14336, spillc := [], tlb := [], copyTlb := [], monitor := [], slots := [], badcell := 0, flight := [],
    store := [], gate := [], senior := none, admStamp := 0, copies := [], gaeq := [], gaeTurn := 0, stamp := 0,
    places := [], barred := [], disabled := false }

/-- The reset values of an event queue (17 R428) and of a ring (19 R460). -/
def EventQueue.reset : EventQueue := { base := 0, en := false, drop := 0, qlog := 6, head := 0, tail := 0 }
def FrameRing.reset : FrameRing :=
  { base := 0, en := false, x := false, w := false, rd := false, qlog := 6, head := 0, tail := 0, kept := none }

/-- A VD that does not exist, with the register values of 14 R384, R385; the registers without a reset value hold 0 (log 3). -/
def Vd.reset : Vd :=
  { en := false, wcls := 1, slice := 20, qlog := 4, idle := 10, gen := 0, cerr := 0, thr := false, qbase := 0,
    s2root := 0, s1root := 0, s1eff := 0, invva := 0, invsize := 0, invva2 := 0, invsize2 := 0, invq := [],
    dlbase := 0, dllog := 10, logen := false, ovf := false, dlhead := 0, dltail := 0, dlFullSince := none,
    eq := EventQueue.reset, tff := FrameRing.reset, adoptWait := 0, adoptOut := 0, adoptReqs := [], tags := [], devHeld := none, refused := none,
    engRec := [], rung := false, stopped := false, qhead := 0, jobLast := 0, held := [], idleSince := 0 }

/-- Firex at power-on: slot 0 runs a healthy image of version 0, nothing is owned, no command has been given (log 3). -/
def Firex.reset : Firex :=
  { args := [], code := 0, busy := false, farOwner := [], lostFar := [], reserved := [], move := none, log := [],
    fences := [], transient := [], slots := [(0, { version := 0, digest := List.replicate 64 0, raise := false, order := 0 })],
    running := some 0, counter := 0, healthy := true, fellBack := false, bootAt := 0, reported := [] }

/-- The package right after power-on reset: a fully fitted Krydy 4D (log 1) on which nothing has been created. -/
def State.reset : State :=
  { fit := { fourDies := true, gae := true, farm := true, wzero := true, zports := 0xFF },
    mem := [], poison := [], clocks := [], timeNs := 0, ltcap := [], point := [], power := [], volts := [], rails := [],
    lostDies := [], bounds := [], zlinks := [], sparesUsed := [], lostSlices := [], lostFarCh := [], thermal := [],
    zlaunch := [], firex := Firex.reset, parts := [], vds := [], jobs := [], tasks := [], cores := [], dtlb := [], l2 := [], ats := [],
    parks := [], agenda := [], cur := none, latCur := none, futs := [], freeIx := 0, seq := 0 }

end Sys2Proof.Machine
end

