-- ==== Sys2Proof/Machine/Mem.lean ====
section
/-! DEFINITION. Physical memory: bytes in one canonical sparse form, little-endian words, poison, and the windows of a partition
(00 R5, 03 R90, 14 R380, R391, 17 R433). -/

namespace Sys2Proof.Machine

/-- What a byte that nothing has written reads as (log 2). -/
def Memory.unlisted : Byte := 0

/-- The canonical form of memory: addresses strictly rising, no entry equal to what an unlisted address reads as. -/
def Memory.wf (m : List Host.Cell) : Bool := Store.wf Memory.unlisted m

/-- Reads one byte. -/
def rdByte (m : List Host.Cell) (a : Nat) : Byte := Store.get Memory.unlisted m a

/-- Writes one byte. -/
def wrByte (m : List Host.Cell) (a : Nat) (v : Byte) : List Host.Cell := Store.set Memory.unlisted m a v

/-- Reads `n` bytes from `a` as one little-endian number (R5). -/
def rdBytes (m : List Host.Cell) : Nat → Nat → Nat
  | _, 0 => 0
  | a, n + 1 => (rdByte m a).toNat + 256 * rdBytes m (a + 1) n

/-- Writes the low `n` bytes of `v` from `a` (R5). -/
def wrBytes (m : List Host.Cell) : Nat → Nat → Nat → List Host.Cell
  | _, 0, _ => m
  | a, n + 1, v => wrBytes (wrByte m a (BitVec.ofNat 8 v)) (a + 1) n (v / 256)

/-- Reads `n` bytes as a list. -/
def rdList (m : List Host.Cell) (a n : Nat) : List Byte := (List.range n).map (fun i => rdByte m (a + i))

/-- Writes a list of bytes. -/
def wrList (m : List Host.Cell) : Nat → List Byte → List Host.Cell
  | _, [] => m
  | a, b :: t => wrList (wrByte m a b) (a + 1) t

/-- Dies of the package (R1), and whether a die exists and is in service (21 R507). -/
def dieCount (s : State) : Nat := if s.fit.fourDies then 4 else 2
def dieUp (s : State) (d : Nat) : Bool := decide (d < dieCount s) && !Store.get false s.lostDies d

/-- Cores of the package. -/
def coreCount (s : State) : Nat := 48 * dieCount s

/-- The partition record, the VD record and the core record by number; an unlisted one has its reset values. -/
def getPart (s : State) (p : Nat) : Option Part := Store.find s.parts p
def getVd (s : State) (v : Nat) : Vd := Store.get Vd.reset s.vds v
def getCore (s : State) (c : Nat) : Core := Store.get Core.empty s.cores c
def setPart (s : State) (p : Nat) (x : Part) : State := { s with parts := Store.put s.parts p x }
def setVd (s : State) (v : Nat) (x : Vd) : State := { s with vds := Store.put s.vds v x }
def setCore (s : State) (c : Nat) (x : Core) : State := { s with cores := Store.put s.cores c x }

/-- The partition of a VD, and its number within the partition (14 R382). -/
def partOf (vd : Nat) : Nat := vd / 16

/-- The bay of a core within its die, and the die (00 R3). -/
def dieOfCore (c : Nat) : Nat := c / 48
def bayOfCore (c : Nat) : Nat := 16 * (c / 48) + c % 48 / 3

/-- Whether a partition holds a package bay. -/
def hasBay (p : Part) (bay : Nat) : Bool := p.bays.getLsbD bay

/-- The slices of a partition on a die, ascending (03 R90): bay `b` holds slices 4b to 4b + 3. -/
def partSlices (p : Part) (d : Nat) : List Nat :=
  (List.range 64).filter (fun sl => hasBay p (16 * d + sl / 4))

/-- Whether a partition holds a bay on a die. -/
def partOnDie (p : Part) (d : Nat) : Bool := (List.range 16).any (fun b => hasBay p (16 * d + b))

/-- Bytes of the partition's window on a die: 4 GiB for each bay (03 R90). -/
def dieWindow (p : Part) (d : Nat) : Nat := (partSlices p d).length * 2 ^ 30

/-- Whether a window offset lies in a region that Firex keeps from tasks and copies: all but the launch queues' (12 R333, 14 R377; log 70). -/
def inArea (p : Part) (d w : Nat) : Bool :=
  p.areas.any (fun a => decide (a.kind ≠ .queue ∧ a.die = d ∧ a.base ≤ w ∧ w < a.base + a.size))

/-- The regions that Firex reserves on a die at creation, from the top of its window downwards (14 R377): 4 MiB for each core, three to a
bay, a park overflow region of its greatest size, 16 MiB of launch queues on die 0 where far memory is absent, and 1/16 and 1/8 of the window
for save blocks and spill backing. Order, places and the last three sizes are the model's choice (log 70). -/
def dieAreas (p : Part) (farm : Bool) (d : Nat) : List Area :=
  let w := dieWindow p d
  if w = 0 then []
  else
    let sizes : List (AreaKind × Nat) :=
      [(.overflow, w / 2 ^ 32 * 3 * 2 ^ 22), (.park, 983040 * 32)] ++ (if d = 0 ∧ farm = false then [(.queue, 2 ^ 24)] else [])
        ++ [(.save, w / 16), (.spill, w / 8)]
    (sizes.foldl (fun (e : Nat × List Area) k =>
      (e.1 - k.2, e.2 ++ [{ kind := k.1, die := d, base := e.1 - k.2, size := k.2 }])) (w, [])).2

/-- The regions that Firex reserves for a partition of up to four dies. -/
def layAreas (p : Part) (farm : Bool) : List Area := [0, 1, 2, 3].flatMap (dieAreas p farm)

/-- The physical address of a slice's channel offset. -/
def slicePa (d sl off : Nat) : Nat := (64 * d + sl) * 2 ^ 30 + off

/-- The physical address of window offset `w` on die `d` (03 R90). -/
def diePa (p : Part) (d w : Nat) : Option Nat :=
  let c := partSlices p d
  if w < dieWindow p d then
    some (slicePa d (nthD c (w / 1024 % c.length) 0) (w / (1024 * c.length) * 1024 + w % 1024))
  else none

/-- The physical address of a byte of far memory, of the far block that holds it, and of host memory. -/
def farPa (a : Nat) : Nat := 2 ^ 40 + a
def farBlockOf (pa : Nat) : Nat := (pa - 2 ^ 40) / 2 ^ 31
def hostPa (a : Nat) : Nat := 2 ^ 64 + a % 2 ^ 64

/-- Where a physical address lies: its die, or none for far and host memory. -/
def paDie (pa : Nat) : Option Nat := if pa < 2 ^ 40 then some (pa / 2 ^ 36) else none
def isFar (pa : Nat) : Bool := decide (2 ^ 40 ≤ pa ∧ pa < 2 ^ 64)
def isHost (pa : Nat) : Bool := decide (2 ^ 64 ≤ pa)

/-- The far blocks of a partition, ascending (14 R380). -/
def farBlocks (s : State) (p : Nat) : List Nat :=
  (s.firex.farOwner.filter (fun e => decide (e.2 = p))).map Prod.fst

/-- Bytes of the die part of a partition's CXL.mem window. -/
def dieWindows (s : State) (p : Part) : Nat :=
  (List.range (dieCount s)).foldl (fun n d => n + dieWindow p d) 0

/-- Finds the die part that holds a window offset: the die parts in ascending order from die `d`. -/
def windowDie (p : Part) : Nat → Nat → Nat → Option Nat
  | 0, _, _ => none
  | n + 1, d, off => if off < dieWindow p d then diePa p d off else windowDie p n (d + 1) (off - dieWindow p d)

/-- The physical address of an offset in a partition's CXL.mem window (14 R391). -/
def windowPa (s : State) (pn : Nat) (off : Nat) : Option Nat :=
  match getPart s pn with
  | none => none
  | some p =>
    if off < dieWindows s p then windowDie p (dieCount s) 0 off
    else
      let f := off - dieWindows s p
      match (farBlocks s pn)[f / 2 ^ 31]? with
      | some b => some (farPa (b * 2 ^ 31 + f % 2 ^ 31))
      | none => none

/-- Whether a physical sector is poisoned (17 R433), counting lost slices (21 R510). -/
def poisoned (s : State) (pa : Nat) : Bool :=
  Store.get false s.poison (pa / 16) || (decide (pa < 2 ^ 40) && Store.get false s.lostSlices (pa / 2 ^ 30))

/-- Whether any of the `n` bytes from `pa` lies in a poisoned sector. -/
def poisonedRange (s : State) (pa n : Nat) : Bool :=
  (List.range n).any (fun i => poisoned s (pa + i))

/-- Whether a partition may reach a physical address: a far block only as its owner (14 R380). -/
def ownsPa (s : State) (pn pa : Nat) : Bool :=
  !isFar pa || decide (Store.find s.firex.farOwner (farBlockOf pa) = some pn)

/-- Marks or clears a sector's poison. -/
def setPoison (s : State) (pa : Nat) (b : Bool) : State :=
  { s with poison := Store.set false s.poison (pa / 16) b }

/-- A write of `n` bytes at `pa`: a write that covers a whole sector clears its mark (17 R433). -/
def putBytes (s : State) (pa n v : Nat) : State :=
  let s1 := { s with mem := wrBytes s.mem pa n v }
  if n = 16 ∧ pa % 16 = 0 then setPoison s1 pa false else s1

/-- Whether a physical address lies in die memory of a partition's bays. -/
def inBays (p : Part) (pa : Nat) : Bool := decide (pa < 2 ^ 40) && hasBay p (16 * (pa / 2 ^ 36) + pa / 2 ^ 30 % 64 / 4)

/-- The far-memory channel of a block (14 R380). -/
def blockChannel (b : Nat) : Nat := b / 16

/-- Whether a far block is lost: by itself or with its channel (21 R511). -/
def farLost (s : State) (b : Nat) : Bool := Store.get false s.firex.lostFar b || Store.get false s.lostFarCh (blockChannel b)

/-- The die of a far-memory channel (R17). -/
def channelDie (s : State) (ch : Nat) : Nat := ch / (32 / dieCount s)

/-- Whether memory is in service: its die is, or the far-memory channel of its block and the block (21 R507, R511). -/
def memUp (s : State) (pa : Nat) : Bool :=
  match paDie pa with
  | some d => dieUp s d
  | none => isHost pa || (!farLost s (farBlockOf pa) && dieUp s (channelDie s (blockChannel (farBlockOf pa))))

/-- The blocks of a partition's W2 save area, ascending (R397). -/
def saveBlocks (s : State) (pn : Nat) : List Nat := (s.firex.reserved.filter (fun e => decide (e.2 = pn))).map Prod.fst

/-- The offset in the die part of a partition's window of a physical address (03 R90, 14 R391). -/
def windowOff (s : State) (p : Part) (pa : Nat) : Option Nat :=
  match paDie pa with
  | none => none
  | some d =>
    let c := partSlices p d
    let sl := pa / 2 ^ 30 % 64
    match c.findIdx? (fun x => decide (x = sl)) with
    | none => none
    | some r =>
      let o := pa % 2 ^ 30
      some ((List.range d).foldl (fun n e => if e < dieCount s then n + dieWindow p e else n) 0
        + (o / 1024 * c.length + r) * 1024 + o % 1024)

/-! Die memory after a W2 wake (14 R397, R399). -/

/-- Takes a range out of a list of rising intervals. -/
def cutRange (r : Nat) : List (Nat × Nat) → List (Nat × Nat)
  | [] => []
  | (lo, hi) :: t =>
    if lo ≤ r ∧ r < hi then
      (if lo < r then [(lo, r)] else []) ++ (if r + 1 < hi then [(r + 1, hi)] else []) ++ t
    else (lo, hi) :: cutRange r t

/-- The sectors of a 64 KiB range of the die part of a window. -/
def rangeSectors (s : State) (p : Part) (r : Nat) : List Nat :=
  (List.range 4096).filterMap (fun i => windowDie p (dieCount s) 0 (65536 * r + 16 * i))

/-- The bytes of the save area for a 64 KiB range of the die part of a window, each at its physical address; none where the block that
holds them is not in the area. -/
def savedRange (s : State) (p : Part) (pn r : Nat) : List (Nat × Byte) :=
  match (saveBlocks s pn)[r / 2 ^ 15]? with
  | none => []
  | some b =>
    let lo := farPa (b * 2 ^ 31 + r % 2 ^ 15 * 65536)
    (s.mem.filter (fun c => decide (lo ≤ c.1 ∧ c.1 < lo + 65536))).filterMap (fun c =>
      (windowDie p (dieCount s) 0 (65536 * r + (c.1 - lo))).map (fun pa => (pa, c.2)))

/-- Restores a 64 KiB range of die memory. One whose save block is lost comes back poisoned (21 R511). -/
def restoreRange (s : State) (pn r : Nat) : State :=
  match getPart s pn with
  | none => s
  | some p =>
    if p.unrestored.any (fun e => decide (e.1 ≤ r ∧ r < e.2)) then
      let s1 := setPart s pn { p with unrestored := cutRange r p.unrestored, demand := p.demand.filter (fun x => decide (x ≠ r)) }
      if ((saveBlocks s pn)[r / 2 ^ 15]?).any (farLost s) then (rangeSectors s p r).foldl (fun s pa => setPoison s pa true) s1
      else { s1 with mem := (savedRange s p pn r).foldl (fun m e => wrByte m e.1 e.2) s1.mem }
    else s

/-- The range that holds a physical address of a partition's die memory and that no restore has reached yet. -/
def unrestoredAt (s : State) (pn pa : Nat) : Option Nat :=
  match getPart s pn with
  | none => none
  | some p =>
    if p.unrestored.isEmpty then none
    else (windowOff s p pa).bind (fun w => if p.unrestored.any (fun e => decide (e.1 ≤ w / 65536 ∧ w / 65536 < e.2)) then some (w / 65536) else none)

/-- An access has reached an unrestored range and holds: the range is demanded. -/
def demandRange (s : State) (pn r : Nat) : State :=
  match getPart s pn with
  | none => s
  | some p => setPart s pn { p with demand := if elemOf r p.demand then p.demand else p.demand ++ [r] }

/-- Firex's own access to a partition's die memory: it goes on once the ranges demanded before it and its own are restored. -/
def restoreSpan (s : State) (pn die base n : Nat) : State :=
  match getPart s pn with
  | none => s
  | some p =>
    if p.unrestored.isEmpty then s
    else
      let rs := ((List.range ((base % 1024 + n + 1023) / 1024)).filterMap (fun i =>
        (diePa p die ((base / 1024 + i) * 1024)).bind (unrestoredAt s pn))).dedup
      (if rs.isEmpty then [] else p.demand ++ rs).foldl (fun s r => restoreRange s pn r) s

/-- A 64-bit little-endian word at a physical address. -/
def rd64 (s : State) (pa : Nat) : DWord := w64 (rdBytes s.mem pa 8)
def wr64 (s : State) (pa : Nat) (v : DWord) : State := { s with mem := wrBytes s.mem pa 8 v.toNat }
def rd32 (s : State) (pa : Nat) : Word := w32 (rdBytes s.mem pa 4)

/-- The 16 bytes of a sector. -/
def rdSector (s : State) (sec : Nat) : BitVec 128 := BitVec.ofNat 128 (rdBytes s.mem (16 * sec) 16)

/-! L2 slices (03 R89). -/

/-- The set of an L2 slice in which a byte of die memory stands, 1,024 to a slice, and its tag there. -/
def l2Set (pa : Nat) : Nat := pa / 2 ^ 30 * 1024 + pa / 64 % 1024
def l2Tag (pa : Nat) : Nat := pa % 2 ^ 30 / 2 ^ 16

/-- The lines of a set after an access to a sector: its line is present and the last used, and its sector is valid, and dirty after a
write. A seventeenth line leaves the set: the one longest unused (log 66). -/
def useLine (pa : Nat) (write : Bool) (l : List L2Line) : List L2Line :=
  let bit : BitVec 4 := 1#4 <<< (pa / 16 % 4)
  let old : L2Line := (l.find? (fun x => decide (x.tag = l2Tag pa))).getD { tag := l2Tag pa, valid := 0, dirty := 0 }
  ({ old with valid := old.valid ||| bit, dirty := if write then old.dirty ||| bit else old.dirty }
    :: l.filter (fun x => decide (x.tag ≠ l2Tag pa))).take 16

/-- An access to the sector of die memory that holds an address, at its slice. -/
def touchSector (s : State) (pa : Nat) (write : Bool) : State :=
  if pa < 2 ^ 40 then { s with l2 := Store.put s.l2 (l2Set pa) (useLine pa write (Store.get [] s.l2 (l2Set pa))) } else s

/-- An access to `n` bytes at their slice. -/
def touchL2 (s : State) (pa n : Nat) (write : Bool) : State :=
  (List.range ((pa + n + 15) / 16 - pa / 16)).foldl (fun s i => touchSector s (16 * (pa / 16 + i)) write) s

/-- A slice writes back the dirty sectors of the lines of which `f` holds, by the address of their first byte; the lines stay, clean. -/
def cleanLines (s : State) (f : Nat → Bool) : State :=
  { s with l2 := s.l2.map (fun e => (e.1, e.2.map (fun x =>
      if f (e.1 / 1024 * 2 ^ 30 + x.tag * 2 ^ 16 + e.1 % 1024 * 64) then { x with dirty := 0 } else x))) }

/-- The slices write back and invalidate every line of the die slices of which `f` holds (14 R387). -/
def dropSlices (s : State) (f : Nat → Bool) : State := { s with l2 := s.l2.filter (fun e => !f (e.1 / 1024)) }

/-- Next number of the model's order counter. -/
def nextSeq (s : State) : Nat × State := (s.seq, { s with seq := s.seq + 1 })

/-- A fresh free value (log 6). -/
def freshFree (s : State) : DWord × State := (Config.free s.freeIx, { s with freeIx := s.freeIx + 1 })

end Sys2Proof.Machine
end

