-- ==== Sys2Proof/Machine/Records.lean ====
section
/-! DEFINITION. Fault records and event entries, the event queues and Firex's log (17 R423 to R430). -/

namespace Sys2Proof.Machine

/-- The fields of a fault record or event entry (17 R423), zero where a cause does not name them. -/
structure Rec where
  cause : Nat
  unit : Nat := 0
  last : Bool := false
  prec : Bool := false
  lat : Bool := false
  adpt : Bool := false
  detail : Nat := 0
  lanes : Word := 0
  pc : DWord := 0
  addr : DWord := 0
  islot : Nat := 0
  bound : Nat := 0
  vd : Nat := 0
  task : DWord := 0
  gen : BitVec 16 := 0
  owner : DWord := 0
  core : Nat := 0
  warp : Nat := 0
  depth : Nat := 0
  helper : DWord := 0
  info : DWord := 0
  deriving DecidableEq, Repr

/-- The eight 64-bit words of a record (17 R423). -/
def recWords (r : Rec) : List DWord :=
  [ w64 (r.lanes.toNat * 2 ^ 32 + r.detail % 2 ^ 16 * 2 ^ 16 + boolNat r.adpt * 2 ^ 15 + boolNat r.lat * 2 ^ 14
      + boolNat r.prec * 2 ^ 13 + boolNat r.last * 2 ^ 12 + r.unit % 16 * 2 ^ 8 + r.cause % 256),
    r.pc, r.addr,
    w64 (r.islot % 4 * 2 ^ 48 + r.bound % 2 ^ 48),
    w64 (r.vd % 1024 * 2 ^ 48 + r.task.toNat % 2 ^ 48),
    w64 (r.gen.toNat * 2 ^ 48 + r.owner.toNat % 2 ^ 48),
    w64 (r.core % 256 * 2 ^ 56 + r.warp % 32 * 2 ^ 51 + r.depth % 8 * 2 ^ 48 + r.helper.toNat % 2 ^ 48),
    r.info ]

/-- The bytes of a list of 64-bit words. -/
def wordsBytes (l : List DWord) : List Byte :=
  l.flatMap (fun w => (List.range 8).map (fun i => w.extractLsb' (8 * i) 8))

/-- Whether an event queue has no room for an entry (17 R428). -/
def queueFull (q : EventQueue) : Bool :=
  !q.en || decide (2 ^ q.qlog ≤ (q.tail - q.head).toNat)

/-- Counts a dropped entry, saturating (17 R428). -/
def dropEntry (q : EventQueue) : EventQueue := { q with drop := Nat.min (q.drop + 1) 0xFFFF }

/-- Writes an entry at the tail of a queue that has room (17 R428). -/
def appendEntry (mem : List Host.Cell) (q : EventQueue) (ws : List DWord) : List Host.Cell × EventQueue :=
  (wrList mem (hostPa (q.base.toNat + 64 * (q.tail.toNat % 2 ^ q.qlog))) (wordsBytes ws), { q with tail := q.tail + 1 })

/-- Posts an entry to a VD's queue: held when it awaits an answer and there is no room, else dropped (17 R428). -/
def postVd (s : State) (vd : Nat) (awaits : Bool) (r : Rec) : State :=
  let v := getVd s vd
  if queueFull v.eq then
    if awaits then setVd s vd { v with held := v.held ++ [recWords r] }
    else setVd s vd { v with eq := dropEntry v.eq }
  else
    let (mem, q) := appendEntry s.mem v.eq (recWords r)
    setVd { s with mem := mem } vd { v with eq := q }

/-- Posts an entry to a partition's queue. -/
def postPart (s : State) (p : Nat) (awaits : Bool) (r : Rec) : State :=
  match getPart s p with
  | none => s
  | some x =>
    if queueFull x.eq then
      if awaits then setPart s p { x with held := x.held ++ [recWords r] }
      else setPart s p { x with eq := dropEntry x.eq }
    else
      let (mem, q) := appendEntry s.mem x.eq (recWords r)
      setPart { s with mem := mem } p { x with eq := q }

/-- Firex's log keeps the newest 4,096 records of classes D and H, newest first, with the partitions that each concerns (17 R430). -/
def logFirex (s : State) (ps : List Nat) (r : Rec) : State :=
  { s with firex := { s.firex with log := ((ps, recWords r) :: s.firex.log).take 4096 } }

/-- A class H record of a shared unit: logged, then posted to each partition that the unit served (17 R426). -/
def postShared (s : State) (ps : List Nat) (r : Rec) : State :=
  ps.foldl (fun s p => postPart s p false r) (logFirex s ps r)

/-- A class H record of a partition's own. -/
def postPartH (s : State) (p : Nat) (r : Rec) : State := postShared s [p] r

/-- Writes held entries while there is room, oldest first (17 R428). -/
def drainHeldVd (s : State) (vd : Nat) : Nat → State
  | 0 => s
  | n + 1 =>
    let v := getVd s vd
    match v.held with
    | [] => s
    | ws :: rest =>
      if queueFull v.eq then s
      else
        let (mem, q) := appendEntry s.mem v.eq ws
        drainHeldVd (setVd { s with mem := mem } vd { v with eq := q, held := rest }) vd n

def drainHeldPart (s : State) (p : Nat) : Nat → State
  | 0 => s
  | n + 1 =>
    match getPart s p with
    | none => s
    | some x =>
      match x.held with
      | [] => s
      | ws :: rest =>
        if queueFull x.eq then s
        else
          let (mem, q) := appendEntry s.mem x.eq ws
          drainHeldPart (setPart { s with mem := mem } p { x with eq := q, held := rest }) p n

/-- Cause codes (17 R425). -/
def cIllegal : Nat := 0x01
def cVersion : Nat := 0x02
def cPrivileged : Nat := 0x03
def cNotConverged : Nat := 0x04
def cMisaligned : Nat := 0x05
def cOutOfRange : Nat := 0x06
def cFarAccess : Nat := 0x07
def cPageFault : Nat := 0x08
def cPermission : Nat := 0x09
def cNonfinite : Nat := 0x0A
def cBarrier : Nat := 0x0B
def cDoublePut : Nat := 0x0C
def cPoisoned : Nat := 0x0D
def cDivOverflow : Nat := 0x0E
def cSpillOverflow : Nat := 0x0F
def cCopyFault : Nat := 0x10
def cLockOwner : Nat := 0x11
def cDataError : Nat := 0x12
def cWatchdog : Nat := 0x13
def cOverflowTable : Nat := 0x14
def cBunch : Nat := 0x15
def cSparse : Nat := 0x16
def cScaleTag : Nat := 0x17
def cUnitAbsent : Nat := 0x18
def cJigInvalid : Nat := 0x19
def cParkFull : Nat := 0x1A
def cLaunchRefused : Nat := 0x1B
def cSpawnRefused : Nat := 0x1C
def cDirtyFull : Nat := 0x1D
def cJobKilled : Nat := 0x1E
def cUnitLost : Nat := 0x1F
def cBkpt : Nat := 0x20
def cSoftTrap : Nat := 0x21
def cWakeLate : Nat := 0x22
def cPageStale : Nat := 0x23
def cZalnaDrop : Nat := 0x24
def cCapmove : Nat := 0x25
def cFwRefused : Nat := 0x26

end Sys2Proof.Machine
end

