-- ==== Sys2Proof/Machine/Translate.lean ====
section
/-! DEFINITION. Two-stage translation: table entries, the walker, the TLBs, accessed and dirty bits and the dirty log
(03 R92 to R98, 14 R393, R394). -/

namespace Sys2Proof.Machine

/-- What an access needs of a page: bit 0 RD, bit 1 W, bit 2 X (03 R94). -/
abbrev Needs := BitVec 3
def needR : Needs := 1
def needW : Needs := 2
def needRW : Needs := 3
def needX : Needs := 4

/-- The lowest address bit that a level indexes (03 R92). -/
def levelShift : Nat → Nat
  | 0 => 39 | 1 => 30 | 2 => 21 | _ => 16

/-- The index of an address in a table of a level; stage 1 has 17 index bits at level 0, level 3 has 5 (03 R92). -/
def levelIndex (stage lvl a : Nat) : Nat :=
  let x := a / 2 ^ levelShift lvl
  match lvl with
  | 0 => if stage = 1 then x % 2 ^ 17 else x % 2 ^ 9
  | 3 => x % 2 ^ 5
  | _ => x % 2 ^ 9

/-- Fields of a table entry (03 R93). -/
def teV (e : DWord) : Bool := e.getLsbD 0
def teL (e : DWord) : Bool := e.getLsbD 1
def teRd (e : DWord) : Bool := e.getLsbD 3
def teW (e : DWord) : Bool := e.getLsbD 4
def teX (e : DWord) : Bool := e.getLsbD 5
def teA (e : DWord) : Bool := e.getLsbD 6
def teD (e : DWord) : Bool := e.getLsbD 7
def teOa (e : DWord) : Nat := bitsOf e.toNat 55 8 * 256
def teDie (e : DWord) : Nat := bitsOf e.toNat 57 56
def teLoc (e : DWord) : Nat := bitsOf e.toNat 59 58
def tePerms (e : DWord) : Needs :=
  BitVec.ofNat 3 (boolNat (teRd e) + 2 * boolNat (teW e) + 4 * boolNat (teX e))

/-- Whether an entry is treated as invalid by itself (03 R94). -/
def teInvalid (lvl : Nat) (e : DWord) : Bool :=
  !teV e || (decide (lvl = 0) && teL e) || (decide (lvl = 3) && !teL e)

/-- A leaf that a walk found: where the entry stands, the entry, its level, the page's address and size, and the places of the table words
that the walk read. -/
structure Leaf where
  pa : Nat
  entry : DWord
  level : Nat
  oa : Nat
  size : Nat
  path : List Nat
  deriving DecidableEq, Repr

/-- Why a walk ends without a leaf. `ipa` is the address that stage 2 was given. -/
inductive WalkErr where
  | invalid (stage level ipa : Nat)
  | data (pa : Nat)
  | wait (range : Nat)
  deriving DecidableEq, Repr

/-- Where a stage-2 table word may be read: die memory of the walker's die or far memory, in the partition's window (03 R97). -/
def tableWordPa (s : State) (pn die off : Nat) : Option Nat :=
  match windowPa s pn off with
  | some pa => if paDie pa = some die ∨ isFar pa then some pa else none
  | none => none

/-- Whether a stage-2 leaf names a page that the partition has (03 R94). -/
def leaf2Ok (s : State) (pn : Nat) (e : DWord) : Bool :=
  match getPart s pn with
  | none => false
  | some p => decide (teLoc e ≠ 0) || (partOnDie p (teDie e) && decide (teOa e < dieWindow p (teDie e)))

/-- Whether a location lies in a region of die memory that Firex keeps from tasks and copies. -/
def leafReserved (s : State) (pn loc die a : Nat) : Bool :=
  decide (loc = 0) && (match getPart s pn with
    | some p => inArea p die a
    | none => false)

/-- The stage-2 walk of an IPA over the given levels; an address in a reserved region has an invalid leaf (log 70). `prev` is the level of the entry that points to the table, `path` the words read. -/
def walk2 (s : State) (pn die ipa : Nat) : List Nat → Nat → Nat → List Nat → Except WalkErr Leaf
  | [], _, prev, _ => .error (.invalid 2 prev ipa)
  | lvl :: rest, table, prev, path =>
    match tableWordPa s pn die (table + 8 * levelIndex 2 lvl ipa) with
    | none => .error (.invalid 2 prev ipa)
    | some pa =>
      if (unrestoredAt s pn pa).isSome then .error (.wait ((unrestoredAt s pn pa).getD 0))
      else if poisoned s pa then .error (.data pa)
      else
        let e := rd64 s pa
        if teInvalid lvl e then .error (.invalid 2 lvl ipa)
        else if teL e then
          if leaf2Ok s pn e && !leafReserved s pn (teLoc e) (teDie e) (teOa e + ipa % 2 ^ levelShift lvl) then .ok ⟨pa, e, lvl, teOa e, 2 ^ levelShift lvl, path ++ [pa]⟩ else .error (.invalid 2 lvl ipa)
        else walk2 s pn die ipa rest (teOa e) lvl (path ++ [pa])

/-- The stage-2 leaf of an IPA of a VD. -/
def stage2 (s : State) (vd die ipa : Nat) : Except WalkErr Leaf :=
  walk2 s (partOf vd) die ipa [0, 1, 2, 3] (getVd s vd).s2root.toNat 0 []

/-- The physical address of an address inside a stage-2 leaf's page; none for a peer page. -/
def leafPa (s : State) (pn : Nat) (loc die a : Nat) : Option Nat :=
  match loc with
  | 0 => match getPart s pn with
    | some p => diePa p die a
    | none => none
  | 1 => some (farPa a)
  | 2 => some (hostPa a)
  | _ => none

/-- The stage-1 walk over the given levels, each table word's IPA translated by stage 2 (03 R97). A table word that lies neither in die
memory of the walker's die nor in a far block of the partition is not read; R97 does not say at which stage and level the walk then ends,
and the model ends it with a stage-1 invalid entry at that table's level (DESIGN CHOICE, log 67). -/
def walk1 (s : State) (vd die va : Nat) : List Nat → Nat → List Nat → Except WalkErr Leaf
  | [], _, _ => .error (.invalid 1 3 0)
  | lvl :: rest, table, path =>
    let ipa := table + 8 * levelIndex 1 lvl va
    match stage2 s vd die ipa with
    | .error e => .error e
    | .ok l2 =>
      match leafPa s (partOf vd) (teLoc l2.entry) (teDie l2.entry) (l2.oa + ipa % l2.size) with
      | none => .error (.invalid 1 lvl ipa)
      | some pa =>
        if !(decide (paDie pa = some die) || (isFar pa && ownsPa s (partOf vd) pa)) then .error (.invalid 1 lvl ipa)
        else if (unrestoredAt s (partOf vd) pa).isSome then .error (.wait ((unrestoredAt s (partOf vd) pa).getD 0))
        else if poisoned s pa then .error (.data pa)
        else
          let e := rd64 s pa
          if teInvalid lvl e then .error (.invalid 1 lvl ipa)
          else if teL e then .ok ⟨pa, e, lvl, teOa e, 2 ^ levelShift lvl, path ++ l2.path ++ [pa]⟩
          else walk1 s vd die va rest (teOa e) (path ++ l2.path ++ [pa])

/-- The leaves of both stages for a virtual address, and the IPA. -/
def walkBoth (s : State) (vd die va : Nat) : Except WalkErr (Leaf × Leaf × Nat) :=
  match walk1 s vd die va [0, 1, 2, 3] (getVd s vd).s1eff.toNat [] with
  | .error e => .error e
  | .ok l1 =>
    let ipa := l1.oa + va % l1.size
    match stage2 s vd die ipa with
    | .error e => .error e
    | .ok l2 => .ok (l1, l2, ipa)

/-- The outcome of a translation. `ok` gives the location code of R93, the die and the physical address (none for a peer); `onHold` is
an access that holds without a fault: on a full dirty log (14 R394), or on a range of die memory that a W2 wake has not restored (14 R399). -/
inductive XRes where
  | ok (loc die : Nat) (pa : Option Nat)
  | pageFault (stage level ipa : Nat)
  | perm (stage level ipa : Nat) (missing : Needs)
  | data (pa : Nat)
  | onHold
  deriving DecidableEq, Repr

/-- Which TLB of a core serves an access: the `.die` TLB, the copy TLB, or none for a walk of the dispatcher (03 R96). -/
inductive TlbSel where
  | die (core : Nat)
  | copy (core : Nat)
  | none
  deriving DecidableEq, Repr

/-- Whether a cached translation covers an address of a VD. -/
def tlbHit (vd va : Nat) (e : TlbEntry) : Bool :=
  decide (e.vd = vd ∧ e.base ≤ va ∧ va < e.base + e.size)

/-- The permissions of a cached translation. -/
def tlbPerms (e : TlbEntry) : Needs :=
  BitVec.ofNat 3 (boolNat e.rd + 2 * boolNat e.w + 4 * boolNat e.x)

/-- The key of a partition's share of a die's shared TLB, and the share's sets of 8 ways: 256 entries for each bay (03 R96). -/
def shareKey (vd die : Nat) : Nat := 4 * partOf vd + die
def shareSets (s : State) (vd die : Nat) : Nat :=
  match getPart s (partOf vd) with
  | some p => 32 * ((List.range 16).filter (fun b => hasBay p (16 * die + b))).length
  | none => 0

/-- The cached translation of an address, from the core's TLB and then the partition's share of the die's. -/
def tlbFind (s : State) (sel : TlbSel) (vd die va : Nat) : Option TlbEntry :=
  let own := match sel with
    | .die c => (getCore s c).tlb.find? (tlbHit vd va)
    | .copy c => (getCore s c).copyTlb.find? (tlbHit vd va)
    | .none => none
  match own with
  | some e => some e
  | none => (Store.get [] s.dtlb (shareKey vd die)).find? (tlbHit vd va)

/-- Whether two cached translations of a VD overlap. -/
def tlbOver (e x : TlbEntry) : Bool :=
  decide (x.vd = e.vd) && decide (x.base < e.base + e.size) && decide (e.base < x.base + x.size)

/-- Caches an entry in front of the others that do not cover its range, in at most `n` places. -/
def tlbAdd (n : Nat) (e : TlbEntry) (l : List TlbEntry) : List TlbEntry := (e :: l.filter (fun x => !tlbOver e x)).take n

/-- The set of a share that an entry takes (log 67). -/
def tlbSet (sets : Nat) (e : TlbEntry) : Nat := e.base / e.size % sets

/-- Caches an entry in a share: of its set at most the 8 newest entries stay. -/
def tlbShare (sets : Nat) (e : TlbEntry) (l : List TlbEntry) : List TlbEntry :=
  let others := l.filter (fun x => !tlbOver e x)
  let same := (others.filter (fun x => decide (tlbSet sets x = tlbSet sets e))).take 7
  e :: others.filter (fun x => decide (tlbSet sets x ≠ tlbSet sets e) || same.any (fun y => decide (y = x)))

/-- Caches a translation in the core's TLB of 64 entries and in the partition's share of the die's (03 R96). -/
def tlbFill (s : State) (sel : TlbSel) (die : Nat) (e : TlbEntry) : State :=
  let s1 := match sel with
    | .die c => setCore s c { getCore s c with tlb := tlbAdd 64 e (getCore s c).tlb }
    | .copy c => setCore s c { getCore s c with copyTlb := tlbAdd 64 e (getCore s c).copyTlb }
    | .none => s
  { s1 with dtlb := Store.put s1.dtlb (shareKey e.vd die) (tlbShare (shareSets s e.vd die) e (Store.get [] s1.dtlb (shareKey e.vd die))) }

/-- Entries of a dirty-log ring, and the count of unconsumed ones (14 R393). -/
def dlSize (v : Vd) : Nat := 2 ^ v.dllog
def dlUsed (v : Vd) : Nat := (v.dltail - v.dlhead).toNat

/-- Appends a leaf to the dirty log and throttles the VD at 7/8 of the ring (14 R393, R394). -/
def dirtyAppend (s : State) (vd : Nat) (ipa lvl : Nat) : State :=
  let v := getVd s vd
  let e := w64 (bitsOf ipa 47 16 * 2 ^ 16 + (3 - lvl))
  let s1 := { s with mem := wrBytes s.mem (hostPa (v.dlbase.toNat + 8 * (v.dltail.toNat % dlSize v))) 8 e.toNat }
  let v1 := { v with dltail := v.dltail + 1, dlFullSince := if dlSize v ≤ dlUsed v + 1 then some s.timeNs else none }
  if !v.thr && decide (7 * dlSize v ≤ 8 * dlUsed v1) then
    postPart (setVd s1 vd { v1 with thr := true }) (partOf vd) false
      { cause := 0x44, vd := vd, gen := v.gen, info := v1.dltail - v1.dlhead }
  else setVd s1 vd v1

/-- Whether setting a stage-2 D bit of the VD must hold (14 R394, 19 R478). -/
def dirtyMustHold (v : Vd) : Bool := v.logen && (v.thr || decide (dlSize v ≤ dlUsed v))

/-- Sets A, and D for a write, in both leaves; a stage-2 D bit newly set is logged (03 R95). The walker's own accesses to the tables of
stage 1 set neither bit in the stage-2 leaves that map them, of which R95 does not speak (DESIGN CHOICE, log 67). -/
def markLeaves (s : State) (vd : Nat) (l1 l2 : Leaf) (ipa : Nat) (write : Bool) : State :=
  let up (e : DWord) : DWord := if write then e ||| 0xC0 else e ||| 0x40
  let mark (s : State) (l : Leaf) : State := wr64 (touchSector s l.pa (decide (up l.entry ≠ l.entry))) l.pa (up l.entry)
  let s2 := mark (mark s l1) l2
  if write && !teD l2.entry && (getVd s vd).logen then dirtyAppend s2 vd (ipa / l2.size * l2.size) l2.level else s2

/-- Whether the accesses that a TLB serves reach far pages: those of copies alone (03 R91). -/
def selFar : TlbSel → Bool
  | .copy _ => true
  | _ => false

/-- What a walk that has found both leaves gives an access. A page that is no die page of the issuing die comes before a missing
permission for an access that reaches no far page (03 R91, 18 R438). -/
def judgeLeaves (s : State) (sel : TlbSel) (vd die : Nat) (needs : Needs) (l1 l2 : Leaf) (ipa : Nat) : XRes :=
  let loc := teLoc l2.entry
  let d := teDie l2.entry
  let pa := leafPa s (partOf vd) loc d (l2.oa + ipa % l2.size)
  if !selFar sel && decide (loc ≠ 0 ∨ d ≠ die) then .ok loc d pa
  else if needs &&& ~~~(tePerms l1.entry) ≠ 0 then .perm 1 l1.level ipa (needs &&& ~~~(tePerms l1.entry))
  else if needs &&& ~~~(tePerms l2.entry) ≠ 0 then .perm 2 l2.level ipa (needs &&& ~~~(tePerms l2.entry))
  else if needs.getLsbD 1 && !teD l2.entry && dirtyMustHold (getVd s vd) then .onHold
  else .ok loc d pa

/-- The combined translation that two leaves give for an address. -/
def leavesEntry (vd va : Nat) (l1 l2 : Leaf) (ipa : Nat) (write : Bool) : TlbEntry :=
  let size := Nat.min l1.size l2.size
  let perms := tePerms l1.entry &&& tePerms l2.entry
  { vd := vd, base := va / size * size, size := size, loc := teLoc l2.entry, die := teDie l2.entry,
    pa := l2.oa + ipa / size * size % l2.size, x := perms.getLsbD 2, w := perms.getLsbD 1, rd := perms.getLsbD 0,
    dirty := write || teD l2.entry && teD l1.entry, accessed := true }

/-- The unrestored range that an access waits for, where it goes to a page that it may reach (14 R399). -/
def reachWait (s : State) (sel : TlbSel) (vd die loc d : Nat) (pa : Option Nat) : Option Nat :=
  if selFar sel || decide (loc = 0 ∧ d = die) then pa.bind (unrestoredAt s (partOf vd)) else none

/-- What an access meets where a walk ends without leaves. -/
def walkEnd (s : State) (pn : Nat) : WalkErr → XRes × State
  | .invalid st lv ipa => (.pageFault st lv ipa, s)
  | .data pa => (.data pa, s)
  | .wait r => (.onHold, demandRange s pn r)

/-- A walk of both stages for an access. Where the access is to be performed, the leaves are marked and the TLBs filled (03 R92 to R97);
a walk that only looks changes nothing. -/
def walkFill (s : State) (sel : TlbSel) (vd die va : Nat) (needs : Needs) (perform : Bool) : XRes × State :=
  match walkBoth s vd die va with
  | .error e => walkEnd s (partOf vd) e
  | .ok (l1, l2, ipa) =>
    match judgeLeaves s sel vd die needs l1 l2 ipa with
    | .ok loc d pa =>
      match reachWait s sel vd die loc d pa with
      | some r => (.onHold, demandRange s (partOf vd) r)
      | none =>
      if perform && (selFar sel || decide (loc = 0 ∧ d = die)) then
        let s1 := (l1.path ++ l2.path).foldl (fun s pa => touchSector s pa false) s
        (.ok loc d pa, tlbFill (markLeaves s1 vd l1 l2 ipa (needs.getLsbD 1)) sel die (leavesEntry vd va l1 l2 ipa (needs.getLsbD 1)))
      else (.ok loc d pa, s)
    | x => (x, s)

/-- Translates a virtual address of a VD for an access on a die, through the TLBs or by a walk (03 R92 to R97); `perform` tells whether
the access is performed now, or only looks where it would go. -/
def translate (s : State) (sel : TlbSel) (vd die va : Nat) (needs : Needs) (perform : Bool) : XRes × State :=
  match tlbFind s sel vd die va with
  | some e =>
    if leafReserved s (partOf vd) e.loc e.die (e.pa + (va - e.base)) then walkFill s sel vd die va needs perform
    else if (selFar sel = false ∧ ¬ (e.loc = 0 ∧ e.die = die))
        ∨ (needs &&& ~~~(tlbPerms e) = 0 ∧ (needs.getLsbD 1 = false ∨ e.dirty) ∧ (perform = false ∨ e.accessed)) then
      let pa := leafPa s (partOf vd) e.loc e.die (e.pa + (va - e.base))
      match reachWait s sel vd die e.loc e.die pa with
      | some r => (.onHold, demandRange s (partOf vd) r)
      | none => (.ok e.loc e.die pa, s)
    else walkFill s sel vd die va needs perform
  | none => walkFill s sel vd die va needs perform

/-- Loads a translation into a core's copy TLB and the shared TLB for a hint: nothing is accessed, and no bit set (09 R266). -/
def hintFill (s : State) (core vd die va : Nat) : State :=
  match tlbFind s (.copy core) vd die va, walkBoth s vd die va with
  | none, .ok (l1, l2, ipa) => tlbFill s (.copy core) die { leavesEntry vd va l1 l2 ipa false with accessed := teA l1.entry && teA l2.entry }
  | _, _ => s

/-- The size of an invalidation's range; none for every translation of the VD (11 R304). -/
def invalBytes (size : Nat) : Option Nat :=
  match size with
  | 0 => some (2 ^ 16) | 1 => some (2 ^ 21) | 2 => some (2 ^ 30) | _ => none

/-- Whether an invalidation leaves a cached translation: a stage-1 range is of VAs; a stage-2 one discards every entry of the VD,
whose IPAs the TLB does not hold. -/
def invalKeeps (iv : Inval) (vd : Nat) (e : TlbEntry) : Bool :=
  if e.vd = vd then
    match iv.stage2, invalBytes iv.size with
    | false, some n =>
      let lo := iv.va.toNat / n * n
      !(decide (e.base < lo + n) && decide (lo < e.base + e.size))
    | _, _ => false
  else true

/-- Discards the cached translations that an invalidation names, on every core and die. -/
def invalTlbs (s : State) (vd : Nat) (iv : Inval) : State :=
  let f := List.filter (invalKeeps iv vd)
  { s with
    cores := s.cores.map (fun (n, c) => (n, { c with tlb := f c.tlb, copyTlb := f c.copyTlb }))
    dtlb := s.dtlb.map (fun (n, l) => (n, f l)) }

end Sys2Proof.Machine
end

