-- ==== Sys2Proof/Machine/PageFault.lean ====
section
/-! DEFINITION. Serving page faults from free-frame rings and by page requests (19 R459 to R463), and the access that resolves
a translation, serving what can be served. -/

namespace Sys2Proof.Machine

/-- A function of PMODE in host-assisted mode (14 R388). -/
def hostMode (s : State) (pn bit : Nat) : Bool :=
  match getPart s pn with
  | some p => p.pmode.getLsbD bit
  | none => false

/-- Whether a ring has a frame to give; a disabled one has none (R459). -/
def ringHas (r : FrameRing) : Bool := r.en && (r.kept.isSome || decide (r.head ≠ r.tail))

/-- The host ring of a die (19 R460). -/
def hostRing (s : State) (pn d : Nat) : FrameRing :=
  match getPart s pn with
  | some p => Store.get FrameRing.reset p.ff d
  | none => FrameRing.reset
def setHostRing (s : State) (pn d : Nat) (r : FrameRing) : State :=
  match getPart s pn with
  | some p => setPart s pn { p with ff := Store.put p.ff d r }
  | none => s

/-- Takes a frame from a ring: the kept one, else the next entry that `ok` accepts; others are discarded (19 R461). -/
def takeFrame (mem : List Host.Cell) (ok : DWord → Bool) : Nat → FrameRing → Option DWord × FrameRing
  | 0, r => (none, r)
  | n + 1, r =>
    match r.kept with
    | some f => (some f, { r with kept := none })
    | none =>
      if r.en && decide (r.head ≠ r.tail) then
        let e := w64 (rdBytes mem (hostPa (r.base.toNat + 8 * (r.head.toNat % 2 ^ r.qlog))) 8)
        let r1 := { r with head := r.head + 1 }
        if ok e then (some e, r1) else takeFrame mem ok n r1
      else (none, r)

/-- Whether a host-ring entry names a frame of the die's window, and a tenant entry an IPA (19 R460, R461). -/
def hostFrameOk (s : State) (pn d : Nat) (e : DWord) : Bool :=
  match getPart s pn with
  | some p => decide (bitsOf e.toNat 51 16 * 2 ^ 16 = e.toNat) && decide (e.toNat + 2 ^ 16 ≤ dieWindow p d) && !inArea p d e.toNat
  | none => false
def tenantFrameOk (e : DWord) : Bool := decide (bitsOf e.toNat 47 16 * 2 ^ 16 = e.toNat)

/-- Physical addresses of the 1 KiB pieces of a 64 KiB frame in a location of R93; none in a far block of another partition (14 R380). -/
def framePieces (s : State) (pn loc die a : Nat) : List Nat :=
  (List.range 64).filterMap (fun i => (leafPa s pn loc die (a + 1024 * i)).filter (ownsPa s pn))

/-- Writes zeros over 1 KiB pieces: their bytes become unlisted. -/
def zeroPieces (mem : List Host.Cell) (l : List Nat) : List Host.Cell :=
  mem.filter (fun c => !(l.any (fun b => decide (b ≤ c.1) && decide (c.1 < b + 1024))))

/-- Writes zeros over the pieces of a frame; whole sectors are written, which lose their poison (17 R433). -/
def zeroFrame (s : State) (l : List Nat) : State :=
  { s with
    mem := zeroPieces s.mem l
    poison := s.poison.filter (fun e => !(l.any (fun b => decide (b / 16 ≤ e.1 ∧ e.1 < b / 16 + 64)))) }

/-- The leaf that a ring's permissions give (19 R461). Its A and D bits stay clear until the walk that R461 restarts finds that the access is
performed, and sets them as R95 gives. -/
def ringLeaf (r : FrameRing) (oa : Nat) (host : Bool) (d : Nat) : DWord :=
  w64 ((if host then d * 2 ^ 56 else 0) + oa + boolNat r.x * 2 ^ 5 + boolNat r.w * 2 ^ 4 + boolNat r.rd * 2 ^ 3 + 3)

/-- The place of the level-3 stage-2 entry of an IPA, when levels 0 to 2 are valid tables. -/
def entry2Pa (s : State) (pn die ipa : Nat) : List Nat → Nat → Option Nat
  | [], _ => none
  | lvl :: rest, table =>
    match tableWordPa s pn die (table + 8 * levelIndex 2 lvl ipa) with
    | none => none
    | some pa =>
      if lvl = 3 then some pa
      else
        let e := rd64 s pa
        if teInvalid lvl e || teL e then none else entry2Pa s pn die ipa rest (teOa e)

/-- The place of a stage-1 table word by its IPA. -/
def word1Pa (s : State) (vd die ipa : Nat) : Option Nat :=
  match stage2 s vd die ipa with
  | .ok l2 => leafPa s (partOf vd) (teLoc l2.entry) (teDie l2.entry) (l2.oa + ipa % l2.size)
  | .error _ => none

/-- One service of a stage-2 level-3 fault from the partition's host ring: the frame is zeroed and the leaf written, or kept when
the entry is no longer invalid (19 R461). -/
def serveHost (s : State) (vd die ipa : Nat) : State :=
  let pn := partOf vd
  let (f, r) := takeFrame s.mem (hostFrameOk s pn die) 65537 (hostRing s pn die)
  match f with
  | none => setHostRing s pn die r
  | some oa =>
    let s1 := zeroFrame s (framePieces s pn 0 die oa.toNat)
    match entry2Pa s1 pn die ipa [0, 1, 2, 3] (getVd s vd).s2root.toNat with
    | some pa =>
      if teInvalid 3 (rd64 s1 pa) then
        setHostRing (wr64 (touchSector s1 pa true) pa (ringLeaf r oa.toNat true die)) pn die r
      else setHostRing s1 pn die { r with kept := some oa }
    | none => setHostRing s1 pn die { r with kept := some oa }

/-- One service of a stage-1 level-3 fault from the VD's tenant ring. The frame's zeros are written through stage 2: what they meet there is
left for its own service, and the leaf that maps the frame is marked as written (03 R95). -/
def serveTenant (s : State) (vd die ipa : Nat) : State × Option XRes :=
  let (f, r) := takeFrame s.mem tenantFrameOk 65537 (getVd s vd).tff
  let setR (t : State) (r : FrameRing) : State := setVd t vd { getVd t vd with tff := r }
  match f with
  | none => (setR s r, none)
  | some oa =>
    match stage2 s vd die oa.toNat with
    | .error e =>
      let (x, s1) := walkEnd (setR s { r with kept := some oa }) (partOf vd) e
      (s1, some x)
    | .ok l2 =>
      if !teW l2.entry then (setR s { r with kept := some oa }, some (.perm 2 l2.level oa.toNat 2))
      else if !teD l2.entry && dirtyMustHold (getVd s vd) then (setR s { r with kept := some oa }, some .onHold)
      else
      let s0 := zeroFrame s (framePieces s (partOf vd) (teLoc l2.entry) (teDie l2.entry) (l2.oa + oa.toNat % l2.size))
      let s1 := markLeaves s0 vd l2 l2 oa.toNat true
      match word1Pa s1 vd die ipa with
      | some pa =>
        if teInvalid 3 (rd64 s1 pa) then (setR (wr64 (touchSector s1 pa true) pa (ringLeaf r oa.toNat false 0)) r, none)
        else (setR s1 { r with kept := some oa }, none)
      | none => (setR s1 { r with kept := some oa }, none)

/-- How a failed translation is handled (19 R459). -/
inductive Service where
  | tenant
  | host
  | request
  | deliver
  deriving DecidableEq, Repr

/-- The service that R459's table gives a failed translation of an access on a die. -/
def serviceFor (s : State) (vd die : Nat) : XRes → Service
  | .pageFault st lv _ =>
    let hw := !hostMode s (partOf vd) 0
    if st = 1 then
      if lv = 3 ∧ hw ∧ ringHas (getVd s vd).tff then .tenant else .deliver
    else if lv = 3 ∧ hw ∧ ringHas (hostRing s (partOf vd) die) then .host else .request
  | .perm st _ _ _ => if st = 2 then .request else .deliver
  | _ => .deliver

/-- The walks of a bay that hold, by range: the pending ranges of R97. -/
def pendingWalks (s : State) (bay : Nat) : List (Nat × Nat) :=
  (s.vds.flatMap (fun e => e.2.tags.flatMap (fun t => (t.2.walks.filter (fun w => decide (w.1 = bay))).map (fun w => (e.1, w.2))))).dedup

/-- Whether a bay has room for a walk of a VD's range: it is pending already, or fewer than 64 ranges are (03 R97). -/
def walkRoom (s : State) (bay vd range : Nat) : Bool :=
  let l := pendingWalks s bay
  elemOf (vd, range) l || decide (l.length < 64)

/-- The lowest bay of a partition on a die, whose walkers serve what no core asks for (log 67). -/
def lowBay (s : State) (pn die : Nat) : Nat :=
  match getPart s pn with
  | some p => ((List.range 16).find? (fun b => hasBay p (16 * die + b))).getD 0 + 16 * die
  | none => 16 * die

/-- A walk of a bay joins an outstanding request. -/
def joinWalk (s : State) (vd tag bay range : Nat) : State :=
  let v := getVd s vd
  setVd s vd { v with tags := Store.modify v.tags tag (fun rq =>
    if elemOf (bay, range) rq.walks then rq else { rq with walks := rq.walks ++ [(bay, range)] }) }

/-- A page request for a range, by a walk of a bay: joins an outstanding one, or takes the lowest free tag and posts event 0x41 (19 R462).
Answers the tag, or none while all 64 tags are taken or the bay has no range free (03 R97). -/
def pageRequest (s : State) (bay vd die va : Nat) (needs : Needs) (x : XRes) (lanes : Word) (unit : Nat) (task : DWord) :
    Option Nat × State :=
  let v := getVd s vd
  let (ipa, lv, perm) := match x with
    | .pageFault _ lv ipa => (ipa, lv, false)
    | .perm _ lv ipa _ => (ipa, lv, true)
    | _ => (0, 0, false)
  let range := w64 (ipa / 2 ^ 16 * 2 ^ 16)
  if !walkRoom s bay vd (va / 2 ^ 16) then (none, s)
  else match v.tags.find? (fun t => decide (t.2.ipa = range ∧ t.2.pri = none)) with
  | some (tag, _) => (some tag, joinWalk s vd tag bay (va / 2 ^ 16))
  | none =>
    match Store.freeKey v.tags 64 0 with
    | none => (none, s)
    | some tag =>
      let rq : PageReq :=
        { ipa := range, va := w64 va, die := die, needs := needs, perm := perm, posted := true, pri := none, walks := [(bay, va / 2 ^ 16)] }
      let s1 := setVd s vd { v with tags := Store.put v.tags tag rq }
      let detail := tag + boolNat perm * 2 ^ 8 + boolNat (needs.getLsbD 1) * 2 ^ 9 + boolNat (needs.getLsbD 2) * 2 ^ 10 + lv * 2 ^ 11
      (some tag, postVd s1 vd true
        { cause := 0x41, detail := detail, addr := range, info := w64 va, lanes := lanes, unit := unit, task := task, vd := vd, gen := v.gen })

/-- Translates without performing, serving from the rings what they can serve, at most `fuel` services. -/
def lookFor (sel : TlbSel) (vd die va : Nat) (needs : Needs) : Nat → State → XRes × State
  | 0, s => translate s sel vd die va needs false
  | n + 1, s =>
    match translate s sel vd die va needs false with
    | (.ok l d pa, s1) => (.ok l d pa, s1)
    | (x, s1) =>
      match serviceFor s1 vd die x, x with
      | .host, .pageFault _ _ ipa => lookFor sel vd die va needs n (serveHost s1 vd die ipa)
      | .tenant, .pageFault _ _ ipa =>
        match serveTenant s1 vd die ipa with
        | (s2, none) => lookFor sel vd die va needs n s2
        | (s2, some y) => match serviceFor s2 vd die y, y with
          | .host, .pageFault _ _ fr => lookFor sel vd die va needs n (serveHost s2 vd die fr)
          | _, _ => (y, s2)
      | _, _ => (x, s1)

/-- Translates an access that is performed where its translation succeeds, serving from the rings what they can serve. -/
def resolve (sel : TlbSel) (vd die va : Nat) (needs : Needs) (fuel : Nat) (s : State) : XRes × State :=
  match lookFor sel vd die va needs fuel s with
  | (.ok _ _ _, s1) => translate s1 sel vd die va needs true
  | r => r

/-- Services that one access may need: its table words, its frame and its page. -/
def serviceFuel : Nat := 16

/-- DETAIL of a delivered translation fault (18 R448): the cause, and the detail for a data access or a fetch. -/
def xCause : XRes → Nat
  | .pageFault _ _ _ => cPageFault
  | .perm _ _ _ _ => cPermission
  | _ => cDataError

def xDetail (fetch write : Bool) : XRes → Nat
  | .pageFault st lv _ => (lv % 4) + (if st = 2 then 4 else 0) + boolNat fetch * 16 + boolNat write * 32
  | .perm st _ _ missing => missing.toNat + (if st = 2 then 8 else 0)
  | .data _ => 1
  | _ => 0

/-- DETAIL of FAR_ACCESS (18 R448). -/
def farDetail (loc die : Nat) (fetch : Bool) : Nat := loc % 4 + die % 4 * 4 + boolNat fetch * 16

end Sys2Proof.Machine
end

