-- ==== Sys2Proof/Machine/Warps.lean ====
section
/-! DEFINITION. Registers, predicates and operands of a warp, the tables of tasks and jobs, and memory spaces as a warp's lanes reach
them (02 R39, R44, 03 R79 to R88, 06 R155). -/

namespace Sys2Proof.Machine

/-- Thread register `r` of lane `l`. -/
def getV (w : Warp) (r l : Nat) : Word := Store.get 0 w.regs (32 * r + l)
def setV (w : Warp) (r l : Nat) (x : Word) : Warp :=
  { w with regs := Store.set 0 w.regs (32 * r + l) x, lostRegs := Store.set false w.lostRegs (32 * r + l) false }

/-- Keys of `lostRegs` for a uniform register and for a lane's predicate. -/
def lostK (n : Nat) : Nat := 32768 + n
def lostP (n l : Nat) : Nat := 40960 + 32 * n + l

/-- Uniform register `n`. -/
def getK (w : Warp) (n : Nat) : Word := Store.get 0 w.kregs n
def setK (w : Warp) (n : Nat) (x : Word) : Warp :=
  { w with kregs := Store.set 0 w.kregs n x, lostRegs := Store.set false w.lostRegs (lostK n) false }

/-- Predicate `n` as a lane mask; `p7` is true in every lane (03 R79). -/
def predMask (w : Warp) (n : Nat) : Word := if n = 7 then 0xFFFFFFFF else Store.get 0 w.preds n

/-- Writes a predicate of a lane; a write to `p7` is discarded (06 R155). -/
def setP (w : Warp) (n l : Nat) (b : Bool) : Warp :=
  if n = 7 then w
  else
    let m := predMask w n
    { w with
      preds := Store.set 0 w.preds n (if b then m ||| laneMask l else m &&& ~~~(laneMask l))
      lostRegs := Store.set false w.lostRegs (lostP n l) false }

/-- The lanes on which an instruction acts: active lanes whose guard is true (06 R154). -/
def guardMask (w : Warp) (g : Guard) : Word :=
  let m := predMask w g.p.toNat
  w.active &&& (if g.neg then ~~~m else m)

/-- A 32-bit source of a lane (06 R155). -/
def src32 (w : Warp) (o : Opnd) (l : Nat) : Word :=
  match o with
  | .v n => getV w n.toNat l
  | .k n => getK w n.toNat
  | .p n => boolWord (inMask (predMask w n.toNat) l)
  | .vz => 0
  | .bad _ => 0

/-- Word `j` of a source of several registers (06 R155). -/
def srcWord (w : Warp) (o : Opnd) (j l : Nat) : Word :=
  match o with
  | .v n => getV w (n.toNat + j) l
  | .k n => getK w (n.toNat + j)
  | .p n => if j = 0 then boolWord (inMask (predMask w n.toNat) l) else 0
  | .vz => 0
  | .bad _ => 0

/-- A 64-bit source: the pair whose even register the field names. -/
def src64 (w : Warp) (o : Opnd) (l : Nat) : DWord := pairOf (srcWord w o 0 l) (srcWord w o 1 l)

/-- A source of `n` words as one number, the first register least significant. -/
def srcNat (w : Warp) (o : Opnd) (l : Nat) : Nat → Nat → Nat
  | _, 0 => 0
  | j, n + 1 => (srcWord w o j l).toNat + 2 ^ 32 * srcNat w o l (j + 1) n

/-- Writes word `j` of a destination of several registers (06 R155). -/
def dstWord (w : Warp) (o : Opnd) (j l : Nat) (x : Word) : Warp :=
  match o with
  | .v n => setV w (n.toNat + j) l x
  | .k n => setK w (n.toNat + j) x
  | .p n => if j = 0 then setP w n.toNat l (x ≠ 0) else w
  | .vz => w
  | .bad _ => w

/-- Writes a 32-bit result of a lane. -/
def dst32 (w : Warp) (o : Opnd) (l : Nat) (x : Word) : Warp := dstWord w o 0 l x

/-- Writes a 64-bit result of a lane. -/
def dst64 (w : Warp) (o : Opnd) (l : Nat) (x : DWord) : Warp := dstWord (dstWord w o 0 l (lowWord x)) o 1 l (highWord x)

/-- Writes a result of `n` words from a number. -/
def dstNat (w : Warp) (o : Opnd) (l : Nat) : Nat → Nat → Nat → Warp
  | _, 0, _ => w
  | j, n + 1, x => dstNat (dstWord w o j l (w32 x)) o l (j + 1) n (x / 2 ^ 32)

/-- Applies a lane's write to each lane of a mask, ascending. -/
def eachLane {σ : Type} (m : Word) (f : σ → Nat → σ) (s : σ) : σ := (maskLanes m).foldl f s

/-- Writes a 32-bit result to each lane of a mask; every value is formed before any is written (07 R180). -/
def writeLanes32 (w : Warp) (m : Word) (o : Opnd) (f : Nat → Word) : Warp := eachLane m (fun w' l => dst32 w' o l (f l)) w
def writeLanes64 (w : Warp) (m : Word) (o : Opnd) (f : Nat → DWord) : Warp := eachLane m (fun w' l => dst64 w' o l (f l)) w

/-- The job number and task index of a handle (02 R39). -/
def handleJob (h : DWord) : Nat := bitsOf h.toNat 47 32
def handleIx (h : DWord) : Nat := bitsOf h.toNat 31 0
def mkHandle (job ix : Nat) : DWord := w64 (job * 2 ^ 32 + ix)

/-- Keys of the tables of tasks and jobs. -/
def taskKey (vd : Nat) (h : DWord) : Nat := vd * 2 ^ 48 + h.toNat % 2 ^ 48
def jobKey (vd num : Nat) : Nat := vd * 2 ^ 14 + num
def keyVd (k : Nat) : Nat := k / 2 ^ 48
def keyHandle (k : Nat) : DWord := w64 (k % 2 ^ 48)

def getTask (s : State) (k : Nat) : Option Task := Store.find s.tasks k
def setTask (s : State) (k : Nat) (t : Task) : State := { s with tasks := Store.put s.tasks k t }
def getJob (s : State) (vd num : Nat) : Option Job := Store.find s.jobs (jobKey vd num)
def setJob (s : State) (j : Job) : State := { s with jobs := Store.put s.jobs (jobKey j.vd j.num) j }

/-- The job of a task. -/
def taskJob (s : State) (t : Task) : Option Job := getJob s t.vd (handleJob t.handle)

/-- The kernel of a task's job. -/
def taskKernel (s : State) (t : Task) : Option Kernel := (taskJob s t).map (fun j => j.kernel)

/-- Warp `i` of a task. -/
def getWarp (t : Task) (i : Nat) : Option Warp := t.warps[i]?
def setWarp (s : State) (k i : Nat) (w : Warp) : State :=
  match getTask s k with
  | some t => setTask s k { t with warps := setNth t.warps i w }
  | none => s
def modWarp (s : State) (k i : Nat) (f : Warp → Warp) : State :=
  match getTask s k with
  | some t => setTask s k { t with warps := modNth t.warps i f }
  | none => s

/-- A warp has ended when its launch mask is zero (02 R59). -/
def warpEnded (w : Warp) : Bool := decide (w.launch = 0)

/-- Spill bytes of a warp: S of 03 R80. -/
def spillSize (k : Kernel) : Nat := k.spill * 65536

/-- The state of a warp at its task's first issue (02 R44). -/
def newWarp (k : Kernel) (args : List Word) : Warp :=
  { pc := k.entry, active := 0xFFFFFFFF, launch := 0xFFFFFFFF, regs := [],
    kregs := ((List.range k.nargs).filter (fun i => decide (nthD args i 0 ≠ 0))).map (fun i => (i, nthD args i 0)),
    preds := [], stack := [], fpmode := 0, kbc := 0, gctx := none, handler := false, trapCause := 0, spill := [],
    issued := 0, iters := 0, mmas := 0, blocked := .ready, blockedAt := 0, acq := [], arrived := none, raised := none, stamp := 0,
    passed := 0, yieldLeft := 0, lat := none, drained := none, reenter := none, lostRegs := [], lostSpill := [], rebuilt := none, gaeOut := [] }

/-- Bytes of a task's `.shared` space. -/
def rdShared (t : Task) (a : Nat) : Nat → Nat
  | 0 => 0
  | n + 1 => (Store.get 0 t.shared a).toNat + 256 * rdShared t (a + 1) n
def wrSharedBytes (t : Task) (a : Nat) : Nat → Nat → Task
  | 0, _ => t
  | n + 1, v => wrSharedBytes { t with shared := Store.set 0 t.shared a (BitVec.ofNat 8 v) } (a + 1) n (v / 256)

/-- A write to `.shared`: a word that it covers whole is no longer lost (17 R433). -/
def wrShared (t : Task) (a n v : Nat) : Task :=
  (List.range (n / 4)).foldl (fun t i =>
    if a % 4 = 0 then { t with lostShared := Store.set false t.lostShared (a / 4 + i) false } else t) (wrSharedBytes t a n v)

/-- Whether any 4-byte word of a `.shared` range is marked lost. -/
def lostSharedRange (t : Task) (a n : Nat) : Bool := (List.range n).any (fun i => Store.get false t.lostShared ((a + i) / 4))

/-- The 64-bit word at offset `8 × j` of a record (02 R49). -/
def rdLoc (s : State) (l : Loc) (j : Nat) : DWord :=
  match l with
  | .phys pa => rd64 s (pa + 8 * j)
  | .shared k off => match getTask s k with
    | some t => w64 (rdShared t (off + 8 * j) 8)
    | none => 0
def wrLoc (s : State) (l : Loc) (j : Nat) (v : DWord) : State :=
  match l with
  | .phys pa => wr64 s (pa + 8 * j) v
  | .shared k off => match getTask s k with
    | some t => setTask s k (wrShared t (off + 8 * j) 8 v.toNat)
    | none => s

/-- Whether a warp has copies or GAE runs in progress (04 R117). -/
def opsOut (s : State) (k i : Nat) : Bool :=
  s.cores.any (fun c => c.2.copies.any (fun e => decide (e.2.task = k ∧ e.2.warp = i))
    || c.2.gaeq.any (fun e => decide (e.2.task = k ∧ e.2.warp = i) && (match e.2.kind with
      | .run _ _ _ _ => true
      | _ => false)))

/-- Discards every line of a core's L1 (03 R88). -/
def flushL1 (s : State) (c : Nat) : State := setCore s c { getCore s c with l1 := [] }

/-- An acquire of a task: the L1 of the core on which it stands is invalidated, or that of the core on which it next resumes. -/
def flushTaskL1 (s : State) (k : Nat) : State :=
  match getTask s k with
  | some t => match t.core with
    | some c => flushL1 s c
    | none => setTask s k { t with acquired := true }
  | none => s

/-- Bytes `a` to `a + n - 1` as a core reads them through L1: present sectors give their copy (03 R87). -/
def rdThroughL1 (s : State) (c : Core) (a : Nat) : Nat → Nat
  | 0 => 0
  | n + 1 =>
    let b := match Store.find c.l1 (a / 16) with
      | some x => (x.extractLsb' (8 * (a % 16)) 8).toNat
      | none => (rdByte s.mem a).toNat
    b + 256 * rdThroughL1 s c (a + 1) n

/-- The lines of 64 bytes that a list of sectors in rising order takes. -/
def lineCount : List (Nat × BitVec 128) → Nat
  | [] => 0
  | [_] => 1
  | a :: b :: t => (if a.1 / 4 = b.1 / 4 then 0 else 1) + lineCount (b :: t)

/-- Evicts a line of an L1 to make room for another, of sector `keep`: the lowest (log 66). -/
def evictLine (keep : Nat) (l : List (Nat × BitVec 128)) : List (Nat × BitVec 128) :=
  match l.find? (fun e => decide (e.1 / 4 ≠ keep / 4)) with
  | some e => l.filter (fun x => decide (x.1 / 4 ≠ e.1 / 4))
  | none => l

/-- Fills a sector in an L1: a line beyond its capacity takes the place of another (01 R26, 03 R87). -/
def fillSector (s : State) (core sec : Nat) : State :=
  let c := getCore s core
  let l := Store.put c.l1 sec (rdSector s sec)
  setCore (touchSector s (16 * sec) false) core { c with l1 := if c.l1Cap < lineCount l then evictLine sec l else l }

/-- Fills the sectors that an access touches, where they are absent. -/
def fillL1 (s : State) (core a n : Nat) : State :=
  (List.range (((a + n + 15) / 16) - a / 16)).foldl (fun s i =>
    match Store.find (getCore s core).l1 (a / 16 + i) with
    | some _ => s
    | none => fillSector s core (a / 16 + i)) s

/-- Refreshes the present sectors that an access touches, each of them whole (03 R87; R87 does not say whether a store's acknowledgement
brings more than the bytes stored: DESIGN CHOICE, log 66). -/
def refreshL1 (s : State) (core a n : Nat) : State :=
  (List.range (((a + n + 15) / 16) - a / 16)).foldl (fun s i =>
    let c := getCore s core
    match Store.find c.l1 (a / 16 + i) with
    | some _ => setCore s core { c with l1 := Store.put c.l1 (a / 16 + i) (rdSector s (a / 16 + i)) }
    | none => s) s

/-- A load of `n` bytes of die memory by a core: scopes `.warp` and `.task` go through L1, wider ones to the slice (03 R87). -/
def loadDie (s : State) (core pa n scope : Nat) : Nat × State :=
  if scope < 2 then (rdThroughL1 s (getCore s core) pa n, fillL1 s core pa n)
  else (rdBytes s.mem pa n, refreshL1 (touchL2 s pa n false) core pa n)

/-- A store of `n` bytes of die memory by a core: performed at the slice, and present L1 sectors updated (03 R87): each
whole sector that it touches (DESIGN CHOICE, log 66). -/
def storeDie (s : State) (core pa n v : Nat) : State := refreshL1 (putBytes s pa n v) core pa n

end Sys2Proof.Machine
end

