-- ==== Sys2Proof/Machine/Futures.lean ====
section
/-! DEFINITION. Futures and lock words: their records, the park table, waking, filling and poisoning (02 R49 to R58, 09 R245 to
R251, 19 R472 to R477). -/

namespace Sys2Proof.Machine

/-- Fields of word 0 of a record (02 R49). -/
def recState (w0 : DWord) : Nat := w0.toNat % 4
def recOwner (w0 : DWord) : DWord := w64 (bitsOf w0.toNat 47 2)
def recStatus (w0 : DWord) : Nat := bitsOf w0.toNat 63 48
def recWord0 (state : Nat) (owner : DWord) (status : Nat) : DWord :=
  w64 (status % 2 ^ 16 * 2 ^ 48 + owner.toNat % 2 ^ 46 * 4 + state % 4)

/-- Word 1 of a record with parked waiters: NREAD and HEAD. -/
def parkWord (nread head : Nat) : DWord := w64 (nread * 2 ^ 32 + head % 2 ^ 32)
def recNread (w1 : DWord) : Nat := bitsOf w1.toNat 63 32
def recHead (w1 : DWord) : Nat := bitsOf w1.toNat 31 0

/-- The key of park record `n`: on the die below 65,536, else in the partition's overflow region on that die (02 R52). -/
def parkKey (die pn n : Nat) : Nat :=
  if n < 65536 then die * 2 ^ 48 + n else die * 2 ^ 48 + (pn + 1) * 2 ^ 32 + n

/-- Records of a partition's overflow region on a die (19 R477). -/
def parkCapOf (s : State) (pn die : Nat) : Nat :=
  match getPart s pn with
  | some p => Store.get 32768 p.parkCap die
  | none => 0

/-- The free park record that a parking warp takes: the lowest on the die, and while the die's table is full the lowest of the partition's
region. Which of the free records it is, R52 does not say (DESIGN CHOICE, log 68). -/
def freePark (s : State) (die pn : Nat) : Option Nat :=
  match Store.freeKey s.parks 65536 (parkKey die pn 0) with
  | some k => some (k - parkKey die pn 0)
  | none => match Store.freeKey s.parks (parkCapOf s pn die) (parkKey die pn 65536) with
    | some k => some (65536 + (k - parkKey die pn 65536))
    | none => none

/-- The record numbers of a list from its head, at most `n`. A record that another VD's warp holds, or that waits on another word, is no
part of it: software may have overwritten NREAD and HEAD (00 R4, 02 R50). -/
def parkList (s : State) (vd die : Nat) (l : Loc) : Nat → Nat → List Nat
  | 0, _ => []
  | n + 1, r =>
    match Store.find s.parks (parkKey die (partOf vd) r) with
    | none => []
    | some p =>
      if p.task / 2 ^ 48 ≠ vd ∨ p.loc ≠ l then []
      else match p.link with
        | none => [r]
        | some q => r :: parkList s vd die l n q

/-- The waiters of a record of a VD in parking order. -/
def recWaiters (s : State) (vd : Nat) (l : Loc) (die : Nat) : List Nat :=
  let w1 := rdLoc s l 1
  parkList s vd die l (Nat.min (recNread w1) s.parks.length) (recHead w1)

/-- Writes the links of a list of records. -/
def relink (parks : List (Nat × ParkRec)) (die pn : Nat) : List Nat → List (Nat × ParkRec)
  | [] => parks
  | [r] => Store.modify parks (parkKey die pn r) (fun p => { p with link := none })
  | r :: q :: t => relink (Store.modify parks (parkKey die pn r) (fun p => { p with link := some q })) die pn (q :: t)

/-- The die and partition of a task. -/
def taskDie (s : State) (k : Nat) : Nat :=
  match getTask s k with
  | some t => t.die
  | none => 0
def taskPart (k : Nat) : Nat := partOf (keyVd k)

/-- The owner handle's key in a VD. -/
def ownerKey (vd : Nat) (w0 : DWord) : Nat := taskKey vd (recOwner w0)

/-- Notes that a record names an owner (log 5), or no longer does. -/
def noteFut (s : State) (vd : Nat) (l : Loc) (lock : Bool) : State :=
  if s.futs.any (fun e => decide (e = (vd, l, lock))) then s else { s with futs := s.futs ++ [(vd, l, lock)] }
def dropFut (s : State) (vd : Nat) (l : Loc) : State :=
  { s with futs := s.futs.filter (fun e => !decide (e.1 = vd ∧ e.2.1 = l)) }

/-- Whether a warp waits on a future, a lock word or a barrier (02 R63). -/
def warpWaits (w : Warp) : Bool :=
  match w.blocked with
  | .future _ _ _ _ | .lock _ _ _ | .barrier _ _ => true
  | _ => false

/-- Whether a warp waits on a future or lock word. -/
def warpParks (w : Warp) : Bool :=
  match w.blocked with
  | .future _ _ _ _ | .lock _ _ _ => true
  | _ => false

/-- Recomputes a task's state from its warps (02 R47); a parked task that became runnable takes its place in the resume order. -/
def refreshTask (s : State) (k : Nat) : State :=
  match getTask s k with
  | none => s
  | some t =>
    let live := t.warps.filter (fun w => !warpEnded w)
    let allWait := !live.isEmpty && live.all warpWaits
    match t.st with
    | .running | .waiting => setTask s k { t with st := if allWait then .waiting else .running }
    | .parkedWaiting =>
      if allWait then s
      else setTask { s with seq := s.seq + 1 } k { t with st := .parkedRunnable, runnableAt := s.seq }
    | .parkedRunnable | .ended => s

/-- Completes a warp's instruction: the PC moves on and the issue counter counts (11 R312). -/
def retire (w : Warp) : Warp := { w with pc := w.pc + 8, issued := w.issued + 1 }

/-- Wakes a waiter. With a value, an `FGET` whose lanes all name the record completes (02 R52, 09 R248). -/
def wakeWarp (s : State) (k i : Nat) (value : Option DWord) : State :=
  let s1 := modWarp s k i (fun w =>
    match w.blocked, value with
    | .future _ _ _ (some (d, m)), some v => retire { writeLanes64 w m d (fun _ => v) with blocked := .ready }
    | _, _ => { w with blocked := .ready })
  refreshTask (flushTaskL1 s1 k) k

/-- Frees the park records of a list and wakes their warps in order. -/
def wakeList (s : State) (die pn : Nat) (value : Option DWord) (l : List Nat) : State :=
  l.foldl (fun s r =>
    match Store.find s.parks (parkKey die pn r) with
    | none => s
    | some p => wakeWarp { s with parks := Store.del s.parks (parkKey die pn r) } p.task p.warp value) s

/-- Parks a warp on a record: NREAD and HEAD, or a place at the tail (09 R248). Answers none when no park record is free. -/
def parkOn (s : State) (k i : Nat) (l : Loc) (lock : Bool) (va : DWord) (fin : Option (Opnd × Word)) : Option State :=
  let die := taskDie s k
  let pn := taskPart k
  match freePark s die pn with
  | none => none
  | some r =>
    let w0 := rdLoc s l 0
    let waiting := if lock then decide (recState w0 = 2) else decide (recState w0 = 1)
    let before := if waiting then recWaiters s (keyVd k) l die else []
    let s1 := { s with parks := Store.put s.parks (parkKey die pn r) { task := k, warp := i, link := none, loc := l } }
    let s2 := { s1 with parks := relink s1.parks die pn (before ++ [r]) }
    let s3 := wrLoc s2 l 0 (recWord0 (if lock then 2 else 1) (recOwner w0) (recStatus w0))
    let s4 := wrLoc s3 l 1 (if waiting then parkWord (recNread (rdLoc s l 1) + 1) (recHead (rdLoc s l 1)) else parkWord 1 r)
    let b : Blocked := if lock then .lock l r va else .future l r va fin
    let s5 := modWarp { s4 with seq := s4.seq + 1 } k i (fun w => { w with blocked := b, blockedAt := s4.seq })
    some (refreshTask (noteFut s5 (keyVd k) l lock) k)

/-- Removes a warp's park record from its list; an empty list returns the record to EMPTY or HELD (09 R254). Where software has overwritten
the record, so that the list no longer holds the warp, its word stays. -/
def unpark (s : State) (k i : Nat) : State :=
  match (getTask s k).bind (fun t => getWarp t i) with
  | none => s
  | some w =>
    let go (l : Loc) (r : Nat) (lock : Bool) : State :=
      let die := taskDie s k
      let pn := taskPart k
      let w0 := rdLoc s l 0
      let all := recWaiters s (keyVd k) l die
      let s0 := { s with parks := Store.del s.parks (parkKey die pn r) }
      if elemOf r all ∧ recState w0 = (if lock then 2 else 1) then
        let rest := all.filter (fun x => decide (x ≠ r))
        let s1 := { s0 with parks := relink s0.parks die pn rest }
        match rest with
        | [] => wrLoc (wrLoc s1 l 0 (recWord0 (if lock then 1 else 0) (recOwner w0) (recStatus w0))) l 1 0
        | h :: _ => wrLoc s1 l 1 (parkWord rest.length h)
      else s0
    match w.blocked with
    | .future l r _ _ => go l r false
    | .lock l r _ => go l r true
    | _ => s

/-- Fills a record as `FPUT` does (09 R247): the answer tells FULL or POISONED records apart from a fill. -/
inductive FillRes where
  | filled
  | double
  | poisoned
  deriving DecidableEq, Repr

def fillRec (s : State) (vd die : Nat) (l : Loc) (value : DWord) (status : Nat) : FillRes × State :=
  let w0 := rdLoc s l 0
  match recState w0 with
  | 0 => (.filled, dropFut (wrLoc (wrLoc s l 1 value) l 0 (recWord0 2 (recOwner w0) status)) vd l)
  | 1 =>
    let ws := recWaiters s vd l die
    let s1 := dropFut (wrLoc (wrLoc s l 1 value) l 0 (recWord0 2 (recOwner w0) status)) vd l
    (.filled, wakeList s1 die (partOf vd) (some value) ws)
  | 2 => (.double, s)
  | _ => (.poisoned, s)

/-- Makes a record POISONED with a cause: its waiters are woken, word 1 is zero, OWNER stays (02 R58). -/
def poisonRec (s : State) (vd die : Nat) (l : Loc) (lock : Bool) (cause : Nat) : State :=
  let w0 := rdLoc s l 0
  let parked := if lock then decide (recState w0 = 2) else decide (recState w0 = 1)
  let ws := if parked then recWaiters s vd l die else []
  let s1 := dropFut (wrLoc (wrLoc s l 1 0) l 0 (recWord0 3 (recOwner w0) (cause % 256))) vd l
  wakeList s1 die (partOf vd) none ws

/-- The die whose park table serves a record: the die that holds it, or the task's for `.shared`. -/
def locDie (s : State) (l : Loc) : Nat :=
  match l with
  | .phys pa => pa / 2 ^ 36
  | .shared k _ => taskDie s k

/-- A record at a virtual address of a VD as the device itself reaches it on a die; none where it does not translate to die memory. -/
def devLoc (s : State) (vd die : Nat) (va : DWord) : Option Loc × State :=
  match resolve .none vd die va.toNat needRW serviceFuel s with
  | (.ok 0 _ (some pa), s1) => (some (.phys pa), s1)
  | (_, s1) => (none, s1)

/-- Writes an EMPTY future with an owner at a virtual address, as the device does for results (02 R55, R56). -/
def devNewFuture (s : State) (vd die : Nat) (va : DWord) (owner : DWord) : State :=
  match devLoc s vd die va with
  | (some l, s1) => noteFut (wrLoc (wrLoc s1 l 0 (recWord0 0 owner 0)) l 1 0) vd l false
  | (none, s1) => s1

/-- Fills a future at a virtual address as the device does for results (02 R55). -/
def devFill (s : State) (vd die : Nat) (va : DWord) (value : DWord) (status : Nat) : State :=
  match devLoc s vd die va with
  | (some l, s1) => (fillRec s1 vd die l value status).2
  | (none, s1) => s1

/-- Poisons a future at a virtual address unless it is FULL, or POISONED already (02 R57, R58). -/
def devPoison (s : State) (vd die : Nat) (va : DWord) (cause : Nat) : State :=
  match devLoc s vd die va with
  | (some l, s1) => if 2 ≤ recState (rdLoc s1 l 0) then s1 else poisonRec s1 vd die l false cause
  | (none, s1) => s1

/-- Sets the OWNER of a future at a virtual address, keeping its other fields (02 R55). -/
def devOwner (s : State) (vd die : Nat) (va : DWord) (owner : DWord) : State :=
  match devLoc s vd die va with
  | (some l, s1) =>
    let w0 := rdLoc s1 l 0
    if recState w0 ≤ 1 then wrLoc s1 l 0 (recWord0 (recState w0) owner (recStatus w0)) else s1
  | (none, s1) => s1

end Sys2Proof.Machine
end

