-- ==== Sys2Proof/Machine/Divergence.lean ====
section
/-! DEFINITION. The divergence stack of a warp (02 R59 to R61, 07 R199 to R202). The head of the list is the newest entry. -/

namespace Sys2Proof.Machine

/-- The pops that stand before a fetch (R60): while the PC is the newest entry's join, its pending lanes run, or it pops. -/
def popJoins : Nat → Warp → Warp
  | 0, w => w
  | n + 1, w =>
    match w.stack with
    | [] => w
    | e :: rest =>
      if w.pc = e.join then
        if e.pending ≠ 0 then
          popJoins n { w with active := e.pending, pc := e.pendingPc, stack := { e with pending := 0 } :: rest }
        else popJoins n { w with active := e.restore, stack := rest }
      else w

/-- A warp as it stands when it fetches: each entry takes at most two of R60's turns. -/
def beforeFetch (w : Warp) : Warp := popJoins (2 * w.stack.length) w

/-- Unwinds the stack while no lane is active (07 R202). -/
def unwind : Nat → Warp → Warp
  | 0, w => w
  | n + 1, w =>
    match w.stack with
    | [] => w
    | e :: rest =>
      if w.active ≠ 0 then w
      else if e.pending ≠ 0 then
        unwind n { w with active := e.pending, pc := e.pendingPc, stack := { e with pending := 0 } :: rest }
      else unwind n { w with active := e.restore, pc := e.join, stack := rest }

def unwindAll (w : Warp) : Warp := unwind (2 * w.stack.length) w

/-- Removes lanes from the launch mask, the active mask and every mask on the stack (R59). -/
def removeLanes (w : Warp) (m : Word) : Warp :=
  { w with
    launch := w.launch &&& ~~~m
    active := w.active &&& ~~~m
    stack := w.stack.map (fun e => { e with restore := e.restore &&& ~~~m, pending := e.pending &&& ~~~m }) }

/-- The entries that R200 pushes for groups G1 to Gm: newest first, the restore mask of entry j is G1 or … or Gj. -/
def groupEntries (join : DWord) : Word → List (DWord × Word) → List DivEntry
  | _, [] => []
  | before, (pc, m) :: rest =>
    { join := join, restore := before ||| m, pendingPc := pc, pending := m } :: groupEntries join (before ||| m) rest

/-- Runs the groups in turn under R200: the first runs at once and the others stand on the stack. -/
def runGroups (w : Warp) (join : DWord) : List (DWord × Word) → Warp
  | [] => w
  | [(pc, m)] => { w with pc := pc, active := m }
  | (pc, m) :: rest => { w with pc := pc, active := m, stack := groupEntries join m rest ++ w.stack }

/-- The lanes of a mask grouped by a key, each group at its lowest lane (R200). -/
def groupLanes (key : Nat → DWord) : List Nat → List (DWord × Word) → List (DWord × Word)
  | [], gs => gs
  | l :: t, gs =>
    groupLanes key t
      (if gs.any (fun g => decide (g.1 = key l)) then
        gs.map (fun g => if g.1 = key l then (g.1, g.2 ||| laneMask l) else g)
      else gs ++ [(key l, laneMask l)])

end Sys2Proof.Machine
end

