-- ==== Sys2Proof/Machine/Rebuild.lean ====
section
/-! DEFINITION. How a lattice warp leaves the lattice: tags and levels, its tokens, the rebuild of its front-end state, the normal exit
and the purge (12 R329, R338 to R340, R347, 20 R481). -/

namespace Sys2Proof.Machine

/-- The warp that holds a warp slot of a core: its task and its index (12 R329). -/
def warpAtSlot (s : State) (core wslot : Nat) : Option (Nat × Nat) :=
  firstSome (fun (e : Nat × Task) =>
    if e.2.core = some core then
      (firstSome (fun i => if nthD e.2.wslots i 64 = wslot then some i else none) (List.range e.2.wslots.length)).map (fun i => (e.1, i))
    else none) s.tasks

/-- The core and the slot of a warp, while resident. -/
def slotOfWarp (s : State) (k i : Nat) : Option (Nat × Nat) :=
  match getTask s k with
  | some t => match t.core with
    | some c => some (c, nthD t.wslots i 0)
    | none => none
  | none => none

/-- The image in a slot of a core. -/
def imageAt (s : State) (core slot : Nat) : Option Image := Store.find (getCore s core).slots slot

/-- The tag of the enclosing iteration, and the iteration fields of a tag as one number (12 R329, 06 R163). -/
def tagPop (t : Tag) : Tag := { t with i := t.m, m := t.o, o := 0 }
def tagPush (t : Tag) : Tag := { t with o := t.m, m := t.i, i := 0 }
def tagVec (t : Tag) : Nat := t.o.toNat * 2 ^ 32 + t.m.toNat * 2 ^ 16 + t.i.toNat
/-- The 64-bit tag of R329. -/
def tagWord (t : Tag) : DWord := w64 (t.wslot * 2 ^ 58 + t.islot * 2 ^ 56 + tagVec t)

/-- The tag of a token at an enclosing level `n` levels out. -/
def tagOut : Nat → Tag → Tag
  | 0, t => t
  | n + 1, t => tagOut n (tagPop t)

/-- The open or closed instance of a level with a parent iteration. -/
def instOf (r : LatRun) (level : Nat) (parent : Tag) : Option LevelInst :=
  r.levels.find? (fun li => decide (li.level = level ∧ li.parent = parent))
def modInst (r : LatRun) (level : Nat) (parent : Tag) (f : LevelInst → LevelInst) : LatRun :=
  { r with levels := r.levels.map (fun li => if li.level = level ∧ li.parent = parent then f li else li) }

/-- The parent tag of an iteration: of level 0, the entry's own tag with zero fields. -/
def parentOf (level : Nat) (t : Tag) : Tag := if level = 0 then { t with o := 0, m := 0, i := 0 } else tagPop t

/-- The live iteration of a level with a tag. -/
def iterAt (r : LatRun) (level : Nat) (tag : Tag) : Option Iter :=
  r.iters.find? (fun it => decide (it.level = level ∧ it.tag = tag))

/-- The ordinal of an iteration in its instance, from its field: a live or a coming one lies less than 65,536 above the oldest
uncommitted one (12 R330). -/
def ordOf (r : LatRun) (level : Nat) (t : Tag) : Nat :=
  let u := match instOf r level (parentOf level t) with
    | some li => li.committed
    | none => 0
  u + (t.i - BitVec.ofNat 16 u).toNat

/-- Whether, at the outermost of the given levels at which two iterations differ, the first comes at or after the second; where they do
not differ, the given answer (12 R330). -/
def laterAt (r : LatRun) (t : Tag) (tl : Nat) (n : Tag) (level : Nat) (same : Bool) : List Nat → Bool
  | [] => same
  | lv :: rest =>
    let x := tagOut (tl - lv) t
    let y := tagOut (level - lv) n
    if x = y then laterAt r t tl n level same rest else decide (ordOf r lv y ≤ ordOf r lv x)

/-- Whether an iteration is of a boundary's iteration or later; an iteration that encloses the boundary is neither (12 R330, R338). -/
def atOrAfter (r : LatRun) (n : Tag) (level : Nat) (t : Tag) (tl : Nat) : Bool :=
  laterAt r t tl n level (decide (level ≤ tl)) (List.range (Nat.min level tl + 1))

/-- Whether a boundary lies within an iteration. -/
def encloses (n : Tag) (level : Nat) (t : Tag) (tl : Nat) : Bool := decide (tl < level) && decide (tagOut (level - tl) n = t)

/-- How many levels outside the firing level a `WADV` gates: `.incmid` one, `.incout` two (06 R163). -/
def gateOut (top : Nat) : Nat :=
  match top with
  | 5 => 1
  | 6 => 2
  | _ => 0

/-- Whether a token is one of a warp's. -/
def tokOf (wslot : Nat) (t : Token) : Bool := decide (t.tag.wslot = wslot)

/-- Whether an entry of the GAE queue is a row of a lattice warp's, and satisfies `f` of its context, level and tag. -/
def latticeRow (wslot : Nat) (f : Nat → Nat → Tag → Bool) (o : GaeOp) : Bool :=
  match o.kind with
  | .lrow node level tag _ _ => decide (tag.wslot = wslot) && f node level tag
  | _ => false

/-- Drops every token of a warp on a core: in flight, in stores, in the overflow table, at gates and at the GAE's port. -/
def dropTokens (c : Core) (wslot : Nat) : Core :=
  { c with
    flight := c.flight.filter (fun e => !tokOf wslot e.2)
    store := c.store.filter (fun e => !tokOf wslot e.2)
    gate := c.gate.filter (fun e => !tokOf wslot e.2)
    gaeq := c.gaeq.filter (fun e => !latticeRow wslot (fun _ _ _ => true) e.2) }

/-- The tokens that a core holds for a warp. -/
def coreTokens (c : Core) (wslot : Nat) : List Token :=
  ((c.flight.map Prod.snd) ++ (c.store.map Prod.snd) ++ (c.gate.map Prod.snd)).filter (tokOf wslot)

/-- Writes a token's value to a register, a pair or a predicate, in the token's lanes. -/
def writeTok (w : Warp) (reg : Nat) (pair pred : Bool) (o : LiveOut) : Warp :=
  eachLane o.mask (fun w l =>
    let x := nthD o.data l 0
    if pred then setP w (reg % 8) l (lowWord x ≠ 0)
    else if pair then setV (setV w reg l (lowWord x)) (reg + 1) l (highWord x)
    else setV w reg l (lowWord x)) w

/-- The carried values of an image: the context, the register, and whether it is a pair or a predicate. A block's `WADV` contexts name
their registers themselves (12 R346). -/
def carriedMap (im : Image) : List (Nat × Nat × Bool × Bool) :=
  if im.expl then
    im.nodes.filterMap (fun e => if e.2.op = 0x3C2 then
        some (e.1, (e.2.imm.extractLsb' 0 8).toNat, e.2.imm.getLsbD 8, false)
      else none)
  else im.carried

/-- Writes the carried tokens into their registers. -/
def writeCarried (w : Warp) (im : Image) (toks : List (Nat × LiveOut)) : Warp :=
  (carriedMap im).foldl (fun w (node, reg, pair, pred) =>
    (toks.filter (fun t => decide (t.1 = node))).foldl (fun w t => writeTok w reg pair pred t.2) w) w

/-- An entry of an image's exit list: address, level and kind (12 R349). -/
def exitAddr (e : DWord) : DWord := w64 (bitsOf e.toNat 55 0)
def exitLevel (e : DWord) : Nat := bitsOf e.toNat 57 56
def exitKind (e : DWord) : Nat := bitsOf e.toNat 59 58

/-- The address of exit `n` of an explicit block, and of its fallback entry, which follows the exit table (12 R343). -/
def blockExit (im : Image) (n : Nat) : DWord := exitAddr (nthD im.exits n 0)
def blockFallback (im : Image) : DWord := blockExit im (im.exits.length - 1) + 8

/-- One exit event of R340's rebuild. -/
def pushEvent (im : Image) (w : Warp) (e : ExitEv) : Warp :=
  let x := nthD im.exits e.exit 0
  let j := nthD im.joins e.level 0
  let entry : DivEntry :=
    if exitKind x = 0 then { join := j, restore := w.active, pendingPc := j, pending := e.lanes }
    else { join := j, restore := w.active, pendingPc := exitAddr x, pending := 0 }
  { w with stack := entry :: w.stack, active := w.active &&& ~~~e.lanes }

/-- Pushes the events of the open levels, outermost first (12 R340). -/
def pushLevels (im : Image) (evs : List ExitEv) : Nat → Nat → Warp → Warp
  | 0, _, w => w
  | n + 1, lv, w => pushLevels im evs n (lv + 1) ((evs.filter (fun e => decide (e.level = lv))).foldl (pushEvent im) w)

/-- The groups that leave an explicit block: the caught lanes at the fallback entry, then each exit in ascending number (12 R347). -/
def blockGroups (im : Image) (caught : Word) (evs : List ExitEv) : List (DWord × Word) :=
  let g1 := if caught = 0 then [] else [(blockFallback im, caught)]
  g1 ++ (List.range 16).filterMap (fun n =>
    let m := (evs.filter (fun e => decide (e.exit = n))).foldl (fun m e => m ||| e.lanes) 0#32
    if m = 0 then none else some (blockExit im n, m))

/-- The union of the masks of caught tokens. -/
def tokMask (l : List (Nat × LiveOut)) : Word := l.foldl (fun m t => m ||| t.2.mask) 0#32

/-- The oldest uncommitted iteration of a warp: of the innermost open instance (12 R336). Iterations are listed in program order, an
enclosing one before those opened within it. -/
def oldestIter (r : LatRun) : Option Iter :=
  match r.iters with
  | [] => none
  | it :: rest =>
    some (rest.foldl (fun a b => if a.level < b.level ∧ tagOut (b.level - a.level) b.tag = a.tag ∧
        (r.levels.any (fun li => decide (li.level = b.level ∧ li.parent = tagPop b.tag ∧ li.committed = b.ordinal))) then b else a) it)

/-- The head copies of the boundary's iteration and of the iterations that enclose it, outermost first (20 R481). -/
def headCopies (r : LatRun) (n : Tag) (level : Nat) : List (Nat × LiveOut) :=
  (List.range (level + 1)).flatMap (fun lv => r.iters.flatMap (fun it =>
    if it.level = lv ∧ it.tag = tagOut (level - lv) n then it.heads else []))

/-- The tokens of `TAGPOP` contexts in the iterations around a boundary (12 R338). -/
def gatheredToks (r : LatRun) (n : Tag) (level : Nat) : List (Nat × LiveOut) :=
  (r.popped ++ r.gathered).filterMap (fun (node, lv, par, o) => if lv < level ∧ tagOut (level - lv) n = par then some (node, o) else none)

/-- Whether a boundary is the first iteration of a run, whose values the registers hold as they stood at entry. -/
def isFirst (r : LatRun) (n : Tag) (level : Nat) : Bool :=
  decide (level = 0 ∧ n.i = BitVec.ofNat 16 r.first) && r.levels.all (fun li => decide (li.level ≠ 0 ∨ li.committed = r.first))

/-- The values that a drain to a boundary leaves a warp: its head copies, then the `TAGPOP` and the caught tokens (12 R340, 20 R481). -/
def boundaryToks (r : LatRun) (n : Tag) (level : Nat) : List (Nat × LiveOut) :=
  headCopies r n level ++ gatheredToks r n level ++ r.caught

/-- Writes a live-out token into its register: a block's port names it, and else the image's map by the sending context (12 R346, R350). -/
def writeOut (im : Image) (w : Warp) (o : LiveOut) : Warp :=
  if im.expl then (if o.w64 then writeTok w (2 * o.port) true false o else writeTok w o.port false false o)
  else (im.liveout.filter (fun e => decide (e.1 = o.node))).foldl (fun w (_, reg, pair, pred) => writeTok w reg pair pred o) w

/-- The iterations that enclose a boundary, outermost first. -/
def outerIters (r : LatRun) (n : Tag) (level : Nat) : List Iter :=
  (List.range level).flatMap (fun lv => r.iters.filter (fun it => decide (it.level = lv ∧ it.tag = tagOut (level - lv) n)))

/-- The exits and live-outs that lanes no longer at a boundary have made in the iterations around it. -/
def outerExits (r : LatRun) (n : Tag) (level : Nat) (here : Word) : List ExitEv :=
  ((outerIters r n level).flatMap (fun it => it.exits)).filterMap (fun e =>
    if e.lanes &&& ~~~here = 0 then none else some { e with lanes := e.lanes &&& ~~~here })
def outerOuts (r : LatRun) (n : Tag) (level : Nat) (here : Word) : List LiveOut :=
  ((outerIters r n level).flatMap (fun it => it.outs)).map (fun o => { o with mask := o.mask &&& ~~~here })

/-- The rebuild after a drain to a boundary. `toFallback` says that the lanes left at a block's header resume at its fallback entry
(12 R340, R347, 20 R483). -/
def rebuildWarp (im : Image) (r : LatRun) (n : Tag) (level : Nat) (toFallback : Bool) (w : Warp) : Warp :=
  let here := tokMask ((boundaryToks r n level).filter (fun t => decide (Store.get 0 im.levels t.1 = level)))
  let exits := r.exits ++ outerExits r n level here
  let w0 := (outerOuts r n level here).foldl (writeOut im) { w with lat := none, stack := r.stack, active := r.mask }
  let gone := if im.expl then exits.foldl (fun m e => m ||| e.lanes) 0#32 else 0
  let toks := (boundaryToks r n level).map (fun t => (t.1, { t.2 with mask := t.2.mask &&& ~~~gone }))
  if im.expl then
    if isFirst r n level then { w0 with pc := if toFallback then blockFallback im else nthD im.heads 0 0 }
    else runGroups (writeCarried w0 im toks) (nthD im.joins 0 0) (blockGroups im (tokMask toks) exits)
  else
    let w1 := writeCarried { pushLevels im exits (level + 1) 0 w0 with pc := nthD im.heads level 0 } im toks
    if w1.active = 0 then unwindAll w1 else w1

/-- The normal exit (12 R339, R347). -/
def exitWarp (im : Image) (r : LatRun) (w : Warp) : Warp :=
  let w0 := { w with lat := none, stack := r.stack, active := r.mask }
  if im.expl then runGroups w0 (nthD im.joins 0 0) (blockGroups im 0 r.exits)
  else { w0 with pc := nthD im.joins 0 0 }

/-- The next warp that becomes senior: in ascending slot order with wrap, one that has an uncommitted iteration (12 R332). -/
def nextSenior (s : State) (core from_ : Nat) : Option Nat :=
  (List.range 64).map (fun n => (from_ + 1 + n) % 64) |>.find? (fun ws => match warpAtSlot s core ws with
    | some (k, i) => ((getTask s k).bind (fun t => (getWarp t i).bind (fun w => w.lat))).any (fun r => !r.iters.isEmpty)
    | none => false)
def passOn (s : State) (core wslot : Nat) : State :=
  let c := getCore s core
  if c.senior = some wslot ∨ c.senior = none then setCore s core { c with senior := nextSenior s core wslot } else s

/-- Puts the warp's rebuilt state in place: its tokens are dropped, and a seniority that it held passes on (12 R332). -/
def leaveLattice (s : State) (k i : Nat) (f : Warp → Warp) : State :=
  match slotOfWarp s k i with
  | none => modWarp s k i f
  | some (c, ws) => passOn (modWarp (setCore s c (dropTokens (getCore s c) ws)) k i f) c ws

/-! Boundaries within an iteration. -/

/-- Whether an iteration of an inner loop has committed within an iteration: its own accesses before the inner loop are then performed,
and it is not executed again from its head (log 35). -/
def begun (r : LatRun) (it : Iter) : Bool :=
  r.levels.any (fun li => decide (it.level < li.level ∧ 0 < li.committed ∧ tagOut (li.level - 1 - it.level) li.parent = it.tag))

/-- The boundary at which an iteration stops with no effect of it done twice: its head, or, where it is begun, the oldest uncommitted
iteration of its inner loop, which is the loop's exit once that has closed (log 35). -/
def stopAt (im : Image) (r : LatRun) : Nat → Iter → Tag × Nat
  | 0, it => (it.tag, it.level)
  | n + 1, it =>
    if !begun r it then (it.tag, it.level)
    else match instOf r (it.level + 1) it.tag with
      | none => (it.tag, it.level)
      | some li =>
        let next : Tag := { tagPush it.tag with i := BitVec.ofNat 16 li.committed }
        match iterAt r (it.level + 1) next with
        | some x => stopAt im r n x
        | none => if im.expl && li.closed then (it.tag, it.level) else (next, it.level + 1)

/-- The iteration for which a `WADV` holds a token at its gate. -/
def gateFor (im : Image) (t : Token) : Tag × Nat :=
  let g := match t.dest with
    | .slot node _ => ((Store.find im.nodes node).map (fun x => gateOut x.top.toNat)).getD 0
    | .south _ _ => 0
  (tagOut g t.tag, t.level - g)

/-- The tokens of a warp that wait at the gates of a core for an iteration. -/
def gateToks (c : Core) (wslot : Nat) (im : Image) (n : Tag) (level : Nat) : List (Nat × LiveOut) :=
  c.gate.filterMap (fun e => match e.2.dest with
    | .slot node _ => if tokOf wslot e.2 ∧ (gateFor im e.2 = (n, level) ∨ (e.2.tag, e.2.level) = (n, level)) then
        some (node, { node := node, port := 0, w64 := e.2.w64, mask := e.2.mask, data := e.2.data }) else none
    | .south _ _ => none)

/-- Where a warp that stops at once stands: at its oldest uncommitted iteration, live or waiting at the gates; none where it has left
its loop (20 R481). -/
def stopPlace (c : Core) (wslot : Nat) (im : Image) (r : LatRun) : Option (Tag × Nat) :=
  (r.levels.find? (fun li => decide (li.level = 0))).bind (fun li =>
    let next : Tag := { li.parent with i := BitVec.ofNat 16 li.committed }
    match iterAt r 0 next with
    | some it => some (stopAt im r 4 it)
    | none => if li.closed || (gateToks c wslot im next 0).isEmpty then none else some (next, 0))

/-- The sequence number at which a level's body comes to its inner loops: that of their first access, or of the first access that needs
what a `TAGPOP` sends; past every number where neither is. -/
def innerSeq (im : Image) (level : Nat) : Nat :=
  (im.seqs.filter (fun e => decide (level < e.2.2) || (decide (level = e.2.2) && elemOf e.1 im.afterPop))).foldl
    (fun m e => Nat.min m e.2.1) 32

/-- The place in program order of a `GAROW` or `MMA` context: the memory operations before it. -/
def rowPos (im : Image) (node : Nat) : Nat := ((im.rows.find? (fun e => decide (e.1 = node))).map Prod.snd).getD 0

/-- Whether a `GAROW` or `MMA` context stands before the inner loops of its level. -/
def rowBefore (im : Image) (level node : Nat) : Bool := decide (rowPos im node ≤ innerSeq im level) && !elemOf node im.afterPop

/-- Whether a memory token's context stands before the inner loops of its level. -/
def beforeInner (im : Image) (level : Nat) (t : MemTok) : Bool :=
  if t.word.op = 0x341 then rowBefore im level t.node else decide (t.seq < innerSeq im level)

/-- What a drain to a boundary leaves of an iteration: all before the boundary, of an enclosing one the accesses that stand before the
inner loop, and else nothing. -/
def drainIter (im : Image) (r : LatRun) (n : Tag) (level : Nat) (it : Iter) : Iter :=
  if atOrAfter r n level it.tag it.level then { it with toks := [], outs := [], exits := [] }
  else if encloses n level it.tag it.level then { it with toks := it.toks.filter (beforeInner im it.level) }
  else it

/-- What a drain section would hold of a drained warp (12 R351). -/
def drainRec (im : Image) (r : LatRun) (n : Tag) (level : Nat) : DrainRec :=
  let ord (lv : Nat) : Nat := if lv ≤ level then ordOf r lv (tagOut (level - lv) n) else 0
  let here := tokMask (boundaryToks r n level)
  { slot := r.slot, tag := n, ords := [ord 0, ord 1, ord 2], toks := boundaryToks r n level,
    events := (r.exits ++ outerExits r n level here).filter (fun e => im.expl || decide (e.level ≤ level)) }

/-- The warp after a drain: rebuilt at the boundary; after a fault drain the front end re-executes the iteration that its cause names
(20 R482). -/
def drainedWarp (im : Image) (r : LatRun) (fault : Bool) (n : Tag) (level : Nat) (w : Warp) : Warp :=
  let w1 := rebuildWarp im r n level fault w
  let named := r.named.getD n
  { w1 with
    rebuilt := if fault then some (r.slot, named, w1.pc, nthD im.joins (if named = n then level else level - 1) 0) else none
    drained := some (drainRec im r n level) }

/-- A warp whose committed iterations hold a fence that waits for the warp's operations waits on the front end (04 R114, R117). -/
def keepFence (ops : Bool) (r : LatRun) (w : Warp) : Warp := if r.fence.isSome && ops then { w with blocked := .fence } else w

/-- A purge: the warp drains at once to its oldest uncommitted iteration, by its head copies and the tokens at its gates (20 R481).
`fault` says that a block's lanes resume at its fallback entry. -/
def purgeWarp (s : State) (k i : Nat) (fault : Bool) : State :=
  match (getTask s k).bind (fun t => (getWarp t i).map (fun w => (t, w))) with
  | some (t, w) =>
    match w.lat, t.core with
    | some r, some c =>
      let ws := nthD t.wslots i 0
      let keep := keepFence (opsOut s k i) r
      let s1 := if r.fence.isSome then flushTaskL1 s k else s
      match imageAt s c r.slot with
      | some im => match stopPlace (getCore s c) ws im r with
        | some (n, level) =>
          let r1 := { r with
            caught := gateToks (getCore s c) ws im n level, iters := r.iters.map (drainIter im r n level), named := none }
          leaveLattice s1 k i (fun w => keep (drainedWarp im r1 fault n level w))
        | none => leaveLattice s1 k i (fun w => keep (exitWarp im r w))
      | none => leaveLattice s1 k i (fun w => keep { w with lat := none, stack := r.stack, active := r.mask })
    | _, _ => s
  | none => s

/-- Purges every warp of a task that is in the lattice. -/
def purgeTask (s : State) (k : Nat) : State :=
  match getTask s k with
  | some t => (List.range t.warps.length).foldl (fun s i => purgeWarp s k i false) s
  | none => s

end Sys2Proof.Machine
end

