-- ==== Sys2Proof/Machine/Place.lean ====
section
/-! DEFINITION. What tasks need and hold on a core, nests, placing, evicting and resuming (01 R25, R26, 02 R44, R45, R48, R67, R68,
03 R99, 13 R362 to R366). -/

namespace Sys2Proof.Machine

/-- Resources on a core: warp slots and register bytes by bench, and task-shared bytes (02 R48). -/
structure Need where
  slots : List Nat
  bytes : List Nat
  shared : Nat
  deriving DecidableEq, Repr

def benches : List Nat := List.range 8

def needZero : Need := { slots := benches.map (fun _ => 0), bytes := benches.map (fun _ => 0), shared := 0 }

/-- Warps that a kernel puts on a bench (02 R37). -/
def benchWarps (k : Kernel) (b : Nat) : Nat := (k.warps + 7 - b) / 8

/-- What a task of a kernel needs (01 R25, R26). -/
def kernelNeed (k : Kernel) : Need :=
  { slots := benches.map (benchWarps k), bytes := benches.map (fun b => benchWarps k b * (k.regs * 1024)), shared := roundUp k.shmem 8192 }

def zipNeed (f : Nat → Nat → Nat) (a b : Need) : Need :=
  { slots := List.zipWith f a.slots b.slots, bytes := List.zipWith f a.bytes b.bytes, shared := f a.shared b.shared }
def needAdd : Need → Need → Need := zipNeed (· + ·)
def needMax : Need → Need → Need := zipNeed Nat.max

/-- A task and the helpers beneath it, innermost first; a nest is at most five deep (02 R68). -/
def nestFrom (s : State) : Nat → Nat → List Nat
  | 0, _ => []
  | n + 1, k =>
    match getTask s k with
    | none => []
    | some t => match t.helper with
      | none => [k]
      | some h => k :: nestFrom s n h

/-- The helpers beneath a task, innermost first (02 R68). -/
def helpersOf (s : State) (k : Nat) : List Nat := (nestFrom s 8 k).drop 1
/-- The nesting depth of a task. -/
def nestDepth (s : State) (k : Nat) : Nat := (helpersOf s k).length

/-- The lowest helper of the nest of a task. -/
def nestRoot (s : State) (k : Nat) : Nat := ((nestFrom s 8 k).getLast?).getD k

/-- The tasks of the nest of a lowest helper, and those of them at a depth. -/
def nestTasks (s : State) (root : Nat) : List Nat := (s.tasks.map Prod.fst).filter (fun k => decide (nestRoot s k = root))
def nestLevel (s : State) (root depth : Nat) : List Nat := (nestTasks s root).filter (fun k => decide (nestDepth s k = depth))

/-- The need of one task; an ended task holds its `.shared` allocation alone (09 R265). -/
def taskNeed (s : State) (k : Nat) : Need :=
  match getTask s k with
  | some t => match taskKernel s t, t.st with
    | some kn, .ended => { needZero with shared := roundUp kn.shmem 8192 }
    | some kn, _ => kernelNeed kn
    | none, _ => { needZero with shared := roundUp t.shared.length 8192 }
  | none => needZero

/-- What a nest holds: the largest need of any task in it, and at least what its resident tasks need together (02 R67). -/
def nestNeed (s : State) (root : Nat) : Need :=
  let ks := nestTasks s root
  let most := ks.foldl (fun n k => needMax n (taskNeed s k)) needZero
  let here := (ks.filter (fun k => match getTask s k with
    | some t => t.core.isSome
    | none => false)).foldl (fun n k => needAdd n (taskNeed s k)) needZero
  needMax most here

/-- The lowest helpers of the nests that stand on a core, ended tasks among them. -/
def rootsOn (s : State) (core : Nat) : List Nat :=
  ((s.tasks.filter (fun e => decide (e.2.core = some core))).map (fun e => nestRoot s e.1)).dedup

/-- What a core's nests hold together. -/
def coreUse (s : State) (core : Nat) : Need :=
  (rootsOn s core).foldl (fun n k => needAdd n (nestNeed s k)) needZero

/-- The constant images that a core's nests keep loaded: VD, address and length (02 R45, R67). -/
def coreConsts (s : State) (core : Nat) : List (Nat × DWord × Nat) :=
  ((rootsOn s core).flatMap (fun root => (nestTasks s root).filterMap (fun k =>
    match getTask s k with
    | some t => match taskKernel s t, t.st with
      | _, .ended => none
      | some kn, _ => if kn.constLen = 0 then none else some (t.vd, kn.constAddr, kn.constLen)
      | none, _ => none
    | none => none))).dedup

/-- Resident tasks of a core as R364 counts them: a nest counts as one (02 R67). -/
def residentCount (s : State) (core : Nat) : Nat :=
  ((rootsOn s core).filter (fun root => (nestTasks s root).any (fun k => match getTask s k with
    | some t => decide (t.st ≠ .ended)
    | none => false))).length

/-- Whether a core holds no more than it has (01 R25, R26, 13 R364). -/
def coreOk (s : State) (core : Nat) : Bool :=
  let u := coreUse s core
  u.slots.all (fun n => decide (n ≤ 8)) && u.bytes.all (fun n => decide (n ≤ 131072)) && decide (u.shared ≤ 786432)
  && decide (residentCount s core ≤ 16)
  && decide (((coreConsts s core).map (fun e => e.2.2)).foldl (· + ·) 0 ≤ 131072)

/-- Free register bytes and free warp slots of a core (13 R364). -/
def freeBytes (s : State) (core : Nat) : Nat := 8 * 131072 - (coreUse s core).bytes.foldl (· + ·) 0
def freeSlots (s : State) (core : Nat) : Nat := 64 - (coreUse s core).slots.foldl (· + ·) 0

/-- Warp slots that resident tasks of a core take. -/
def usedSlots (s : State) (core : Nat) : List Nat :=
  s.tasks.flatMap (fun e => if e.2.core = some core then e.2.wslots else [])

/-- Assigns warp `i` the lowest free slot of bench `i mod 8` (02 R37, 12 R329). -/
def assignSlots (used : List Nat) : Nat → Nat → List Nat
  | 0, _ => []
  | n + 1, i =>
    let b := 8 * (i % 8)
    let slot := match (List.range 8).find? (fun x => !elemOf (b + x) used) with
      | some x => b + x
      | none => b
    slot :: assignSlots (slot :: used) n (i + 1)

/-- Evicts lines, the lowest first, until at most `cap` are left (01 R26). -/
def trimLines (cap : Nat) : Nat → List (Nat × BitVec 128) → List (Nat × BitVec 128)
  | 0, l => l
  | n + 1, l => if cap < lineCount l then trimLines cap n (evictLine 0 l) else l

/-- L1 takes what the task-shared allocations of a core leave of 896 KiB, in steps of 32 KiB; lines in the capacity that it surrenders are
evicted (01 R26). -/
def fitL1 (s : State) (core : Nat) : State :=
  let cap := (917504 - roundUp (coreUse s core).shared 32768) / 64
  let c := getCore s core
  if c.l1Cap = cap then s else setCore s core { c with l1Cap := cap, l1 := trimLines cap c.l1.length c.l1 }

/-- What a core gives up when tasks have left it: the constant images that no nest of it uses any longer (02 R45, R67), the image slots of
kernels of which no task stands on it (11 R306), and L1 grows back (01 R26). -/
def pruneCore (s : State) (core : Nat) : State :=
  let c := getCore s core
  let used := coreConsts s core
  let kernels := s.tasks.filterMap (fun e =>
    if e.2.core = some core ∧ e.2.st ≠ .ended then (taskKernel s e.2).map (fun kn => (e.2.vd, kn.addr)) else none)
  fitL1 (setCore s core { c with
    consts := c.consts.filter (fun x => elemOf (x.vd, x.addr, x.len) used)
    slots := c.slots.filter (fun e => elemOf (e.2.vd, e.2.kdesc) kernels)
    barred := c.barred.filter (fun e => elemOf (e.1, e.2.1) kernels)
    monitor := c.monitor.filter (fun m => (getTask s m.task).isSome) }) core

/-- Seats a task on a core: slots, stamps, what its drains left in another core's slots forgotten, and the L1 flush of 04 R120 when it comes from elsewhere or starts, or when an acquire of it
has completed while it was parked (04 R109). -/
def seat (s : State) (k core : Nat) (fresh : Bool) : State :=
  match getTask s k with
  | none => s
  | some t =>
    let c := getCore s core
    let n := t.warps.length
    let ws := (t.warps.zip (List.range n)).map (fun (w, i) => if t.lastCore = core then { w with stamp := c.stamp + i } else { w with stamp := c.stamp + i, drained := none, reenter := none })
    let t1 := { t with
      core := some core, st := .running, warps := ws, wslots := assignSlots (usedSlots s core) n 0, lastCore := core, acquired := false, evicting := false, ending := none }
    let s1 := setTask (setCore s core { c with stamp := c.stamp + n }) k t1
    if fresh || t.acquired || decide (t.lastCore ≠ core) then flushL1 s1 core else s1

/-! The regions of die memory that Firex reserves (14 R377). -/

/-- The region of a kind that a partition has on a die. -/
def areaOf (p : Part) (kind : AreaKind) (die : Nat) : Option Area := p.areas.find? (fun a => decide (a.kind = kind ∧ a.die = die))

/-- The window offset of the overflow table of a core, 4 MiB for each core of the partition on its die, ascending (01 R24, 12 R333). -/
def overflowBase (s : State) (pn core : Nat) : Option Nat :=
  (getPart s pn).bind (fun p => (areaOf p .overflow (dieOfCore core)).bind (fun a =>
    ((((List.range 48).map (fun i => 48 * dieOfCore core + i)).filter (fun c => hasBay p (bayOfCore c))).findIdx?
      (fun c => decide (c = core))).map (fun i => a.base + i * 2 ^ 22)))

/-- Bytes of the backing of one warp's `.spill` space with its register save frame (03 R81), of a task's warps, and of its save block
(03 R99). -/
def warpBacking (kn : Kernel) : Nat := 32 * (spillSize kn + 1024)
def spillBytes (kn : Kernel) : Nat := kn.warps * warpBacking kn
def saveBytes (kn : Kernel) : Nat := 4096 + roundUp kn.shmem 8192

/-- What tasks of a partition hold of a region on a die: first offset and bytes. -/
def heldRanges (s : State) (pn die : Nat) (base : Task → Nat) (bytes : Kernel → Nat) : List (Nat × Nat) :=
  s.tasks.filterMap (fun e =>
    if partOf e.2.vd = pn ∧ e.2.die = die ∧ e.2.st ≠ .ended then (taskKernel s e.2).map (fun kn => (base e.2, bytes kn)) else none)

/-- The lowest place of `n` bytes in a region beside the ranges held in it. -/
def lowestGap (a : Area) (held : List (Nat × Nat)) (n : Nat) : Option Nat :=
  minBy id ((a.base :: held.map (fun h => h.1 + h.2)).filter (fun b =>
    decide (a.base ≤ b ∧ b + n ≤ a.base + a.size) && held.all (fun h => decide (b + n ≤ h.1 ∨ h.1 + h.2 ≤ b))))

/-- Places for a new task's spill backing and save block, or none while a region has no room (03 R81, R99, 19 R475). -/
def taskRoom (s : State) (vd die : Nat) (kn : Kernel) : Option (Nat × Nat) :=
  (getPart s (partOf vd)).bind (fun p =>
    match areaOf p .spill die, areaOf p .save die with
    | some a, some b =>
      (lowestGap a (heldRanges s (partOf vd) die Task.spillBase spillBytes) (spillBytes kn)).bind (fun x =>
        (lowestGap b (heldRanges s (partOf vd) die Task.saveBase saveBytes) (saveBytes kn)).map (fun y => (x, y)))
    | _, _ => none)

/-! The spill cache (03 R82). -/

/-- The window offset of a spill address of warp `i` of a task (03 R81). -/
def spillOff (t : Task) (kn : Kernel) (i a : Nat) : Nat := t.spillBase + i * warpBacking kn + 32 * a

/-- Writes words of a store as backing from a window offset: word `j` stands 4 × `j` bytes on; words that the store does not list are 0. -/
def backWords (s : State) (p : Part) (die base n : Nat) (words : List (Nat × Word)) : State :=
  let pieces := (List.range ((base % 1024 + n + 1023) / 1024)).filterMap (fun i => diePa p die ((base / 1024 + i) * 1024))
  let inRange (pa : Nat) : Bool := pieces.any (fun b => decide (b ≤ pa ∧ pa < b + 1024))
  let keep : List Host.Cell := if base % 1024 = 0 ∧ n % 1024 = 0 then s.mem.filter (fun c => !inRange c.1)
    else (List.range (n / 4)).foldl (fun m j => match diePa p die (base + 4 * j) with
      | some pa => wrBytes m pa 4 0
      | none => m) s.mem
  { s with mem := words.foldl (fun m e => match diePa p die (base + 4 * e.1) with
      | some pa => wrBytes m pa 4 e.2.toNat
      | none => m) keep }

/-- The warps whose backing holds a line of 512 bytes. -/
def lineOwner (s : State) (pn die line : Nat) : Option (Task × Kernel × Nat) :=
  firstSome (fun (e : Nat × Task) =>
    if partOf e.2.vd = pn ∧ e.2.die = die ∧ e.2.st ≠ .ended then
      (taskKernel s e.2).bind (fun kn =>
        if e.2.spillBase ≤ 512 * line ∧ 512 * line < e.2.spillBase + spillBytes kn then
          some (e.2, kn, (512 * line - e.2.spillBase) / warpBacking kn)
        else none)
    else none) s.tasks

/-- Writes a line of the spill cache back to its warp's backing (03 R82). -/
def backLine (s : State) (pn die line : Nat) : State :=
  match getPart s pn, lineOwner s pn die line with
  | some p, some (t, kn, i) => match getWarp t i with
    | some w =>
      let w0 := (512 * line - (t.spillBase + i * warpBacking kn)) / 4
      backWords (restoreSpan s pn die (512 * line) 512) p die (512 * line) 512
        ((w.spill.filter (fun e => decide (w0 ≤ e.1 ∧ e.1 < w0 + 128))).map (fun e => (e.1 - w0, e.2)))
    | none => s
  | _, _ => s

/-- An access of warp `i` of a task to a spill address: the spill cache holds its line, dirty after a write. Of 257 lines the lowest other
one leaves, and is written back where it is dirty (log 66). -/
def useSpill (s : State) (core k i a : Nat) (write : Bool) : State :=
  match (getTask s k).bind (fun t => (taskKernel s t).map (fun kn => (t, kn))) with
  | none => s
  | some (t, kn) =>
    let line := spillOff t kn i a / 512
    let c := getCore s core
    let l := Store.put c.spillc line (write || Store.get false c.spillc line)
    if l.length ≤ 256 then setCore s core { c with spillc := l }
    else match l.find? (fun e => decide (e.1 ≠ line)) with
      | some (x, dirty) =>
        setCore (if dirty then backLine s (partOf t.vd) t.die x else s) core { c with spillc := Store.del l x }
      | none => setCore s core { c with spillc := l }

/-- The lines of a core's spill cache that hold backing of a task. -/
def taskLines (t : Task) (kn : Kernel) (c : Core) : List (Nat × Bool) :=
  c.spillc.filter (fun e => decide (t.spillBase ≤ 512 * e.1 ∧ 512 * e.1 < t.spillBase + spillBytes kn))

/-- Drops a task's lines from a core's spill cache. -/
def dropSpill (s : State) (core : Nat) (t : Task) (kn : Kernel) : State :=
  let c := getCore s core
  setCore s core { c with spillc := c.spillc.filter (fun e => !elemOf e (taskLines t kn c)) }

/-- Firex reaches a task's backing and save block: the ranges that hold them are restored first (14 R399). -/
def restoreTask (s : State) (t : Task) (kn : Kernel) : State :=
  restoreSpan (restoreSpan s (partOf t.vd) t.die t.spillBase (spillBytes kn)) (partOf t.vd) t.die t.saveBase (saveBytes kn)

/-- What the device saves of an evicted task in die memory (03 R80, R82, R99): its dirty spill lines are written back and its lines leave the
cache, each warp's thread registers go to its register save frame, and its task-shared contents to its save block, after the first 4 KiB,
whose layout the spec does not give (log 66). -/
def saveTask (s : State) (core k : Nat) : State :=
  match (getTask s k).bind (fun t => (taskKernel s t).map (fun kn => (t, kn))), getPart s (partOf (keyVd k)) with
  | some (t, kn), some p =>
    let dirty := ((taskLines t kn (getCore s core)).filter (fun e => e.2)).map Prod.fst
    let s0 := restoreTask s t kn
    let s1 := dirty.foldl (fun s x => backLine s (partOf t.vd) t.die x) s0
    let s2 := (List.range t.warps.length).foldl (fun s i => match getWarp t i with
      | some w => backWords s p t.die (spillOff t kn i (spillSize kn)) 32768 w.regs
      | none => s) s1
    let words := (t.shared.map (fun e => e.1 / 4)).dedup
    let s3 := backWords s2 p t.die (t.saveBase + 4096) (roundUp kn.shmem 8192) (words.map (fun j => (j, w32 (rdShared t (4 * j) 4))))
    dropSpill s3 core t kn
  | _, _ => s

/-- The live-tag limit that LTL gives: 0 selects 8 (02 R41). -/
def ltlOf (k : Kernel) : Nat := if k.ltl = 0 then 8 else k.ltl

/-- A task at its first placement (02 R44, 11 R303, R310, R312). -/
def newTask (j : Job) (ix die : Nat) (helper : Option Nat) (seq : Nat) (room : Nat × Nat) : Task :=
  { handle := mkHandle j.num ix, vd := j.vd, die := die, st := .running, core := none, lastCore := 0,
    warps := (List.range j.kernel.warps).map (fun _ => newWarp j.kernel j.args), wslots := [], shared := [], lostShared := [],
    barriers := [], capthr := 0x00400080, hints := [], ltlimit := ltlOf j.kernel, adoptions := 0, waitClocks := 0, gaeRows := 0,
    helper := helper, adopted := [], acquired := false, evicting := false, ending := none, noCapture := [], spillBase := room.1, saveBase := room.2, placed := seq, runnableAt := seq }

/-- The die that holds a task of a job (13 R357). -/
def dieOfTask (j : Job) (ix : Nat) : Nat := nthD j.dies (ix * j.dies.length / j.ntask) 0

/-- Loads the prebuilt images of a kernel at its first placement on a core: one request for each that is not resident (12 R324). -/
def askPrebuilt (s : State) (core vd : Nat) (kn : Kernel) : State :=
  let c := getCore s core
  let already := c.slots.any (fun e => decide (e.2.vd = vd ∧ e.2.kdesc = kn.addr)) ||
    c.places.any (fun p => match p with
      | .prebuilt v d _ => decide (v = vd ∧ d = kn.addr)
      | _ => false)
  if already then s
  else setCore s core { c with places := c.places ++ kn.jigs.map (fun a => .prebuilt vd kn.addr a) }

/-! Constant images (02 R45, 03 R85). -/

/-- The nonzero bytes of 256 of memory, listed from an offset. -/
def constPiece (m : List Host.Cell) (pa off : Nat) : List Host.Cell :=
  (List.range 256).filterMap (fun i => if rdByte m (pa + i) = 0 then none else some (off + i, rdByte m (pa + i)))

/-- Reads an image at placement in pieces of 256 bytes, as `.die` loads of its task; none where a piece is held, fails or is lost. -/
def imagePieces (core vd die base : Nat) : List Nat → State → Option (List Host.Cell) × State
  | [], s => (some [], s)
  | j :: rest, s =>
    match resolve (.die core) vd die (base + 256 * j) needR serviceFuel s with
    | (.ok 0 d (some pa), s1) =>
      if d ≠ die ∨ poisonedRange s1 pa 256 = true then (none, s1)
      else match imagePieces core vd die base rest (touchL2 s1 pa 256 false) with
        | (some l, s2) => (some (constPiece s1.mem pa (256 * j) ++ l), s2)
        | r => r
    | (_, s1) => (none, s1)

/-- Whether a core has the constant image that a kernel needs. -/
def hasConst (s : State) (core vd : Nat) (kn : Kernel) : Bool :=
  decide (kn.constLen = 0)
    || (getCore s core).consts.any (fun x => decide (x.vd = vd ∧ x.addr = kn.constAddr ∧ x.len = kn.constLen))

/-- Enters an image in a core's constant store. -/
def addImage (s : State) (core vd : Nat) (kn : Kernel) (l : List Host.Cell) : State :=
  let img : ConstImg := { vd := vd, addr := kn.constAddr, len := kn.constLen, bytes := l, lost := [] }
  setCore s core { getCore s core with consts := (getCore s core).consts ++ [img] }

/-- Loads the image of a kernel whose task is placed on a core. An image that cannot be read now, whose read is held or fails, is read before
the task's first instruction issues, which raises the fault (02 R45). -/
def imageAtPlacement (s : State) (core vd die : Nat) (kn : Kernel) : State :=
  if hasConst s core vd kn then s
  else match imagePieces core vd die kn.constAddr.toNat (List.range (kn.constLen / 256)) s with
    | (some l, s1) => addImage s1 core vd kn l
    | (none, s1) => s1

/-- Whether a task of a kernel stands on a core. -/
def kernelOn (s : State) (core vd : Nat) (kn : Kernel) : Bool :=
  s.tasks.any (fun e => decide (e.2.core = some core ∧ e.2.vd = vd) && decide ((taskKernel s e.2).map (fun x => x.addr) = some kn.addr))

/-- Places an UNSTARTED task on a core (02 R44, R47); `helper` is the task beneath it for an adoption. Its spill backing and its save block are
reserved now (03 R81, 19 R475). -/
def placeNew (s : State) (j : Job) (ix core : Nat) (helper : Option Nat) : State :=
  let k := taskKey j.vd (mkHandle j.num ix)
  let die := dieOfTask j ix
  let room := (taskRoom s j.vd die j.kernel).getD (0, 0)
  let s1 := setTask { s with seq := s.seq + 1 } k (newTask j ix die helper s.seq room)
  let s2 := seat s1 k core true
  let s3 := match helper with
    | some h => match getTask s2 h with
      | some ht => setTask s2 h { ht with adopted := ht.adopted ++ [k] }
      | none => s2
    | none => s2
  let s4 := imageAtPlacement (fitL1 s3 core) core j.vd die j.kernel
  if kernelOn s core j.vd j.kernel then s4 else askPrebuilt s4 core j.vd j.kernel

/-- A warp that re-executes its instruction when it next runs (13 R371). -/
def reready (w : Warp) : Warp := { w with blocked := .ready }

/-- Unparks every warp of a task that holds a park record. -/
def unparkTask (s : State) (k : Nat) : State :=
  match getTask s k with
  | some t => (List.range t.warps.length).foldl (fun s i =>
      match (getTask s k).bind (fun t => getWarp t i) with
      | some w => if warpParks w then modWarp (unpark s k i) k i reready else s
      | none => s) s
  | none => s

/-- Resumes a parked task on a core: its blocked warps re-execute their instructions (02 R67, 13 R371). -/
def resumeTask (s : State) (k core : Nat) : State :=
  let s1 := unparkTask s k
  let s2 := match getTask s1 k with
    | some t => setTask s1 k { t with warps := t.warps.map (fun (w : Warp) => if w.blocked = Blocked.fence then w else reready w), placed := s1.seq }
    | none => s1
  let s3 := fitL1 (seat { s2 with seq := s2.seq + 1 } k core false) core
  match (getTask s3 k).bind (fun t => (taskKernel s3 t).map (fun kn => (t, kn))) with
  | some (t, kn) =>
    let s4 := imageAtPlacement (restoreTask s3 t kn) core t.vd t.die kn
    if kernelOn s2 core t.vd kn then s4 else askPrebuilt s4 core t.vd kn
  | none => s3

/-- Takes a resident task off its core to PARKED (02 R47, R99): a lattice warp is rebuilt, and a warp held on anything but a future, a lock
word, a barrier or a lattice fence re-executes its instruction. What the core holds for its nest stays. -/
def leaveCore (s : State) (k : Nat) : State :=
  let s1 := purgeTask s k
  match getTask s1 k with
  | none => s1
  | some t =>
    match t.core with
    | none => s1
    | some core =>
      let ws := t.warps.map (fun w => if warpWaits w || decide (w.blocked = .fence) then w else reready w)
      let live := ws.filter (fun w => !warpEnded w)
      let waiting := !live.isEmpty && live.all warpWaits
      let s2 := saveTask s1 core k
      let c := getCore s2 core
      let s3 := setCore s2 core { c with
        places := c.places.filter (fun p => match p with
          | .jig t _ _ _ _ _ | .block t _ _ => decide (t ≠ k)
          | _ => true)
        gaeq := c.gaeq.filter (fun e => match e.2.kind with
        | .run _ _ _ _ => true
        | _ => decide (e.2.task ≠ k)) }
      setTask { s3 with seq := s3.seq + 1 } k { t with
        core := none, wslots := [], warps := ws, evicting := false, ending := none, st := if waiting then .parkedWaiting else .parkedRunnable, runnableAt := s3.seq }

/-- Evicts a resident task. -/
def evictTask (s : State) (k : Nat) : State :=
  match (getTask s k).bind (fun t => t.core) with
  | some core => pruneCore (leaveCore s k) core
  | none => leaveCore s k

/-- Evicts a whole nest and discards its chain (02 R68): every task of it joins a resume list or waits parked, those above first. -/
def evictNest (s : State) (k : Nat) : State :=
  let root := nestRoot s k
  let ks := [4, 3, 2, 1, 0].flatMap (nestLevel s root)
  let cores := (ks.filterMap (fun k => (getTask s k).bind (fun t => t.core))).dedup
  if cores = [] then s
  else
  let s1 := ks.foldl leaveCore s
  let s2 := ks.foldl (fun s k => match getTask s k with
    | some t => setTask { s with seq := s.seq + 1 } k { t with helper := none, adopted := [], runnableAt := s.seq }
    | none => s) s1
  cores.foldl pruneCore s2

/-- Takes a task out of the nest that it stands in: the tasks above it stand on the helper beneath it. -/
def unlinkTask (s : State) (k : Nat) : State :=
  match getTask s k with
  | none => s
  | some t =>
    let s1 := match t.helper with
      | some h => match getTask s h with
        | some ht => setTask s h { ht with adopted := ht.adopted.erase k ++ t.adopted }
        | none => s
      | none => s
    let s2 := t.adopted.foldl (fun s a => match getTask s a with
      | some at' => setTask s a { at' with helper := t.helper }
      | none => s) s1
    match getTask s2 k with
    | some t2 => setTask s2 k { t2 with helper := none, adopted := [] }
    | none => s2

/-- Whether an engine operation in progress uses the `.shared` space of a task (09 R265, 10 R288). -/
def sharedInUse (s : State) (k : Nat) : Bool :=
  s.cores.any (fun c => c.2.copies.any (fun e => decide (e.2.task = k) && (match e.2.kind, e.2.comp with
      | .block _ _ dsp ssp _ _ _ _ _ _ _, cp => dsp || ssp || (match cp with | .shared _ => true | _ => false)
      | .elems _ _ ds ss _, cp => ds || ss || (match cp with | .shared _ => true | _ => false)))
    || c.2.gaeq.any (fun e => decide (e.2.task = k)))

/-- A parked helper takes its resources back and resumes, once they are free of the tasks that it has lent them to (02 R67). -/
def resumeHelper (s : State) (h core : Nat) : State :=
  match getTask s h with
  | some ht =>
    if ht.core.isSome then s
    else
      let s1 := resumeTask s h core
      if ht.adopted = [] ∨ coreOk s1 core = true then s1 else s
  | none => s

/-- Takes a DONE task off its core and out of the table; while an engine operation uses its `.shared` space the allocation stays. A
parked helper beneath it takes its resources back and resumes (02 R67). -/
def removeTask (s : State) (k : Nat) : State :=
  match getTask s k with
  | none => s
  | some t =>
    let s0 := match t.core, taskKernel s t with
      | some core, some kn => dropSpill s core t kn
      | _, _ => s
    let s1 := unlinkTask s0 k
    let s2 := if sharedInUse s1 k then
        setTask s1 k { t with st := .ended, warps := [], wslots := [], helper := none, adopted := [] }
      else { s1 with tasks := Store.del s1.tasks k }
    match t.core with
    | none => s2
    | some core =>
      pruneCore (match t.helper with
        | some h => resumeHelper s2 h core
        | none => s2) core

/-- Frees the allocation of an ended task that nothing uses any longer. -/
def sweepEnded (s : State) (k : Nat) : State :=
  match getTask s k with
  | some t =>
    if t.st = .ended ∧ sharedInUse s k = false then
      let s1 : State := { s with tasks := Store.del s.tasks k }
      match t.core with
      | some core => fitL1 s1 core
      | none => s1
    else s
  | none => s

end Sys2Proof.Machine
end

