-- ==== Sys2Proof/Machine/Tasks.lean ====
section
/-! DEFINITION. The ends of tasks and jobs, kills and their poisoning, gates, and adoption (02 R55 to R58, R63 to R70, 09 R254, 13 R357,
R365, 19 R475). -/

namespace Sys2Proof.Machine

/-- The address of a task's result future (02 R55). -/
def resultVa (j : Job) (ix : Nat) : DWord := j.base + w64 (16 * (ix + 1))

/-- The first task index of the `n`-th die of a job, and one past its last (13 R357). -/
def dieLo (j : Job) (n : Nat) : Nat := (n * j.ntask + j.dies.length - 1) / j.dies.length
/-- The place of a die among the dies of a job. -/
def dieRank (j : Job) (d : Nat) : Nat := (j.dies.findIdx? (fun x => decide (x = d))).getD 0

/-- The lowest index from `i` that is not DONE, looking at no more than one index beyond the listed ones. -/
def lowestLive (done : List (Nat × Bool)) : Nat → Nat → Nat
  | 0, i => i
  | n + 1, i => match Store.find done i with
    | some _ => lowestLive done n (i + 1)
    | none => i
def lowestFrom (j : Job) (i : Nat) : Nat := lowestLive j.done (j.done.length + 1) i

/-- Sets the owners of the job future and of a die's share future to their lowest live tasks (02 R55, 13 R357). -/
def setOwners (s : State) (j : Job) (d : Nat) : State :=
  let low := nthD j.dies 0 0
  let s1 := devOwner s j.vd low j.base (mkHandle j.num (lowestFrom j 0))
  if d = low then s1
  else
    let i := lowestFrom j (dieLo j (dieRank j d))
    if i < dieLo j (dieRank j d + 1) then devOwner s1 j.vd d j.base (mkHandle j.num i) else s1

/-- Result futures of a range of tasks that ended POISONED. -/
def poisonedCount (j : Job) (lo hi : Nat) : Nat :=
  (j.done.filter (fun e => decide (lo ≤ e.1 ∧ e.1 < hi) && e.2)).length

/-- Removes a job; its children keep no parent (02 R39). -/
def dropJob (s : State) (vd num : Nat) : State :=
  let up := (Store.find s.jobs (jobKey vd num)).bind (fun j => j.parent)
  { s with jobs := (Store.del s.jobs (jobKey vd num)).map (fun (k, j) =>
      (k, if j.vd = vd ∧ j.parent.map (fun p => handleJob (keyHandle p)) = some num then { j with parent := up } else j)) }

/-- Notes that a task is DONE: share futures and the job future are filled when due, and a finished job leaves the table (02 R55, 13 R357). -/
def noteDone (s : State) (j : Job) (ix : Nat) (bad : Bool) : State :=
  let d := dieOfTask j ix
  let n := dieRank j d
  let j1 := { j with done := Store.put j.done ix bad }
  let dieDone := decide (dieLo j (n + 1) ≤ lowestFrom j1 (dieLo j n))
  let j2 := if dieDone then { j1 with shares := Store.put j1.shares d (poisonedCount j1 (dieLo j n) (dieLo j (n + 1))) } else j1
  let low := nthD j.dies 0 0
  let s1 := if dieDone && decide (d ≠ low) then devFill (setJob s j2) j.vd d j.base (w64 (Store.get 0 j2.shares d)) 0 else setJob s j2
  if j.ntask ≤ lowestFrom j2 0 then
    dropJob (devFill s1 j.vd low j.base (w64 (poisonedCount j2 0 j.ntask)) 0) j.vd j.num
  else setOwners s1 j2 d

/-- The state of a future at a virtual address of a VD on a die. -/
def devState (s : State) (vd die : Nat) (va : DWord) : Nat × State :=
  match devLoc s vd die va with
  | (some l, s1) => (recState (rdLoc s1 l 0), s1)
  | (none, s1) => (0, s1)

/-- Whether a gate has a state that decides it, and its owner (02 R57). -/
def gateState (s : State) (j : Job) : Nat × DWord :=
  match j.gate with
  | some l => (recState (rdLoc s l 0), recOwner (rdLoc s l 0))
  | none => (2, 0)

/-- The children of a poisoned gate become DONE: their result futures are POISONED and the group future is FULL with their number. -/
def gatePoisoned (s : State) (j : Job) : State :=
  let d := nthD j.dies 0 0
  let s1 := upFrom (fun i s => devPoison s j.vd d (resultVa j i) cPoisoned) j.ntask 0 s
  dropJob (devFill s1 j.vd d j.base (w64 j.ntask) 0) j.vd j.num

/-- The group future takes the owner of its gate, where it has another; finding it there changes nothing (02 R57). -/
def lendOwner (s : State) (vd die : Nat) (va owner : DWord) : State :=
  match translate s .none vd die va.toNat needRW false with
  | (.ok 0 _ (some pa), _) => if recOwner (rdLoc s (.phys pa) 0) = owner then s else devOwner s vd die va owner
  | _ => devOwner s vd die va owner

/-- Acts on a job's gate: an open gate releases the children, a poisoned one ends them, an EMPTY one lends its owner to the group
future (02 R57). -/
def pollGate (s : State) (key : Nat) : State :=
  match Store.find s.jobs key with
  | none => s
  | some j =>
    if j.gateOpen then s
    else match gateState s j with
      | (2, _) => setOwners (setJob s { j with gateOpen := true }) { j with gateOpen := true } (nthD j.dies 0 0)
      | (3, _) => gatePoisoned s j
      | (_, o) => lendOwner s j.vd (nthD j.dies 0 0) j.base o

/-- Acts on every gate, as often as there are jobs: a poisoned gate may poison another. -/
def pollGatesN : Nat → State → State
  | 0, s => s
  | n + 1, s => pollGatesN n ((s.jobs.map Prod.fst).foldl pollGate s)
def pollGates (s : State) : State :=
  if s.jobs.all (fun e => e.2.gateOpen) then s else pollGatesN s.jobs.length s

/-- Whether the fill of a task's result future holds on the dirty log (14 R394). -/
def endHeld (s : State) (k : Nat) : Bool :=
  match getTask s k with
  | none => false
  | some t => match taskJob s t with
    | none => false
    | some j => match (resolve .none t.vd t.die (resultVa j (handleIx t.handle)).toNat needRW serviceFuel s).1 with
      | .onHold => true
      | _ => false

/-- Ends a task (09 R254): its warps stop, its park records leave their lists, its result future is filled, and it is DONE. -/
def endTask (s : State) (k : Nat) (value : DWord) (status : Nat) : State :=
  let s1 := unparkTask (purgeTask s k) k
  match getTask s1 k with
  | none => s1
  | some t =>
    match taskJob s1 t with
    | none => removeTask s1 k
    | some j =>
      let va := resultVa j (handleIx t.handle)
      let s2 := devFill s1 t.vd t.die va value status
      let (st, s3) := devState s2 t.vd t.die va
      let s4 := removeTask s3 k
      match getJob s4 t.vd j.num with
      | some j1 => pollGates (noteDone s4 j1 (handleIx t.handle) (decide (st = 3)))
      | none => s4

/-- The lattice warps of a task. -/
def taskLattice (s : State) (k : Nat) : List Nat :=
  match getTask s k with
  | some t => (List.range t.warps.length).filter (fun i => ((getWarp t i).bind (fun w => w.lat)).isSome)
  | none => []

/-- A warp of a task has left the lattice: a task that is being pre-empted is evicted once its last one has (13 R366, R371). -/
def afterLattice (s : State) (k : Nat) : State :=
  if (getTask s k).any (fun t => t.evicting) && (taskLattice s k).isEmpty then evictTask s k else s

/-- The numbers of the jobs that a kill takes with it: those spawned by any of their tasks, transitively (02 R58). -/
def killSet (s : State) (vd : Nat) : Nat → List Nat → List Nat
  | 0, l => l
  | n + 1, l =>
    killSet s vd n (s.jobs.foldl (fun l e =>
      let par := e.2.parent.map (fun p => handleJob (keyHandle p))
      if decide (e.2.vd = vd) && !elemOf e.2.num l && (match par with | some p => elemOf p l | none => false) then l ++ [e.2.num] else l) l)

/-- The warps whose fence has waited for operations that are now performed. -/
def fencesDue (s : State) : List (Nat × Nat) :=
  s.tasks.flatMap (fun e => e.2.warps.zipIdx.filterMap (fun w =>
    if w.1.blocked = .fence ∧ opsOut s e.1 w.2 = false then some (e.1, w.2) else none))

/-- A copy entry has become free or an operation has ended: warps that wait for either look again, and a purged warp's fence completes
(04 R117, 09 R264). -/
def wakeCopies (s : State) : State :=
  let s1 : State := { s with tasks := s.tasks.map (fun e => (e.1, { e.2 with warps := e.2.warps.map (fun w =>
      if w.blocked = .copies then reready w else w) })) }
  (fencesDue s1).foldl (fun s e => modWarp (flushTaskL1 s e.1) e.1 e.2 reready) s1

/-- Poisons the completion future of an aborted operation (19 R469, R471). -/
def poisonComp (s : State) (task : Nat) (c : Comp) (cause : Nat) : State :=
  match c with
  | .none => s
  | .die va => devPoison s (keyVd task) (taskDie s task) va cause
  | .shared off =>
    if (getTask s task).isSome ∧ recState (rdLoc s (.shared task off) 0) < 2 then
      poisonRec s (keyVd task) (taskDie s task) (.shared task off) false cause
    else s

/-- Aborts the engine operations whose task satisfies `f`, on every core (17 R435, 19 R469, R471). -/
def abortOps (s : State) (f : Nat → Bool) : State :=
  wakeCopies <| s.cores.foldl (fun s (n, c) =>
    let comps := (c.copies.filter (fun e => f e.2.task)).map (fun e => (e.2.task, e.2.comp))
      ++ (c.gaeq.filter (fun e => f e.2.task)).map (fun e => (e.2.task, e.2.comp))
    let c1 := getCore s n
    let s1 := setCore s n { c1 with
      copies := c1.copies.filter (fun e => !f e.2.task)
      gaeq := c1.gaeq.filter (fun e => !f e.2.task) }
    comps.foldl (fun s (t, cp) => poisonComp s t cp cJobKilled) s1) s

/-- Whether a handle names a task that a kill of jobs ends: one of theirs that is not DONE. -/
def killedTask (s : State) (vd : Nat) (ks : List Nat) (h : DWord) : Bool :=
  elemOf (handleJob h) ks && (match getJob s vd (handleJob h) with
    | some j => decide (handleIx h < j.ntask) && (Store.find j.done (handleIx h)).isNone
    | none => false)

/-- Whether a record of the registry is one that a kill poisons: its owner is a killed task, and it is not FULL, or is a held lock. -/
def killsRec (s : State) (vd : Nat) (ks : List Nat) (e : Nat × Loc × Bool) : Bool :=
  let w0 := rdLoc s e.2.1 0
  decide (e.1 = vd) && killedTask s vd ks (recOwner w0)
  && (if e.2.2 then decide (recState w0 = 1 ∨ recState w0 = 2) else decide (recState w0 ≤ 1))

/-- Kills a job and those that it spawned (02 R58): nests are evicted, tasks become DONE, operations are aborted, and the futures and
lock words that name a killed owner are poisoned with the cause. -/
def killJob (s : State) (vd num cause : Nat) : State :=
  let ks := killSet s vd s.jobs.length [num]
  let isKilled (k : Nat) : Bool := decide (keyVd k = vd) && elemOf (handleJob (keyHandle k)) ks
  let victims := (s.tasks.filter (fun e => isKilled e.1)).map Prod.fst
  let s1 := victims.foldl evictNest s
  let s2 := victims.foldl unparkTask s1
  let own := s2.futs.filter (killsRec s2 vd ks)
  let s3 := own.foldl (fun s e => poisonRec s vd (locDie s e.2.1) e.2.1 e.2.2 cause) s2
  let jobs := s3.jobs.filter (fun e => decide (e.2.vd = vd) && elemOf e.2.num ks)
  let s4 := jobs.foldl (fun s e =>
    let j := e.2
    let s1 := upFrom (fun i s => if (Store.find j.done i).isSome then s
      else devPoison s vd (dieOfTask j i) (resultVa j i) cause) j.ntask 0 s
    j.dies.foldl (fun s d => devPoison s vd d j.base cause) s1) s3
  let s5 := abortOps s4 isKilled
  let s6 := { s5 with
    tasks := s5.tasks.filter (fun e => !isKilled e.1)
    futs := s5.futs.filter (fun e => match e.2.1 with
      | .shared k _ => !isKilled k
      | .phys _ => true) }
  pollGates (jobs.foldl (fun s e => dropJob s vd e.2.num) s6)

/-- What the owner of a word is doing (02 R64). -/
inductive OwnerState where
  | unstarted (job ix : Nat)
  | runnable (k : Nat)
  | waits (k : Nat)
  | other
  deriving DecidableEq, Repr

/-- The state of an owner, for a core of a die (02 R64, 13 R365): a helper in a nest stands on no list and cannot be claimed. -/
def ownerState (s : State) (vd die : Nat) (h : DWord) : OwnerState :=
  match getJob s vd (handleJob h) with
  | none => .other
  | some j =>
    let ix := handleIx h
    if j.ntask ≤ ix ∨ (Store.find j.done ix).isSome ∨ dieOfTask j ix ≠ die then .other
    else match getTask s (taskKey vd h) with
      | none => if j.gateOpen then .unstarted j.num ix else .other
      | some t => match t.st with
        | .parkedRunnable => if t.adopted = [] then .runnable (taskKey vd h) else .other
        | .waiting | .parkedWaiting => .waits (taskKey vd h)
        | .running | .ended => .other

/-- The word on which a task's earliest-blocked warp waits, the address that the warp named, and whether it is a lock (02 R64). -/
def earliestWord (s : State) (k : Nat) : Option (Loc × DWord × Bool) :=
  match getTask s k with
  | none => none
  | some t =>
    match minBy (fun w => w.blockedAt) (t.warps.filter warpParks) with
    | some w => match w.blocked with
      | .future l _ va _ => some (l, va, false)
      | .lock l _ va => some (l, va, true)
      | _ => none
    | none => none

/-- The chain of R64 from a task, through at most `n` links. -/
def adoptChain (s : State) (vd die : Nat) : Nat → List Nat → Nat → Option OwnerState
  | 0, _, _ => none
  | n + 1, chain, k =>
    match earliestWord s k with
    | none => none
    | some (l, _, _) =>
      let o := recOwner (rdLoc s l 0)
      if o = 0 ∨ elemOf (taskKey vd o) chain then none
      else match ownerState s vd die o with
        | .unstarted j ix => some (.unstarted j ix)
        | .runnable c => some (.runnable c)
        | .waits c => adoptChain s vd die n (c :: chain) c
        | .other => none

/-- Whether an UNSTARTED candidate finds room for its spill backing and its save block (03 R81); a started one has them. -/
def roomFor (s : State) (vd die : Nat) (cand : OwnerState) : Bool :=
  match cand with
  | .unstarted job _ => match getJob s vd job with
    | some j => (taskRoom s vd die j.kernel).isSome
    | none => false
  | _ => true

/-- Puts a candidate above a waiting task on its core. -/
def seatAbove (s : State) (k core : Nat) (cand : OwnerState) : State :=
  match cand with
  | .unstarted job ix => match getJob s (keyVd k) job with
    | some j => placeNew s j ix core (some k)
    | none => s
  | .runnable c =>
    let s1 := match getTask s c with
      | some t => setTask s c { t with helper := some k }
      | none => s
    let s2 := match getTask s1 k with
      | some t => setTask s1 k { t with adopted := t.adopted ++ [c] }
      | none => s1
    resumeTask s2 c core
  | .waits _ | .other => s

/-- Adopts a candidate, or answers none where it does not fit (02 R65): the waiting task stays when both fit, else it is evicted. -/
def adopt (s : State) (k : Nat) (cand : OwnerState) : Option State :=
  match getTask s k with
  | none => none
  | some t => match t.core with
    | none => none
    | some core =>
      let count (s : State) : State := match getTask s k with
        | some t => setTask s k { t with adoptions := t.adoptions + 1 }
        | none => s
      let s1 := seatAbove s k core cand
      if roomFor s t.vd t.die cand = false then none
      else if coreOk s1 core then some (count s1)
      else
        let s2 := pruneCore (seatAbove (leaveCore s k) k core cand) core
        if coreOk s2 core then some (count s2) else none

/-- The event that asks the runtime for an adoption (02 R70, 17 R429). -/
def postAdopt (s : State) (k : Nat) (t : Task) (l : Loc) (va : DWord) (lock : Bool) : State :=
  let v := getVd s t.vd
  let lanes := maskOf (fun i => match getWarp t i with
    | some w => match w.blocked with
      | .future l2 _ _ _ | .lock l2 _ _ => decide (l2 = l)
      | _ => false
    | none => false)
  let shared := match l with
    | .shared _ _ => true
    | .phys _ => false
  let s1 := setVd s t.vd { v with adoptReqs := v.adoptReqs ++ [t.handle] }
  postVd s1 t.vd true
    { cause := 0x40, task := t.handle, addr := va, info := rdLoc s l 0, detail := boolNat lock + 2 * boolNat shared, lanes := lanes,
      core := t.core.getD 0, vd := k / 2 ^ 48, gen := v.gen }

/-- What a core does when a task has entered WAITING with a warp on a future or lock word (02 R64, R65, R70). -/
def considerAdoption (s : State) (k : Nat) : State :=
  match getTask s k with
  | none => s
  | some t =>
    match earliestWord s k with
    | none => s
    | some (l, va, lock) =>
      if hostMode s (partOf t.vd) 3 then postAdopt s k t l va lock
      else if nestDepth s k = 4 then s
      else match adoptChain s t.vd t.die 4 [k] k with
        | none => s
        | some cand => (adopt s k cand).getD s

/-- Recomputes a task's state after a warp blocked or ended; a task that enters WAITING is considered for adoption (02 R47, R64). -/
def settleTask (s : State) (k : Nat) : State :=
  match getTask s k with
  | none => s
  | some t =>
    if t.warps.all warpEnded then endTask s k 0 0
    else
      let s1 := refreshTask s k
      match getTask s1 k with
      | some t1 => if t1.st = .waiting ∧ t.st ≠ .waiting then considerAdoption s1 k else s1
      | none => s1

end Sys2Proof.Machine
end

