-- ==== Sys2Proof/Machine/Ops.lean ====
section
/-! DEFINITION. The shared operations of every instruction: the current warp, the checks of 18 R436, delivering a fault, trap entry and
return (11 R296 to R302, 17 R423 to R431), and running an instruction's body. -/

namespace Sys2Proof.Machine

/-- The warp that the step runs, with what its instructions read: its task, itself, its kernel, its core, and the lanes on which the
instruction acts. -/
structure Ctx where
  k : Nat
  i : Nat
  t : Task
  w : Warp
  kern : Kernel
  core : Nat
  g : Word
  deriving DecidableEq, Repr

/-- What the body of an instruction answers. -/
inductive Res where
  /-- The instruction completes and changes its warp alone; the PC moves to the next instruction. -/
  | warp (w : Warp)
  /-- The instruction completes, changes its warp alone and has set the PC. -/
  | jump (w : Warp)
  /-- The instruction completes; the state holds its warp with the PC not yet moved. -/
  | done (s : State)
  /-- The state is final: the instruction holds, blocks or has dealt with its warp itself. -/
  | state (s : State)
  /-- The instruction raises a cause; the state holds what stands. -/
  | fault (f : FaultInfo) (s : State)
  deriving DecidableEq, Repr

/-- The current warp, for an instruction with a guard; none where no resident warp is current. -/
def curCtx (s : State) (i : Instr) : Option Ctx :=
  match s.cur with
  | none => none
  | some cw =>
    match getTask s cw.task with
    | none => none
    | some t =>
      match getWarp t cw.warp, taskKernel s t, t.core with
      | some w, some kn, some core =>
        some { k := cw.task, i := cw.warp, t := t, w := w, kern := kn, core := core,
               g := match guardOf i with
                 | some g => guardMask w g
                 | none => w.active }
      | _, _, _ => none

/-- The lowest lane of a mask, or 0. -/
def lane0 (m : Word) : Nat := (lowLane m).getD 0

/-- Whether an instruction is warp-wide (02 R62). -/
def warpWide : Instr → Bool
  | .vote _ | .lxch _ | .match _ | .segred _ | .scan _ | .mma _ | .mmas _ | .ldm _ | .stm _ | .trn _ => true
  | _ => false

/-- Whether an instruction belongs to group 0xD (18 R444). -/
def groupD : Instr → Bool
  | .gaset _ | .garow _ | .garun _ | .gaq _ => true
  | _ => false

/-- Whether a control register may be written (11 R303). -/
def crWritable (sel : Nat) : Bool := elemOf sel [0x008, 0x022, 0x023]

/-- The PRIVILEGED check (18 R443). -/
def privFault (i : Instr) (c : Ctx) : Option FaultInfo :=
  let f (d : Nat) : FaultInfo := { cause := cPrivileged, lanes := c.w.active, detail := d }
  match i with
  | .eret _ => if c.w.handler then none else some (f 0x8000)
  | .srwRead r => if c.w.handler then none else some (f (r.opm.toNat % 2 ^ 12))
  | .srwWrite r =>
    let stage1 := !decide (selOf r = 0x023) || !(src32 c.w r.a (lane0 c.g)).getLsbD 2 || decide (c.g = 0)
    if c.w.handler && crWritable (selOf r) && stage1 then none else some (f (r.opm.toNat % 2 ^ 12))
  | _ => none

/-- The UNIT_ABSENT check (18 R444). -/
def unitFault (s : State) (i : Instr) (c : Ctx) : Option FaultInfo :=
  if groupD i && !s.fit.gae then some { cause := cUnitAbsent, lanes := c.w.active, detail := 0x0D } else none

/-- The register-number check: the lowest field that reaches REGS × 8 (18 R442). -/
def regFault (i : Instr) (c : Ctx) : Option FaultInfo :=
  match (operandUses i).find? (fun u => decide (8 * c.kern.regs < operandEnd u)) with
  | some u => some { cause := cOutOfRange, lanes := c.w.active, detail := u.pos * 2 ^ 8 + 1 }
  | none => none

/-- The convergence check (18 R445). -/
def convFault (i : Instr) (c : Ctx) : Option FaultInfo :=
  let f (d : Nat) : FaultInfo := { cause := cNotConverged, lanes := c.w.launch, detail := d }
  if warpWide i then
    if c.w.active ≠ c.w.launch then some (f 0) else if c.g ≠ c.w.active then some (f 1) else none
  else match i with
    | .bra b => if b.join = 0 ∧ c.g ≠ 0 ∧ c.g ≠ c.w.active then some (f 2) else none
    | .ret _ => if c.g ≠ 0 ∧ c.g ≠ c.w.active then some (f 3) else none
    | _ => none

/-- The operands that an instruction reads. -/
def srcUses (i : Instr) : List OpUse :=
  let isStm := match i with
    | .stm _ => true
    | _ => false
  (operandUses i).filter (fun u => match u.cls with
    | .dst _ | .uniDst _ | .no => false
    | .thr _ _ => decide (u.pos ≠ 0) || isStm
    | _ => true)

/-- Whether a lane's value of an operand is marked lost (17 R433). -/
def lostUse (w : Warp) (l : Nat) (u : OpUse) : Bool :=
  let lost (k : Nat) : Bool := Store.get false w.lostRegs k
  match u.o with
  | .v r => (List.range (clsCount u.cls)).any (fun j => lost (32 * (r.toNat + j) + l))
  | .k n => (List.range (clsCount u.cls)).any (fun j => lost (lostK (n.toNat + j)))
  | .p n => lost (lostP n.toNat l)
  | .vz | .bad _ => false

/-- DATA_ERROR for the lanes that read a register or a predicate whose value is marked lost, the guard's among them (17 R433). -/
def lostFault (i : Instr) (c : Ctx) : Option FaultInfo :=
  if c.w.lostRegs = [] then none
  else
    let acts := if warpWide i then 0xFFFFFFFF#32 else c.g
    let guarded (l : Nat) : Bool := match guardOf i with
      | some g => inMask c.w.active l && Store.get false c.w.lostRegs (lostP g.p.toNat l)
      | none => false
    let m := maskOf (fun l => guarded l || inMask acts l && (srcUses i).any (lostUse c.w l))
    if m = 0 then none else some { cause := cDataError, lanes := m }

/-- The checks of stages 2 to 4, in order, and the lost registers (18 R436, R437). -/
def preCheck (s : State) (i : Instr) (c : Ctx) : Option FaultInfo :=
  match firstViol (violations c.kern.encv i) with
  | some (r, fld) => some { cause := cIllegal, lanes := c.w.active, detail := fld * 2 ^ 8 + r, addr := c.w.pc }
  | none => (privFault i c).or ((unitFault s i c).or ((regFault i c).or ((convFault i c).or (lostFault i c))))

/-- Whether a warp re-executes the iteration of a fault drain (20 R482). -/
def inRedo (w : Warp) : Bool :=
  match w.rebuilt with
  | some (_, _, lo, hi) => decide (lo ≤ w.pc ∧ w.pc < hi)
  | none => false

/-- The record of a fault of a warp (17 R423, R431). -/
def mkRec (s : State) (k i : Nat) (t : Task) (w : Warp) (f : FaultInfo) : Rec :=
  let hs := helpersOf s k
  let adpt := !hs.isEmpty
  let r : Rec :=
    { cause := f.cause, unit := f.unit, prec := true, lat := inRedo w, adpt := adpt, detail := f.detail, lanes := f.lanes,
      pc := w.pc, addr := f.addr, vd := t.vd, task := t.handle, gen := (getVd s t.vd).gen, core := t.core.getD t.lastCore,
      warp := i, depth := hs.length, info := f.info }
  let r1 := if adpt then { r with owner := t.handle, helper := keyHandle (hs.headD 0) } else r
  match w.rebuilt with
  | some (slot, tag, _, _) => if inRedo w then { r1 with islot := slot, bound := tagVec tag } else r1
  | none => r1

/-- The first spill address of the trap frame: S − 2,048 (11 R299). -/
def frameBase (kn : Kernel) : Nat := spillSize kn - 2048

/-- Writes and reads a `.spill` word of a lane (03 R81). -/
def putSpill (w : Warp) (a l : Nat) (x : Word) : Warp :=
  { w with spill := Store.set 0 w.spill (8 * a + l) x, lostSpill := Store.set false w.lostSpill (8 * a + l) false }
def getSpill (w : Warp) (a l : Nat) : Word := Store.get 0 w.spill (8 * a + l)

/-- Writes a word of every lane, and a lane's own word, at a spill address. -/
def putFrame (w : Warp) (a : Nat) (f : Nat → Word) : Warp := laneList.foldl (fun w l => putSpill w a l (f l)) w

/-- The same for a word whose source may be marked lost: the frame's word is lost with it (17 R421; log 69). -/
def putMarked (w : Warp) (a : Nat) (lost : Nat → Bool) (f : Nat → Word) : Warp :=
  laneList.foldl (fun w l =>
    let v := putSpill w a l (f l)
    { v with lostSpill := Store.set false v.lostSpill (8 * a + l) (lost l) }) w

/-- The predicates of a lane in bits `[6:0]`. -/
def predBits (w : Warp) (l : Nat) : Word :=
  w32 ((List.range 7).foldl (fun n p => n + boolNat (inMask (predMask w p) l) * 2 ^ p) 0)

/-- The trap frame (11 R299). -/
def writeFrame (kn : Kernel) (r : Rec) (resume : DWord) (w : Warp) : Warp :=
  let b := frameBase kn
  let w1 := (List.range 8).foldl (fun v j =>
    let x := nthD (recWords r) j 0
    putFrame (putFrame v (b + 8 * j) (fun _ => lowWord x)) (b + 8 * j + 4) (fun _ => highWord x)) w
  let w2 := putFrame (putFrame w1 (b + 0x040) (fun _ => lowWord resume)) (b + 0x044) (fun _ => highWord resume)
  let w3 := putFrame (putFrame w2 (b + 0x048) (fun _ => w.active)) (b + 0x04C) (fun _ => w.launch)
  let lost (k : Nat) : Bool := Store.get false w.lostRegs k
  let w4 := putFrame (putMarked w3 (b + 0x050) (fun l => (List.range 7).any (fun p => lost (lostP p l))) (predBits w)) (b + 0x054)
    (fun _ => w.fpmode)
  let w5 := putFrame w4 (b + 0x058) (fun _ => w32 (w.kbc.toNat + w.stack.length * 2 ^ 8))
  let w6 := (List.range 8).foldl (fun v j => putMarked v (b + 0x060 + 4 * j) (fun l => lost (32 * j + l)) (getV w j)) w5
  (List.range 4).foldl (fun v j => putMarked v (b + 0x080 + 4 * j) (fun _ => lost (lostK (60 + j))) (fun _ => getK w (60 + j))) w6

/-- The count of issued instructions once the warp's instruction has raised a fault: the instruction counts, once (11 R312). -/
def issuedOnce (w : Warp) : DWord := if w.raised.isSome then w.issued else w.issued + 1

/-- Taking a trap (11 R298): the frame is written, the launch mask becomes active, and the PC goes to the handler. -/
def enterTrap (kn : Kernel) (r : Rec) (entry : DWord) (w : Warp) : Warp :=
  let resume := if r.cause = cSoftTrap then w.pc + 8 else w.pc
  { writeFrame kn r resume w with
    active := w.launch, pc := entry, handler := true, trapCause := BitVec.ofNat 8 r.cause, blocked := .ready, acq := [],
    arrived := none, rebuilt := none, raised := none, issued := issuedOnce w }

/-- The frame words that `ERET` reloads (11 R299): lane `l` reads each from its own word, and the warp those of lane `a`. -/
def reloaded (kn : Kernel) (a l : Nat) : List Nat :=
  let b := frameBase kn
  (([0x040, 0x044, 0x048, 0x054, 0x080, 0x084, 0x088, 0x08C].map (fun o => 8 * (b + o) + a)))
    ++ (0x050 :: (List.range 8).map (fun j => 0x060 + 4 * j)).map (fun o => 8 * (b + o) + l)

/-- Returning from a trap (11 R301): the restored items are reloaded from the frame, the warp-level ones from the words of lane `a`, the
lowest that executes the `ERET` (log 69); and a zero mask unwinds the stack. -/
def leaveTrap (kn : Kernel) (a : Nat) (w : Warp) : Warp :=
  let b := frameBase kn
  let w1 := (List.range 8).foldl (fun v j => laneList.foldl (fun v l => setV v j l (getSpill w (b + 0x060 + 4 * j) l)) v) w
  let w2 := (List.range 4).foldl (fun v j => setK v (60 + j) (getSpill w (b + 0x080 + 4 * j) a)) w1
  let w3 := (List.range 7).foldl (fun v p => laneList.foldl (fun v l => setP v p l ((getSpill w (b + 0x050) l).getLsbD p)) v) w2
  let pc := pairOf (getSpill w (b + 0x040) a) (getSpill w (b + 0x044) a)
  let w4 := { w3 with
    pc := pc, active := getSpill w (b + 0x048) a &&& w.launch, fpmode := getSpill w (b + 0x054) a, handler := false, trapCause := 0 }
  if w4.active = 0 then unwindAll w4 else w4

/-- The address of the vector table, and whether the task's handler is enabled (11 R297, 02 R41). -/
def vecBase (kn : Kernel) : DWord := w64 (bitsOf kn.trapvec.toNat 55 8 * 256)
def trapEnabled (kn : Kernel) : Bool := kn.trapvec.getLsbD 0

/-- Blocks a warp at its instruction. -/
def blockWarp (s : State) (k i : Nat) (b : Blocked) : State :=
  modWarp { s with seq := s.seq + 1 } k i (fun w => { w with blocked := b, blockedAt := s.seq })

/-- A record that no handler takes: it goes to the VD's event queue and the job is killed with the cause (17 R420, R426). -/
def toQueue (s : State) (t : Task) (r : Rec) : State :=
  killJob (postVd s t.vd false r) t.vd (handleJob t.handle) r.cause

/-- What reading the vector entry of a cause gives: the entry, or the tags on which the read is held. -/
inductive Vector where
  | entry (x : DWord)
  | held (tags : List Nat)
  deriving DecidableEq, Repr

/-- Reads the vector entry of a cause as a `.die` load of the task (11 R297). -/
def readVector (s : State) (core : Nat) (t : Task) (kn : Kernel) (f : FaultInfo) : Vector × State :=
  let va := (vecBase kn).toNat + 8 * f.cause
  match resolve (.die core) t.vd t.die va needR serviceFuel s with
  | (.ok 0 d (some pa), s1) =>
    if d = t.die ∧ poisoned s1 pa = false then
      let (x, s2) := loadDie s1 core pa 8 0
      (.entry (w64 x), s2)
    else (.entry 0, s1)
  | (x, s1) =>
    if serviceFor s1 t.vd t.die x = .request then
      match pageRequest s1 (bayOfCore core) t.vd t.die va needR x f.lanes 0 t.handle with
      | (some tag, s2) => (.held [tag], s2)
      | (none, s2) => (.held [], s2)
    else (.entry 0, s1)

/-- The lines of the trap frame that delivery writes or `ERET` reads through the spill cache (03 R82, 11 R299). -/
def useFrame (s : State) (core k i : Nat) (kn : Kernel) (write : Bool) : State :=
  (List.range 10).foldl (fun s j => useSpill s core k i (frameBase kn + 16 * j) write) s

/-- A DATA_ERROR whose syndrome and unit the manual leaves open carries a free value as INFO (17 R423; log 6). -/
def syndrome (s : State) (f : FaultInfo) : FaultInfo × State :=
  if f.cause = cDataError ∧ f.info = 0 then
    let (x, s1) := freshFree s
    ({ f with info := x }, s1)
  else (f, s)

/-- Delivers a fault of a warp (17 R426, 11 R297): to the task's handler, else to the VD's event queue. This is the one way in which an
instruction takes an exception. -/
def takeFault (s0 : State) (k i : Nat) (f0 : FaultInfo) : State :=
  let (f, s) := syndrome s0 f0
  match getTask s k with
  | none => s
  | some t =>
    match getWarp t i, taskKernel s t with
    | some w, some kn =>
      let r := mkRec s k i t w f
      if trapEnabled kn && !w.handler && !f.noHandler then
        match t.core with
        | none => toQueue s t r
        | some core =>
          match readVector s core t kn f with
          | (.entry x, s1) =>
            if x = 0 then toQueue s1 t r else modWarp (useFrame s1 core k i kn true) k i (enterTrap kn r x)
          | (.held tags, s1) =>
            modWarp (blockWarp s1 k i (.page tags { f with noHandler := true })) k i
              (fun w => { w with raised := some f, issued := issuedOnce w })
      else toQueue s t r
    | _, _ => s

/-- Delivers a fault that a warp meets before its instruction issues, at its fetch (18 R436). -/
def takeFetchFault (s : State) (k i : Nat) (f : FaultInfo) : State :=
  takeFault (modWarp s k i (fun w => { w with raised := some f })) k i f

/-- A consumed lasting error is reported to Firex once for each sector, for the partitions of a list (19 R479). -/
def reportSector (s : State) (sector : Nat) (ps : List Nat) (r : Rec) : State :=
  if Store.get false s.firex.reported sector then s
  else
    let s1 := logFirex s ps { r with last := true }
    { s1 with firex := { s1.firex with reported := Store.set false s1.firex.reported sector true } }

/-- A consumed lasting error that a VD's access met. -/
def reportOnce (s : State) (sector : Nat) (r : Rec) : State := reportSector s sector [partOf r.vd] r

/-- A warp whose instruction has completed and set the PC: it counts as issued (11 R312). -/
def retireJump (w : Warp) : Warp := { w with issued := w.issued + 1 }

/-- Runs the body of an instruction of the current warp after its checks, and applies what it answers (18 R436). -/
def warpInstr (i : Instr) (s : State) (body : Ctx → Res) : Host.Outcome State Fault Refusal :=
  match curCtx s i with
  | none => .fault .noWarp
  | some c =>
    match preCheck s i c with
    | some f => .next (takeFault s c.k c.i f)
    | none =>
      match body c with
      | .warp w => .next (setWarp s c.k c.i (retire w))
      | .jump w => .next (setWarp s c.k c.i (retireJump w))
      | .done s1 => .next (modWarp s1 c.k c.i retire)
      | .state s1 => .next s1
      | .fault f s1 => .next (takeFault s1 c.k c.i f)

end Sys2Proof.Machine
end

