-- ==== Sys2Proof/Machine/Operands.lean ====
section
/-! DEFINITION. Operand forms by type: sources as double words or integers, and results to registers, pairs and predicates (06 R155 to
R159, 07 R180 to R182). -/

namespace Sys2Proof.Machine

/-- A source of one register zero-extended, or a pair (R155, R180). -/
def srcN (w : Warp) (n : Nat) (o : Opnd) (l : Nat) : DWord :=
  if n = 2 then src64 w o l else (src32 w o l).zeroExtend 64

/-- A result of one register, or of a pair. -/
def dstN (w : Warp) (n : Nat) (o : Opnd) (l : Nat) (x : DWord) : Warp :=
  if n = 2 then dst64 w o l x else dst32 w o l (lowWord x)

/-- A result in every lane on which the instruction acts; all values are formed from the warp as it was (07 R180). -/
def writeLanes (c : Ctx) (n : Nat) (d : Opnd) (f : Nat → DWord) : Warp :=
  eachLane c.g (fun w l => dstN w n d l (f l)) c.w

/-- The value of a source read as an integer of a type (07 R181). -/
def intOf (ty : Ty) (x : DWord) : Int :=
  match ty with
  | .dflt | .s32 => (lowWord x).toInt
  | .z32 => (lowWord x).toNat
  | .s64 => x.toInt
  | .z64 => x.toNat
  | .s16 => (x.extractLsb' 0 16).toInt
  | .z16 => (x.extractLsb' 0 16).toNat
  | .s8 => (x.extractLsb' 0 8).toInt
  | .z8 => (x.extractLsb' 0 8).toNat
  | _ => x.toNat

/-- Whether an integer type is signed; the default is `.s32`. -/
def tySigned : Ty → Bool
  | .dflt | .s32 | .s64 | .s16 | .s8 => true
  | _ => false

/-- Bits of a type. -/
def tyBits : Ty → Nat
  | .s64 | .z64 | .f64 => 64
  | .s16 | .z16 | .f16 | .bf16 => 16
  | .s8 | .z8 => 8
  | .b128 => 128
  | _ => 32

/-- The least and greatest value of an integer type (05 R123). -/
def tyMin (ty : Ty) : Int := if tySigned ty then -(2 ^ (tyBits ty - 1) : Int) else 0
def tyMax (ty : Ty) : Int := if tySigned ty then 2 ^ (tyBits ty - 1) - 1 else 2 ^ tyBits ty - 1

/-- An exact integer saturated or wrapped to a type (05 R124). -/
def narrowInt (ty : Ty) (sat : Bool) (x : Int) : Int :=
  if sat then satInt x (tyMin ty) (tyMax ty) else x

/-- The result of an integer instruction: saturated or wrapped to the width of its type (07 R184). -/
def intRes (ty : Ty) (sat : Bool) (x : Int) : DWord :=
  if tyRegs ty = 2 then wrapN 64 (narrowInt ty sat x) else (wrapN 32 (narrowInt ty sat x)).zeroExtend 64

/-- An immediate of an I-form word as operand b (06 R159). -/
def immSrc (f : IForm) : DWord := f.imm.zeroExtend 64

/-- An instruction of one source: `n` registers read and `m` written. -/
def alu1 (c : Ctx) (d a : Opnd) (m n : Nat) (f : DWord → DWord) : Warp :=
  writeLanes c m d (fun l => f (srcN c.w n a l))

/-- An instruction of two sources of `n` registers. -/
def alu2 (c : Ctx) (d a b : Opnd) (m n : Nat) (f : DWord → DWord → DWord) : Warp :=
  writeLanes c m d (fun l => f (srcN c.w n a l) (srcN c.w n b l))

/-- An instruction of three sources: a and b of `n` registers and c of `p`. -/
def alu3 (c : Ctx) (d a b e : Opnd) (m n p : Nat) (f : DWord → DWord → DWord → DWord) : Warp :=
  writeLanes c m d (fun l => f (srcN c.w n a l) (srcN c.w n b l) (srcN c.w p e l))

/-- An I-form instruction: thread registers d and a, and the immediate. -/
def aluI (c : Ctx) (f : IForm) (g : DWord → DWord → DWord) : Warp :=
  writeLanes c 1 (.v f.d) (fun l => g (srcN c.w 1 (.v f.a) l) (immSrc f))

end Sys2Proof.Machine
end

