-- ==== Sys2Proof/Machine/Flags.lean ====
section
/-! DEFINITION. Predicate results: comparison conditions, their combination with operand c, and carries (07 R185, R192). The machine has
no status flags: its flags are the predicates `p0` to `p6`. -/

namespace Sys2Proof.Machine

/-- The condition codes of SETP on an ordering of the operands (07 R192). -/
def condHolds (code : Nat) (lt eq : Bool) : Bool :=
  match code with
  | 0 => eq
  | 1 => !eq
  | 2 => lt
  | 3 => lt || eq
  | 4 => !lt && !eq
  | _ => !lt

/-- Combines a comparison with operand c: SUB`[3]` 0 and, 1 or (07 R192). -/
def combine (sub : BitVec 4) (t : Bool) (c : DWord) : Bool :=
  let p := decide (lowWord c ≠ 0)
  if sub.getLsbD 3 then t || p else t && p

/-- A Boolean as a result word. -/
def boolRes (b : Bool) : DWord := if b then 1 else 0

/-- The carry-in of ADDC and SUBB (07 R185). -/
def carryIn (c : DWord) : Nat := if lowWord c = 0 then 0 else 1

/-- Sum and carry-out of ADDC, difference and borrow-out of SUBB (07 R185). -/
def addCarry (a b c : DWord) : Word × Bool :=
  let x := (lowWord a).toNat + (lowWord b).toNat + carryIn c
  (w32 x, decide (2 ^ 32 ≤ x))
def subBorrow (a b c : DWord) : Word × Bool :=
  (lowWord a - lowWord b - w32 (carryIn c), decide ((lowWord a).toNat < (lowWord b).toNat + carryIn c))

/-- Writes a carry to operand c where it names one of `p0` to `p6`; any other kind of c discards it (07 R185). -/
def putCarry (w : Warp) (o : Opnd) (l : Nat) (b : Bool) : Warp :=
  match o with
  | .p n => setP w n.toNat l b
  | _ => w

/-- Writes result and carry of each lane on which the instruction acts. -/
def carryOp (c : Ctx) (f : RArith) (op : DWord → DWord → DWord → Word × Bool) : Warp :=
  eachLane c.g (fun w l =>
    let r := op (srcN c.w 1 f.a l) (srcN c.w 1 f.b l) (srcN c.w 1 f.c l)
    putCarry (dst32 w f.d l r.1) f.c l r.2) c.w

end Sys2Proof.Machine
end

