-- ==== Sys2Proof/Machine/Int.lean ====
section
/-! DEFINITION. Integer arithmetic, logic, bit operations, compare, select and move: groups 0x0 to 0x2 (07 R183 to R198). Each `lane`
function gives the result of one lane from its operands as double words; the lattice computes with the same functions. -/

namespace Sys2Proof.Machine

/-- The results of R183's table before wrap or saturation. -/
def laneAdd (f : RArith) (a b : DWord) : DWord := intRes f.ty f.sat (intOf f.ty a + intOf f.ty b)
def laneSub (f : RArith) (a b : DWord) : DWord := intRes f.ty f.sat (intOf f.ty a - intOf f.ty b)
def laneMul (f : RArith) (a b : DWord) : DWord := intRes f.ty false (intOf f.ty a * intOf f.ty b)
def laneMulh (f : RArith) (a b : DWord) : DWord := intRes f.ty false (Int.fdiv (intOf f.ty a * intOf f.ty b) (2 ^ 32))
def laneMad (f : RArith) (a b c : DWord) : DWord := intRes f.ty f.sat (intOf f.ty a * intOf f.ty b + intOf f.ty c)
/-- The type of MADW's 64-bit addend: of the same signedness (07 R183). -/
def wideTy (ty : Ty) : Ty := if tySigned ty then .s64 else .z64
def laneMadw (f : RArith) (a b c : DWord) : DWord := wrapN 64 (intOf f.ty a * intOf f.ty b + intOf (wideTy f.ty) c)
def laneMin (f : RArith) (a b : DWord) : DWord := intRes f.ty false (if intOf f.ty a ≤ intOf f.ty b then intOf f.ty a else intOf f.ty b)
def laneMax (f : RArith) (a b : DWord) : DWord := intRes f.ty false (if intOf f.ty a ≤ intOf f.ty b then intOf f.ty b else intOf f.ty a)
def laneAbs (f : RArith) (a : DWord) : DWord := intRes f.ty f.sat (intOf f.ty a).natAbs
def laneNeg (f : RArith) (a : DWord) : DWord := intRes f.ty f.sat (-(intOf f.ty a))
def laneSad (f : RArith) (a b c : DWord) : DWord := intRes f.ty false ((intOf f.ty a - intOf f.ty b).natAbs + intOf f.ty c)

/-- Quotient and remainder of R186, exact. -/
def divQuot (ty : Ty) (sat : Bool) (a b : Int) : Int :=
  if b = 0 then 2 ^ tyBits ty - 1
  else if tySigned ty ∧ a = tyMin ty ∧ b = -1 then (if sat then tyMax ty else tyMin ty)
  else Int.tdiv a b
def divRem (ty : Ty) (a b : Int) : Int :=
  if b = 0 then a
  else if tySigned ty ∧ a = tyMin ty ∧ b = -1 then 0
  else a - Int.tdiv a b * b
def laneDiv (f : RArith) (a b : DWord) : DWord := intRes f.ty false (divQuot f.ty f.sat (intOf f.ty a) (intOf f.ty b))
def laneRem (f : RArith) (a b : DWord) : DWord := intRes f.ty false (divRem f.ty (intOf f.ty a) (intOf f.ty b))

/-- The logic operations of R187. -/
def laneAnd (a b : DWord) : DWord := a &&& b
def laneOr (a b : DWord) : DWord := a ||| b
def laneXor (a b : DWord) : DWord := a ^^^ b
def laneNot (a : DWord) : DWord := (~~~(lowWord a)).zeroExtend 64
def laneAndn (a b : DWord) : DWord := a &&& ~~~b

/-- BLUT: bit i of the result is the table's bit at the index that the three operand bits form (07 R189). -/
def lutBit (lut : Nat) (a b c : Bool) : Bool := lut.testBit (boolNat a + 2 * boolNat b + 4 * boolNat c)
def laneBlut (lut : Nat) (a b c : DWord) : DWord :=
  (maskOf (fun i => lutBit lut (a.getLsbD i) (b.getLsbD i) (c.getLsbD i))).zeroExtend 64

/-- The shifts of R188; the count is the low word of b. -/
def laneShl (a b : DWord) : DWord :=
  let n := (lowWord b).toNat
  if 32 ≤ n then 0 else w64 ((lowWord a).toNat * 2 ^ n % 2 ^ 32)
def laneShr (a b : DWord) : DWord :=
  let n := (lowWord b).toNat
  if 32 ≤ n then 0 else w64 ((lowWord a).toNat / 2 ^ n)
def laneSra (a b : DWord) : DWord :=
  let n := (lowWord b).toNat
  if 32 ≤ n then (if (lowWord a).getLsbD 31 then 0xFFFFFFFF else 0)
  else (wrapN 32 (Int.fdiv (lowWord a).toInt (2 ^ n))).zeroExtend 64
def laneRot (a b : DWord) : DWord :=
  let m := (lowWord b).toNat % 32
  w64 ((lowWord a).toNat * 2 ^ m % 2 ^ 32) ||| w64 ((lowWord a).toNat / 2 ^ (32 - m))
def laneFshl (f : RArith) (a b c : DWord) : DWord :=
  let m := Nat.min (lowWord b).toNat 32
  let x := (lowWord a).toNat * 2 ^ 32 + (lowWord c).toNat
  if f.sub = 0 then w64 (x * 2 ^ m % 2 ^ 64 / 2 ^ 32) else w64 (x / 2 ^ m % 2 ^ 32)

/-- A field of `n` bits extended from its top bit (07 R190). -/
def signField (x n : Nat) : Int := if n = 0 then 0 else if x.testBit (n - 1) then (x : Int) - 2 ^ n else x
def laneBfx (f : RArith) (a b : DWord) : DWord :=
  let p := Nat.min (bitsOf (lowWord b).toNat 7 0) 32
  let n := Nat.min (bitsOf (lowWord b).toNat 15 8) 32
  let x : DWord := if f.ty = .s32 then (lowWord a).signExtend 64 else (lowWord a).zeroExtend 64
  let v := x.toNat / 2 ^ p % 2 ^ n
  if n = 0 then 0
  else if f.ty = .s32 then (wrapN 32 (signField v n)).zeroExtend 64 else w64 v
def laneBfi (a b c : DWord) : DWord :=
  let p := Nat.min (bitsOf (lowWord c).toNat 7 0) 32
  let n := Nat.min (bitsOf (lowWord c).toNat 15 8) (32 - p)
  let mask := w32 ((2 ^ n - 1) * 2 ^ p)
  ((lowWord b &&& ~~~mask) ||| (w32 ((lowWord a).toNat * 2 ^ p) &&& mask)).zeroExtend 64
def lanePopc (a : DWord) : DWord := w64 (popCount (lowWord a))
def laneClz (a : DWord) : DWord := w64 (leadingZeros (lowWord a))
def laneCtz (a : DWord) : DWord := w64 (trailingZeros (lowWord a))
def laneBrev (a : DWord) : DWord := (reverseBits (lowWord a)).zeroExtend 64

/-- BPICK: byte i of the result is the byte of `b:a` that selector i names (07 R191). -/
def laneBpick (sel : Nat) (a b : DWord) : DWord :=
  let src := (lowWord b).toNat * 2 ^ 32 + (lowWord a).toNat
  w64 ((List.range 4).foldl (fun r i => r + src / 2 ^ (8 * (sel / 8 ^ i % 8)) % 256 * 2 ^ (8 * i)) 0)

/-- Compare, select and predicate logic (07 R192, R193). -/
def laneSetp (f : RArith) (a b c : DWord) : DWord :=
  boolRes (combine f.sub (condHolds (f.sub.toNat % 8) (decide (intOf f.ty a < intOf f.ty b)) (decide (intOf f.ty a = intOf f.ty b))) c)
def laneSel (a b c : DWord) : DWord := if lowWord c ≠ 0 then a else b
def lanePlop (lut : Nat) (a b c : DWord) : DWord :=
  boolRes (lutBit lut (decide (lowWord a ≠ 0)) (decide (lowWord b ≠ 0)) (decide (lowWord c ≠ 0)))

/-- CVTI: read under TYPE, saturated or wrapped to the destination type, and extended to 32 or 64 bits (07 R195). -/
def extendTo (ty : Ty) (x : Int) : Int :=
  let m := x % 2 ^ tyBits ty
  if tySigned ty ∧ (2 : Int) ^ (tyBits ty - 1) ≤ m then m - 2 ^ tyBits ty else m
def laneCvti (f : RArith) (a : DWord) : DWord :=
  let d := subTy f.sub
  let y := extendTo d (narrowInt d f.sat (intOf f.ty a))
  if tyRegs d = 2 then wrapN 64 y else (wrapN 32 y).zeroExtend 64

/-- LEA (07 R196). -/
def laneLea (f : RArith) (a b : DWord) : DWord :=
  a + wrapN 64 (intOf (if f.ty = .s32 then .s32 else .z32) b * 2 ^ f.sub.toNat)

/-- The value that a word of a lane's `MOVK` leaves: the lowest active lane's (07 R194). -/
def movkFrom (c : Ctx) (d : Opnd) (x : Word) : Warp := if c.g = 0 then c.w else dst32 c.w d 0 x

/-- The special registers of R197. -/
def specialReg (s : State) (c : Ctx) (sel l : Nat) : Word :=
  match sel with
  | 0x000 => w32 l
  | 0x001 => w32 c.i
  | 0x002 => w32 c.kern.warps
  | 0x003 => w32 (32 * c.i + l)
  | 0x004 => w32 (handleIx c.t.handle)
  | 0x005 => w32 ((taskJob s c.t).map (fun j => j.ntask) |>.getD 0)
  | 0x006 => w32 (handleJob c.t.handle)
  | 0x007 => w32 c.core
  | 0x008 => w32 (c.i % 8)
  | 0x009 => c.w.active
  | 0x00A => c.w.launch
  | 0x00B => w32 (2 ^ l - 1)
  | 0x00C => w32 c.w.stack.length
  | _ => w32 (c.t.vd % 16)

/-- The package region of a core's voltage and frequency: 4 × die + q (01 R29). -/
def regionOf (core : Nat) : Nat := core / 12

/-- The counters of R198. -/
def clockValue (s : State) (core : Nat) (sys : Bool) : DWord :=
  if sys then w64 s.timeNs else w64 (Store.get 0 s.clocks (regionOf core))

/-- A front-end word of default modifiers, for the I forms that run at their default type (07 R182). -/
def dfltMods : RArith :=
  { g := default, d := .vz, a := .vz, b := .vz, c := .vz, ty := .dflt, rm := .rn, sat := false, ftz := false, sub := 0 }

/-! The meanings. -/

def execAdd (f : RArith) (s : State) : Host.Outcome State Fault Refusal :=
  warpInstr (.add f) s (fun c => .warp (alu2 c f.d f.a f.b (tyRegs f.ty) (tyRegs f.ty) (laneAdd f)))
def execSub (f : RArith) (s : State) : Host.Outcome State Fault Refusal :=
  warpInstr (.sub f) s (fun c => .warp (alu2 c f.d f.a f.b (tyRegs f.ty) (tyRegs f.ty) (laneSub f)))
def execMul (f : RArith) (s : State) : Host.Outcome State Fault Refusal :=
  warpInstr (.mul f) s (fun c => .warp (alu2 c f.d f.a f.b (tyRegs f.ty) (tyRegs f.ty) (laneMul f)))
def execDiv (f : RArith) (s : State) : Host.Outcome State Fault Refusal :=
  warpInstr (.div f) s (fun c => .warp (alu2 c f.d f.a f.b (tyRegs f.ty) (tyRegs f.ty) (laneDiv f)))
def execRem (f : RArith) (s : State) : Host.Outcome State Fault Refusal :=
  warpInstr (.rem f) s (fun c => .warp (alu2 c f.d f.a f.b (tyRegs f.ty) (tyRegs f.ty) (laneRem f)))
def execMin (f : RArith) (s : State) : Host.Outcome State Fault Refusal :=
  warpInstr (.min f) s (fun c => .warp (alu2 c f.d f.a f.b (tyRegs f.ty) (tyRegs f.ty) (laneMin f)))
def execMax (f : RArith) (s : State) : Host.Outcome State Fault Refusal :=
  warpInstr (.max f) s (fun c => .warp (alu2 c f.d f.a f.b (tyRegs f.ty) (tyRegs f.ty) (laneMax f)))
def execAddImm (f : IForm) (s : State) : Host.Outcome State Fault Refusal :=
  warpInstr (.addImm f) s (fun c => .warp (aluI c f (laneAdd dfltMods)))
def execSubImm (f : IForm) (s : State) : Host.Outcome State Fault Refusal :=
  warpInstr (.subImm f) s (fun c => .warp (aluI c f (laneSub dfltMods)))
def execMulImm (f : IForm) (s : State) : Host.Outcome State Fault Refusal :=
  warpInstr (.mulImm f) s (fun c => .warp (aluI c f (laneMul dfltMods)))
def execMinImm (f : IForm) (s : State) : Host.Outcome State Fault Refusal :=
  warpInstr (.minImm f) s (fun c => .warp (aluI c f (laneMin dfltMods)))
def execMaxImm (f : IForm) (s : State) : Host.Outcome State Fault Refusal :=
  warpInstr (.maxImm f) s (fun c => .warp (aluI c f (laneMax dfltMods)))
def execAddc (f : RArith) (s : State) : Host.Outcome State Fault Refusal :=
  warpInstr (.addc f) s (fun c => .warp (carryOp c f addCarry))
def execSubb (f : RArith) (s : State) : Host.Outcome State Fault Refusal :=
  warpInstr (.subb f) s (fun c => .warp (carryOp c f subBorrow))
def execMulh (f : RArith) (s : State) : Host.Outcome State Fault Refusal :=
  warpInstr (.mulh f) s (fun c => .warp (alu2 c f.d f.a f.b 1 1 (laneMulh f)))
def execMad (f : RArith) (s : State) : Host.Outcome State Fault Refusal :=
  warpInstr (.mad f) s (fun c => .warp (alu3 c f.d f.a f.b f.c 1 1 1 (laneMad f)))
def execMadw (f : RArith) (s : State) : Host.Outcome State Fault Refusal :=
  warpInstr (.madw f) s (fun c => .warp (alu3 c f.d f.a f.b f.c 2 1 2 (laneMadw f)))
def execAbs (f : RArith) (s : State) : Host.Outcome State Fault Refusal :=
  warpInstr (.abs f) s (fun c => .warp (alu1 c f.d f.a (tyRegs f.ty) (tyRegs f.ty) (laneAbs f)))
def execNeg (f : RArith) (s : State) : Host.Outcome State Fault Refusal :=
  warpInstr (.neg f) s (fun c => .warp (alu1 c f.d f.a (tyRegs f.ty) (tyRegs f.ty) (laneNeg f)))
def execSad (f : RArith) (s : State) : Host.Outcome State Fault Refusal :=
  warpInstr (.sad f) s (fun c => .warp (alu3 c f.d f.a f.b f.c 1 1 1 (laneSad f)))
def execAnd (f : RArith) (s : State) : Host.Outcome State Fault Refusal :=
  warpInstr (.and f) s (fun c => .warp (alu2 c f.d f.a f.b 1 1 laneAnd))
def execAndImm (f : IForm) (s : State) : Host.Outcome State Fault Refusal :=
  warpInstr (.andImm f) s (fun c => .warp (aluI c f laneAnd))
def execOr (f : RArith) (s : State) : Host.Outcome State Fault Refusal :=
  warpInstr (.or f) s (fun c => .warp (alu2 c f.d f.a f.b 1 1 laneOr))
def execOrImm (f : IForm) (s : State) : Host.Outcome State Fault Refusal :=
  warpInstr (.orImm f) s (fun c => .warp (aluI c f laneOr))
def execXor (f : RArith) (s : State) : Host.Outcome State Fault Refusal :=
  warpInstr (.xor f) s (fun c => .warp (alu2 c f.d f.a f.b 1 1 laneXor))
def execXorImm (f : IForm) (s : State) : Host.Outcome State Fault Refusal :=
  warpInstr (.xorImm f) s (fun c => .warp (aluI c f laneXor))
def execAndn (f : RArith) (s : State) : Host.Outcome State Fault Refusal :=
  warpInstr (.andn f) s (fun c => .warp (alu2 c f.d f.a f.b 1 1 laneAndn))
def execAndnImm (f : IForm) (s : State) : Host.Outcome State Fault Refusal :=
  warpInstr (.andnImm f) s (fun c => .warp (aluI c f laneAndn))
def execShl (f : RArith) (s : State) : Host.Outcome State Fault Refusal :=
  warpInstr (.shl f) s (fun c => .warp (alu2 c f.d f.a f.b 1 1 laneShl))
def execShlImm (f : IForm) (s : State) : Host.Outcome State Fault Refusal :=
  warpInstr (.shlImm f) s (fun c => .warp (aluI c f laneShl))
def execShr (f : RArith) (s : State) : Host.Outcome State Fault Refusal :=
  warpInstr (.shr f) s (fun c => .warp (alu2 c f.d f.a f.b 1 1 laneShr))
def execShrImm (f : IForm) (s : State) : Host.Outcome State Fault Refusal :=
  warpInstr (.shrImm f) s (fun c => .warp (aluI c f laneShr))
def execSra (f : RArith) (s : State) : Host.Outcome State Fault Refusal :=
  warpInstr (.sra f) s (fun c => .warp (alu2 c f.d f.a f.b 1 1 laneSra))
def execSraImm (f : IForm) (s : State) : Host.Outcome State Fault Refusal :=
  warpInstr (.sraImm f) s (fun c => .warp (aluI c f laneSra))
def execRot (f : RArith) (s : State) : Host.Outcome State Fault Refusal :=
  warpInstr (.rot f) s (fun c => .warp (alu2 c f.d f.a f.b 1 1 laneRot))
def execRotImm (f : IForm) (s : State) : Host.Outcome State Fault Refusal :=
  warpInstr (.rotImm f) s (fun c => .warp (aluI c f laneRot))
def execNot (f : RArith) (s : State) : Host.Outcome State Fault Refusal :=
  warpInstr (.not f) s (fun c => .warp (alu1 c f.d f.a 1 1 laneNot))
def execBlut (f : RRaw) (s : State) : Host.Outcome State Fault Refusal :=
  warpInstr (.blut f) s (fun c => .warp (alu3 c f.d f.a f.b f.c 1 1 1 (laneBlut (f.opm.toNat % 256))))
def execFshl (f : RArith) (s : State) : Host.Outcome State Fault Refusal :=
  warpInstr (.fshl f) s (fun c => .warp (alu3 c f.d f.a f.b f.c 1 1 1 (laneFshl f)))
def execBfx (f : RArith) (s : State) : Host.Outcome State Fault Refusal :=
  warpInstr (.bfx f) s (fun c => .warp (alu2 c f.d f.a f.b 1 1 (laneBfx f)))
def execBfi (f : RArith) (s : State) : Host.Outcome State Fault Refusal :=
  warpInstr (.bfi f) s (fun c => .warp (alu3 c f.d f.a f.b f.c 1 1 1 laneBfi))
def execPopc (f : RArith) (s : State) : Host.Outcome State Fault Refusal :=
  warpInstr (.popc f) s (fun c => .warp (alu1 c f.d f.a 1 1 lanePopc))
def execClz (f : RArith) (s : State) : Host.Outcome State Fault Refusal :=
  warpInstr (.clz f) s (fun c => .warp (alu1 c f.d f.a 1 1 laneClz))
def execCtz (f : RArith) (s : State) : Host.Outcome State Fault Refusal :=
  warpInstr (.ctz f) s (fun c => .warp (alu1 c f.d f.a 1 1 laneCtz))
def execBrev (f : RArith) (s : State) : Host.Outcome State Fault Refusal :=
  warpInstr (.brev f) s (fun c => .warp (alu1 c f.d f.a 1 1 laneBrev))
def execBpick (f : RRaw) (s : State) : Host.Outcome State Fault Refusal :=
  warpInstr (.bpick f) s (fun c => .warp (alu2 c f.d f.a f.b 1 1 (laneBpick f.opm.toNat)))
def execSetp (f : RArith) (s : State) : Host.Outcome State Fault Refusal :=
  warpInstr (.setp f) s (fun c => .warp (alu3 c f.d f.a f.b f.c 1 (tyRegs f.ty) 1 (laneSetp f)))
def execSel (f : RArith) (s : State) : Host.Outcome State Fault Refusal :=
  warpInstr (.sel f) s (fun c => .warp (alu3 c f.d f.a f.b f.c (tyRegs f.ty) (tyRegs f.ty) 1 laneSel))
def execPlop (f : RRaw) (s : State) : Host.Outcome State Fault Refusal :=
  warpInstr (.plop f) s (fun c => .warp (alu3 c f.d f.a f.b f.c 1 1 1 (lanePlop (f.opm.toNat % 256))))
def execMov (f : RArith) (s : State) : Host.Outcome State Fault Refusal :=
  warpInstr (.mov f) s (fun c => .warp (alu1 c f.d f.a (tyRegs f.ty) (tyRegs f.ty) id))
def execMovi (f : IForm) (s : State) : Host.Outcome State Fault Refusal :=
  warpInstr (.movi f) s (fun c => .warp (writeLanes c 1 (.v f.d) (fun _ => immSrc f)))
def execMovk (f : RArith) (s : State) : Host.Outcome State Fault Refusal :=
  warpInstr (.movk f) s (fun c => .warp (movkFrom c f.d (src32 c.w f.a (lane0 c.g))))
def execMovkImm (f : IForm) (s : State) : Host.Outcome State Fault Refusal :=
  warpInstr (.movkImm f) s (fun c => .warp (movkFrom c (.k (f.d.extractLsb' 0 6)) f.imm))
def execCvti (f : RArith) (s : State) : Host.Outcome State Fault Refusal :=
  warpInstr (.cvti f) s (fun c => .warp (alu1 c f.d f.a (tyRegs (subTy f.sub)) (tyRegs f.ty) (laneCvti f)))
def execLea (f : RArith) (s : State) : Host.Outcome State Fault Refusal :=
  warpInstr (.lea f) s (fun c => .warp (writeLanes c 2 f.d (fun l => laneLea f (src64 c.w f.a l) (srcN c.w 1 f.b l))))
def execSrd (f : RRaw) (s : State) : Host.Outcome State Fault Refusal :=
  warpInstr (.srd f) s (fun c => .warp (writeLanes c 1 f.d (fun l => (specialReg s c f.opm.toNat l).zeroExtend 64)))
def execClk (f : RArith) (s : State) : Host.Outcome State Fault Refusal :=
  warpInstr (.clk f) s (fun c => .warp (writeLanes c 2 f.d (fun _ => clockValue s c.core (decide (f.sub = 1)))))

end Sys2Proof.Machine
end

