-- ==== Sys2Proof/Machine/Lattice.lean ====
section
/-! DEFINITION. Tokens of the lattice: sending, arrival and holding, entry into an image, admission, drains and their markers (02 R71, 12
R325 to R339, R346, 11 R317, R320). -/

namespace Sys2Proof.Machine

/-- A grid context number: 8 × cell + context. -/
def nodeOf (cell ctx : Nat) : Nat := 8 * cell + ctx
def cellOf (node : Nat) : Nat := node / 8

/-- A value on its way: its width, mask and lanes. -/
structure Val where
  w64 : Bool
  mask : Word
  data : List DWord
  deriving DecidableEq, Repr

/-- The value of a lane. -/
def Val.lane (v : Val) (l : Nat) : DWord := nthD v.data l 0

/-- A value formed lane by lane. -/
def mkVal (w : Bool) (m : Word) (f : Nat → DWord) : Val :=
  { w64 := w, mask := m, data := laneList.map (fun l => if inMask m l then f l else 0) }

def valOfTok (t : Token) : Val := { w64 := t.w64, mask := t.mask, data := t.data }
def liveOf (node port : Nat) (v : Val) : LiveOut := { node := node, port := port, w64 := v.w64, mask := v.mask, data := v.data }

/-- Where a target sends (06 R162); none for `nil`. -/
def destOf (t : Target) (sender : Nat) : Option Dest :=
  if t.slot.toNat < 3 then some (.slot (nodeOf t.cell.toNat t.ctx.toNat) t.slot.toNat)
  else if t.cell.toNat < 8 then some (.south (t.cell.toNat % 8) sender)
  else none

/-- Puts a token in flight on a core from a cell or a port, numbered by the model's order counter (12 R327). -/
def sendTok (s : State) (core src : Nat) (d : Dest) (tag : Tag) (level : Nat) (v : Val) (mark : Bool) : State :=
  let c := getCore s core
  let t : Token :=
    { dest := d, tag := tag, level := level, mask := v.mask, w64 := v.w64, data := v.data, mark := mark, arr := s.seq, src := src }
  setCore { s with seq := s.seq + 1 } core { c with flight := c.flight ++ [(s.seq, t)] }

/-- Sends a value to a target. -/
def sendTarget (s : State) (core node : Nat) (t : Target) (tag : Tag) (level : Nat) (v : Val) (mark : Bool) : State :=
  match destOf t node with
  | some d => sendTok s core (cellOf node) d tag level v mark
  | none => s

/-- Sends a value to both targets of a context. -/
def sendBoth (s : State) (core node : Nat) (t : TForm) (tag : Tag) (level : Nat) (v : Val) : State :=
  sendTarget (sendTarget s core node t.t1 tag level v false) core node t.t2 tag level v false

/-- The result tag and level of TOP (06 R163). `.incmid` and `.incout` open the next middle or outer iteration with its inner instances,
and stay at the firing level. -/
def topApply (top : Nat) (t : Tag) (level : Nat) : Tag × Nat :=
  match top with
  | 1 => ({ t with i := t.i + 1 }, level)
  | 2 => (tagPush t, level + 1)
  | 3 => (tagPop t, level - 1)
  | 4 =>
    let u := tagPop t
    ({ u with i := u.i + 1 }, level - 1)
  | 5 => ({ t with m := t.m + 1, i := 0 }, level)
  | 6 => ({ t with o := t.o + 1, m := 0, i := 0 }, level)
  | 7 => ({ t with i := 0 }, level)
  | _ => (t, level)

/-- The run of a warp in the lattice, and its change. -/
def getRun (s : State) (k i : Nat) : Option LatRun := (getTask s k).bind (fun t => (getWarp t i).bind (fun w => w.lat))
def modRun (s : State) (k i : Nat) (f : LatRun → LatRun) : State :=
  modWarp s k i (fun w => { w with lat := w.lat.map f })

/-- Changes the iteration of a level and tag. -/
def modIter (r : LatRun) (level : Nat) (tag : Tag) (f : Iter → Iter) : LatRun :=
  { r with iters := r.iters.map (fun it => if it.level = level ∧ it.tag = tag then f it else it) }

/-- Opens an iteration: the next ordinal of its instance, with an admission stamp of the core (12 R330). -/
def openIter (s : State) (core k i level : Nat) (tag : Tag) : State :=
  match getRun s k i with
  | none => s
  | some r =>
    if (iterAt r level tag).isSome then s
    else
      let par := parentOf level tag
      let c := getCore s core
      let ord := match instOf r level par with
        | some li => li.admitted
        | none => 0
      let r1 : LatRun := match instOf r level par with
        | some _ => modInst r level par (fun li => { li with admitted := li.admitted + 1 })
        | none => { r with levels := r.levels ++ [{ level := level, parent := par, admitted := 1, committed := 0, closed := false, pushed := [] }] }
      let it : Iter :=
        { level := level, tag := tag, ordinal := ord, stamp := c.admStamp.toNat, toks := [], outs := [], exits := [], heads := [],
          fired := [] }
      modRun (setCore s core { c with admStamp := c.admStamp + 1 }) k i (fun _ => { r1 with iters := r1.iters ++ [it] })

/-- The live-in tokens that a warp's entry sends: the `INJ` triggers of a block, or the live-in map of an image (11 R320, 12 R350). -/
def enterTokens (im : Image) (w : Warp) : List (Dest × Val) :=
  if im.expl then
    im.nodes.filterMap (fun e => if e.2.op = 0x3C7 then some (.slot e.1 0, mkVal false w.active (fun _ => 0)) else none)
  else
    im.livein.map (fun (node, slot, reg, pair, pred) =>
      (.slot node slot, mkVal pair w.active (fun l =>
        if pred then boolRes1 (inMask (predMask w (reg % 8)) l)
        else if pair then pairOf (getV w reg l) (getV w (reg + 1) l)
        else (getV w reg l).zeroExtend 64)))
where
  boolRes1 (b : Bool) : DWord := if b then 1 else 0

/-- The oldest uncommitted iteration's owner becomes senior where a core has none (12 R332). -/
def claimSenior (c : Core) (wslot : Nat) : Core :=
  match c.senior with
  | none => { c with senior := some wslot }
  | some _ => c

/-- The sender of what the ports send. -/
def portSrc : Nat := 64

/-- Whether a register that an image's live-in map reads holds a lost value (17 R421). -/
def lostLiveIn (im : Image) (w : Warp) : Bool :=
  !im.expl && im.livein.any (fun (_, _, reg, pair, pred) => (maskLanes w.active).any (fun l =>
    if pred then Store.get false w.lostRegs (lostP (reg % 8) l)
    else (List.range (if pair then 2 else 1)).any (fun j => Store.get false w.lostRegs (32 * (reg + j) + l))))

/-- A warp enters the image of a slot with its stack and mask as they stand (02 R71, 12 R343), at ordinal 0 or at that of the drain
section that its image brought (12 R341). -/
def enterImage (s : State) (k i core slot : Nat) (im : Image) : State :=
  match (getTask s k).bind (fun t => (getWarp t i).map (fun w => (t, w))) with
  | none => s
  | some (t, w) =>
    let ws := nthD t.wslots i 0
    let first := match w.reenter with
      | some (sl, n) => if sl = slot then n else 0
      | none => 0
    let tag : Tag := { wslot := ws, islot := slot, o := 0, m := 0, i := BitVec.ofNat 16 first }
    let run : LatRun :=
      { slot := slot, stack := w.stack, mask := w.active,
        levels := [{ level := 0, parent := parentOf 0 tag, admitted := first, committed := first, closed := false, pushed := [] }],
        iters := [], exits := [], caught := [], gathered := [], popped := [], drain := none, named := none, first := first, fence := none,
        watchdog := 0, held := [] }
    let s1 := modWarp s k i (fun w => { w with lat := some run, drained := none, reenter := none, blocked := .ready, rebuilt := none })
    let s2 := openIter s1 core k i 0 tag
    let s3 := setCore s2 core (claimSenior (getCore s2 core) ws)
    (enterTokens im w).foldl (fun s (d, v) => sendTok s core portSrc d tag 0 v false) s3

/-- The tokens that stand at a context, with their places. -/
def tokensAt (c : Core) (node : Nat) : List (HoldPlace × Token) :=
  c.store.filter (fun e => match e.2.dest with
    | .slot n _ => decide (n = node)
    | .south _ _ => false)

/-- The context of a destination. -/
def destNode : Dest → Option Nat
  | .slot n _ => some n
  | .south _ _ => none

/-- The slot that a token waits in. -/
def tokSlot (t : Token) : Nat :=
  match t.dest with
  | .slot _ s => s
  | .south _ _ => 3

/-- The operand slots that a firing of a context needs: ARITY of a, b and c, where an immediate takes b's place (06 R161). -/
def needSlots (t : TForm) : List Nat := (if t.immv then [0, 2] else [0, 1, 2]).take t.arity.toNat

/-- Held tokens of the general and reserved entries of a cell, and of the core's overflow table (12 R325, R332, R333). -/
def cellCount (c : Core) (cell : Nat) (p : HoldPlace) : Nat :=
  (c.store.filter (fun e => decide (e.1 = p) && (match e.2.dest with
    | .slot n _ => decide (cellOf n = cell)
    | .south _ _ => false))).length
def overflowCount (c : Core) : Nat :=
  ((c.store.filter (fun e => decide (e.1 = .overflow))).map (fun e => if e.2.w64 then 2 else 1)).foldl (· + ·) 0

/-- Whether a tag is that of the senior iteration, or of an instance inside it (12 R332). -/
def isSenior (s : State) (core : Nat) (t : Token) : Bool :=
  match (getCore s core).senior, warpAtSlot s core t.tag.wslot with
  | some ws, some (k, i) => decide (ws = t.tag.wslot) && (match (getRun s k i).bind oldestIter with
    | some it => decide (it.level = t.level ∧ it.tag = t.tag)
    | none => false)
  | _, _ => false

/-- Whether an arriving token completes the operands of its context together with tokens that wait there (12 R331, R332). -/
def completes (s : State) (core : Nat) (t : Token) : Bool :=
  match t.dest, imageAt s core t.tag.islot with
  | .slot node sl, some im => (Store.find im.nodes node).any (fun x =>
      let have_ := sl :: ((tokensAt (getCore s core) node).filter (fun e =>
        decide (e.2.tag = t.tag ∧ e.2.level = t.level) && !e.2.mark)).map (fun e => tokSlot e.2)
      let need := if x.op = 0x3C1 then (if tSub x = 1 then [] else [0, 1]) else needSlots x
      decide (2 ≤ need.length) && need.all (fun n => elemOf n have_))
  | _, _ => false

/-- Whether a context of a warp's image is an `MMA`, whose sequences are held at its port (10 R293). -/
def atMma (s : State) (core : Nat) (t : Token) : Bool :=
  match t.dest, imageAt s core t.tag.islot with
  | .slot node _, some im => (Store.find im.nodes node).any (fun x => decide (x.op = 0x300))
  | _, _ => false

/-- Where an arriving token is held: with the tokens that it completes, in a general or reserved entry of its cell, or in the overflow
table; none where the table has no room for it (12 R332, R333). -/
def holdPlace (s : State) (core : Nat) (t : Token) : Option HoldPlace :=
  let c := getCore s core
  match t.dest with
  | .south _ _ => some .matched
  | .slot node _ =>
    if t.mark || atMma s core t || completes s core t then some .matched
    else if cellCount c (cellOf node) .general < 30 then some .general
    else if isSenior s core t && decide (cellCount c (cellOf node) .reserved < 2) then some .reserved
    else
      let n := if t.w64 then 2 else 1
      let lim := if isSenior s core t then 16384 else 15360
      if overflowCount c + n ≤ lim then some .overflow else none

/-! Beats (12 R326). -/

/-- The payload of a token's header beat. A token for a south port names it as its target does (06 R162). -/
def headerBeat (t : Token) : Nat :=
  let (cell, ctx, slot) := match t.dest with
    | .slot n sl => (cellOf n, n % 8, sl)
    | .south p _ => (p, 0, 3)
  boolNat t.mark * 2 ^ 108 + boolNat t.w64 * 2 ^ 107 + slot * 2 ^ 105 + ctx * 2 ^ 102 + cell * 2 ^ 96 + t.mask.toNat * 2 ^ 64
    + (tagWord t.tag).toNat

/-- The payload of data beat `j`: the low words of four lanes, and from beat 8 their high words. -/
def dataBeat (t : Token) (j : Nat) : Nat :=
  let word (l : Nat) : Nat := (if j < 8 then lowWord (nthD t.data l 0) else highWord (nthD t.data l 0)).toNat
  (List.range 4).foldl (fun n i => n + word (4 * (j % 8) + i) * 2 ^ (32 * i)) 0

/-- The even parity bits of a beat: bit `i` over payload bits 16 × `i` to 16 × `i` + 15. -/
def beatParity (x : Nat) : Nat :=
  (List.range 8).foldl (fun n i => n + (List.range 16).countP (fun j => bitOf x (16 * i + j)) % 2 * 2 ^ i) 0

/-- The beats of a token, each a payload and its parity: the header, and the data beats of a token that is no marker. -/
def tokenBeats (t : Token) : List (Nat × Nat) :=
  (headerBeat t :: (List.range (if t.mark then 0 else if t.w64 then 16 else 8)).map (dataBeat t)).map (fun x => (x, beatParity x))

/-! Links (12 R327). -/

/-- The direction of a token's first hop from a cell, along its row and then its column: 0 none, 1 east, 2 west, 3 south, 4 north. South
ports lie past the last row. -/
def hopDir (src : Nat) (d : Dest) : Nat :=
  let (col, row) := match d with
    | .slot node _ => (cellOf node % 8, cellOf node / 8)
    | .south _ _ => (src % 8, 8)
  if 64 ≤ src then 0
  else if src % 8 < col then 1 else if col < src % 8 then 2 else if src / 8 < row then 3 else if row < src / 8 then 4 else 0

/-- The cell or port at which a token arrives. -/
def destCell (d : Dest) : Nat :=
  match d with
  | .slot node _ => cellOf node
  | .south _ sender => 64 + cellOf sender % 8

/-- Whether a token in flight finds a place where it is going. One that finds none waits there, and others pass it (log 31). -/
def canArrive (s : State) (core : Nat) (t : Token) : Bool := (holdPlace s core t).isSome || isSenior s core t

/-- Whether a token in flight is the next of its path: tokens of one sender and destination arrive in the order of their sending. -/
def firstOfPath (s : State) (core key : Nat) (t : Token) : Bool :=
  !(getCore s core).flight.any (fun e => decide (e.1 < key ∧ e.2.src = t.src ∧ destCell e.2.dest = destCell t.dest) && canArrive s core e.2)

/-- The tokens that stand in a cell's output buffer of a direction: those sent that way that are still under way. -/
def bufferCount (s : State) (core cell dir : Nat) : Nat :=
  (getCore s core).flight.countP (fun e => decide (e.2.src = cell ∧ hopDir cell e.2.dest = dir) && canArrive s core e.2)

/-- Whether the output buffers of a cell, of two tokens a direction, have room for a firing's tokens (12 R327, R331). -/
def buffersFree (s : State) (core node : Nat) (t : TForm) : Bool :=
  let cell := cellOf node
  let dirs := ([t.t1, t.t2].filterMap (fun x => destOf x node)).map (hopDir cell)
  [1, 2, 3, 4].all (fun d => decide (dirs.countP (fun x => decide (x = d)) = 0 ∨
    bufferCount s core cell d + dirs.countP (fun x => decide (x = d)) ≤ 2))

/-- How many targets of the image's contexts name a slot of a context: each sends one drain marker there (12 R338). -/
def targetsOf (im : Image) (node sl : Nat) : Nat :=
  im.nodes.foldl (fun n e => n + [destOf e.2.t1 e.1, destOf e.2.t2 e.1].countP (fun d => decide (d = some (.slot node sl)))) 0

/-- The `TAGPSH` contexts that send into the level below one. -/
def pushNodes (im : Image) (level : Nat) : List Nat :=
  (im.nodes.filter (fun e => decide (e.2.op = 0x3C4 ∧ Store.get 0 im.levels e.1 = level))).map Prod.fst

/-- Whether the order queue or an engine must perform a memory token before later loads: a load, a fence or a `GAROW`. -/
def isLoad (t : TForm) : Bool := decide (t.op = 0x200 ∨ t.op = 0x280 ∨ t.op = 0x341)

/-- Whether a drain drops a token at a context: of the boundary or later, or one that an iteration enclosing the boundary holds for what
follows the inner loop, which the front end forms again (12 R338). -/
def dropped (im : Image) (r : LatRun) (n : Tag) (level node : Nat) (t : Token) : Bool :=
  atOrAfter r n level t.tag t.level || (encloses n level t.tag t.level && elemOf node im.afterPop)

/-- Forwards a drain marker through a context that holds it from every target that names one of its slots and no token that stays, in its
store or at its port; `inject` does so where the
drain begins. A `WADV` ends the marker's path (12 R338). -/
def forwardMark (s : State) (core wslot node : Nat) (inject : Bool) : State :=
  match warpAtSlot s core wslot with
  | none => s
  | some (k, i) =>
    match getRun s k i with
    | none => s
    | some r =>
      match imageAt s core r.slot, r.drain with
      | some im, some (_, n, level) =>
        match Store.find im.nodes node with
        | none => s
        | some t =>
          let c := getCore s core
          let here (x : Token) : Bool := tokOf wslot x && (match x.dest with
            | .slot m _ => decide (m = node)
            | .south _ _ => false)
          let mine := c.store.filter (fun e => here e.2)
          let marks := (mine.filter (fun e => e.2.mark)).map (fun e => tokSlot e.2)
          let older := mine.any (fun e => !e.2.mark && !dropped im r n level node e.2)
            || r.iters.any (fun it => !atOrAfter r n level it.tag it.level
              && it.toks.any (fun x => decide (x.node = node) && isLoad x.word && !x.done))
          let all := [0, 1, 2].all (fun sl => decide (targetsOf im node sl ≤ marks.countP (fun m => decide (m = sl))))
          let clear := setCore s core { c with
            store := c.store.filter (fun e => !(here e.2 && (e.2.mark || dropped im r n level node e.2))) }
          let v := mkVal false 0 (fun _ => 0)
          let send (s : State) : State := sendTarget (sendTarget s core node t.t1 n level v true) core node t.t2 n level v true
          if t.op = 0x3C2 then (if inject then send s else if all && !older then clear else s)
          else if (inject || (all && !marks.isEmpty)) && !older then send clear
          else if inject then
            let m : Token :=
              { dest := .slot node 0, tag := n, level := level, mask := 0, w64 := false, data := [], mark := true, arr := s.seq,
                src := portSrc }
            setCore { s with seq := s.seq + 1 } core { c with store := c.store ++ [(.matched, m)] }
          else s
      | _, _ => s

/-- The iteration for which a `WADV` context sends a result token. -/
def carriedTo (im : Image) (node : Nat) (tag : Tag) (level : Nat) : Tag × Nat :=
  let g := ((Store.find im.nodes node).map (fun x => gateOut x.top.toNat)).getD 0
  (tagOut g tag, level - g)

/-- What a `WADV` does with the result token of a draining warp: one for the boundary is caught, a later one dropped (12 R338). -/
def catchTok (im : Image) (r : LatRun) (node : Nat) (tag : Tag) (level : Nat) (v : Val) : LatRun :=
  match r.drain with
  | some (_, n, lv) =>
    if (tag, level) = (n, lv) ∨ carriedTo im node tag level = (n, lv) then { r with caught := r.caught ++ [(node, liveOf node 0 v)] } else r
  | none => r

/-- Takes from the GAE queue the rows of a lattice warp whose tokens its run no longer holds. -/
def dropRows (s : State) (core wslot : Nat) (r : LatRun) : State :=
  let c := getCore s core
  setCore s core { c with gaeq := c.gaeq.filter (fun e => !latticeRow wslot (fun node level tag =>
    !(iterAt r level tag).any (fun it => it.toks.any (fun t => decide (t.node = node)))) e.2) }

/-- Starts a drain of a warp to an iteration, or restarts it at an older one (12 R337, R338): the tokens waiting at the `WADV` contexts are
caught or dropped, the buffered accesses of the boundary and later are discarded, and markers enter at the `WADV` and `INJ` contexts. The
boundary of an iteration that is begun lies within it (log 35). -/
def startDrain (s : State) (k i core : Nat) (why : DrainWhy) (n : Tag) (level : Nat) : State :=
  match getRun s k i with
  | none => s
  | some r =>
    match slotOfWarp s k i, imageAt s core r.slot with
    | some (_, ws), some im =>
      let (b, bl) := match iterAt r level n with
        | some it => stopAt im r 4 it
        | none => (n, level)
      let older := match r.drain with
        | none => true
        | some (_, n0, l0) => decide ((n0, l0) ≠ (b, bl)) && (atOrAfter r b bl n0 l0 || encloses n0 l0 b bl)
      if !older then s
      else
        let c := getCore s core
        let goes (t : Token) : Bool := tokOf ws t && (decide (gateFor im t = (b, bl)) || atOrAfter r b bl t.tag t.level)
        let s1 := setCore s core { c with
          flight := c.flight.filter (fun e => !(tokOf ws e.2 && e.2.mark))
          store := c.store.filter (fun e => !(tokOf ws e.2 && e.2.mark))
          gate := c.gate.filter (fun e => !goes e.2) }
        let r1 : LatRun := { r with
          drain := some (why, b, bl), named := if (b, bl) = (n, level) then none else some n, caught := gateToks c ws im b bl, held := [],
          iters := r.iters.map (drainIter im r b bl) }
        let s2 := dropRows (modRun s1 k i (fun _ => r1)) core ws r1
        (im.nodes.filter (fun e => decide (e.2.op = 0x3C2 ∨ e.2.op = 0x3C7))).foldl (fun s e => forwardMark s core ws e.1 true) s2
    | _, _ => s

/-- The oldest iteration of an instance, or of one inside it, that no `WADV` has admitted; none where all of them have closed. That of a
loop whose inner one has not opened is the second of the inner loop (log 35). -/
def nextIn (im : Image) (r : LatRun) : Nat → Nat → Tag → Option (Tag × Nat)
  | 0, _, _ => none
  | n + 1, level, par =>
    match instOf r level par with
    | none => if im.expl then none else some ({ tagPush par with i := 1 }, level)
    | some li =>
      let live := r.iters.filter (fun it => decide (it.level = level ∧ parentOf level it.tag = par))
      let inner (it : Iter) : Option (Tag × Nat) := if (pushNodes im level).isEmpty then none else nextIn im r n (level + 1) it.tag
      match firstSome inner live with
      | some x => some x
      | none =>
        let first : Tag := if level = 0 then par else tagPush par
        if li.closed then none else some ({ first with i := BitVec.ofNat 16 li.admitted }, level)

/-- Drains a warp for pre-emption to the oldest iteration that no `WADV` has admitted (12 R337). One with none left leaves its loop by
itself. -/
def preemptWarp (s : State) (k i : Nat) (why : DrainWhy) : State :=
  match getRun s k i, slotOfWarp s k i with
  | some r, some (core, ws) => match imageAt s core r.slot with
    | some im => match nextIn im r 4 0 { wslot := ws, islot := r.slot, o := 0, m := 0, i := 0 } with
      | some (n, level) => startDrain s k i core why n level
      | none => s
    | none => purgeWarp s k i false
  | _, _ => s

/-- The live-tag limit in effect on a core's region (13 R373). -/
def ltEff (s : State) (core : Nat) (t : Task) : Nat := Nat.min t.ltlimit (Store.get 16 s.ltcap (core / 12))

/-- Whether a token of a warp waits in the overflow table: its `WADV` contexts then admit nothing (12 R333). -/
def heldBack (c : Core) (wslot : Nat) : Bool := c.store.any (fun e => decide (e.1 = .overflow) && tokOf wslot e.2)

/-- Whether a warp has left every sink with its drain: no marker of it remains (12 R338). -/
def marksGone (c : Core) (wslot : Nat) : Bool := !(coreTokens c wslot).any (fun t => t.mark)

/-- Whether a warp has left its image: its outermost instance has closed, or every lane has exited it (12 R337, R347). -/
def allOut (im : Image) (r : LatRun) : Bool :=
  let m := (r.exits.filter (fun e => im.expl || decide (e.level = 0))).foldl (fun m e => m ||| e.lanes) 0#32
  r.levels.any (fun li => decide (li.level = 0) && li.closed) || decide (r.mask &&& ~~~m = 0)

/-- The normal exit of a warp that has left its image with everything committed and no token left (12 R337, R339). -/
def maybeExit (s : State) (core wslot : Nat) : State :=
  match warpAtSlot s core wslot with
  | none => s
  | some (k, i) =>
    match getRun s k i with
    | none => s
    | some r =>
      match imageAt s core r.slot with
      | some im =>
        if allOut im r && r.iters.isEmpty && r.fence.isNone && (coreTokens (getCore s core) wslot).isEmpty then leaveLattice s k i (exitWarp im r) else s
      | none => s

end Sys2Proof.Machine
end

