-- ==== Sys2Proof/Machine/Control.lean ====
section
/-! DEFINITION. Control flow: group 0x3 (07 R199 to R203), the loop monitor (12 R321, R324), entry at a back edge (02 R71), and starved
barriers (20 R493). -/

namespace Sys2Proof.Machine

/-- Whether a barrier's phase is starved (20 R493). -/
def starved (t : Task) (b : Barrier) : Bool :=
  let live := ((List.range t.warps.length).filter (fun i => match getWarp t i with
    | some w => !warpEnded w && !inMask b.mask i
    | none => false)).length
  decide (popCount b.mask + live < b.expect)

/-- The warps that wait on a barrier, with the lane that each names. -/
def barrierWaiters (t : Task) (n : Nat) : List (Nat × Nat) :=
  (List.range t.warps.length).filterMap (fun i => match getWarp t i with
    | some w => match w.blocked with
      | .barrier b lane => if b = n then some (i, lane) else none
      | _ => none
    | none => none)

/-- Checks one barrier of a task for starvation: its waiting warps raise BARRIER_OVERRUN and its mask becomes 0 (20 R493). -/
def starveBarrier (s : State) (k n : Nat) : State :=
  match getTask s k with
  | none => s
  | some t => match Store.find t.barriers n with
    | none => s
    | some b =>
      if starved t b then
        let s1 := setTask s k { t with barriers := Store.put t.barriers n { b with mask := 0 } }
        (barrierWaiters t n).foldl (fun s (i, lane) =>
          takeFault (modWarp s k i reready) k i
            { cause := cBarrier, lanes := laneMask lane, detail := 2 + n * 2 ^ 8, addr := w64 n }) s1
      else s

/-- Checks every barrier of a task, as when one of its warps ends. -/
def starveAll (s : State) (k : Nat) : State :=
  match getTask s k with
  | some t => (t.barriers.map Prod.fst).foldl (fun s n => starveBarrier s k n) s
  | none => s

/-- The target and join of a B-form word at an address (07 R199). -/
def braTarget (f : BForm) (pc : DWord) : DWord := pc + (f.off.signExtend 64) * 8
def braJoin (f : BForm) (pc : DWord) : DWord := pc + (f.join.signExtend 64) * 8

/-- A branch by its guard (02 R60). -/
def branchTo (w : Warp) (taken : Word) (target join : DWord) : Warp :=
  if taken = w.active then { w with pc := target }
  else if taken = 0 then { w with pc := w.pc + 8 }
  else
    { w with
      stack := { join := join, restore := w.active, pendingPc := w.pc + 8, pending := w.active &&& ~~~taken } :: w.stack
      active := taken
      pc := target }

/-- DIVERGENCE_OVERFLOW for an instruction that needs a stack of `n` entries (18 R446). -/
def overflowFault (c : Ctx) (n : Nat) : FaultInfo := { cause := cDivOverflow, lanes := c.w.active, detail := n % 128 }

/-- The hint of a task for a branch (11 R305). -/
def hintOf (t : Task) (branch : DWord) : Option Hint := t.hints.find? (fun h => decide (h.branch = branch))

/-- Whether a taken back edge, with its new monitor entry, asks for a capture (12 R321, R324). -/
def wantsCapture (s : State) (c : Ctx) (e : MonEntry) : Bool :=
  let hint := hintOf c.t e.branch
  let force := match hint with
    | some h => h.force
    | none => false
  let forbid := match hint with
    | some h => !h.force
    | none => false
  !hostMode s (partOf c.t.vd) 1
  && ((decide (c.kern.cappol = 0) && decide (c.t.capthr.toNat % 2 ^ 16 ≤ e.count) && !forbid && !elemOf e.branch c.t.noCapture)
    || ((decide (c.kern.cappol = 0) || decide (c.kern.cappol = 2)) && force))

/-- Counts a taken back edge in the core's loop monitor, of 64 entries with the least recently used replaced (12 R321). -/
def monitorEdge (s : State) (c : Ctx) (head : DWord) : State :=
  let core := getCore s c.core
  let now := Store.get 0 s.clocks (regionOf c.core)
  let window := c.t.capthr.toNat / 2 ^ 16 * 64
  let isIt (e : MonEntry) : Bool := decide (e.task = c.k ∧ e.branch = c.w.pc)
  let e1 : MonEntry := match core.monitor.find? isIt with
    | some e => if window < now - e.first then { e with count := 1, first := now, used := s.seq } else { e with count := e.count + 1, used := s.seq }
    | none => { task := c.k, branch := c.w.pc, head := head, count := 1, first := now, used := s.seq }
  let others := core.monitor.filter (fun e => !isIt e)
  let kept := if others.length < 64 then others
    else match minBy (fun e => e.used) others with
      | some old => others.filter (fun e => !decide (e = old))
      | none => others
  let resident := core.slots.any (fun x => decide (x.2.vd = c.t.vd ∧ x.2.kdesc = c.kern.addr ∧ nthD x.2.heads 0 0 = head) && !x.2.expl)
  let asked := core.places.any (fun p => match p with
    | .loop t b _ _ => decide (b = c.w.pc) && decide (keyVd t = c.t.vd)
    | _ => false)
  let places := if wantsCapture s c e1 && !resident && !asked then core.places ++ [.loop c.k c.w.pc c.kern.addr c.w.stack.length] else core.places
  setCore { s with seq := s.seq + 1 } c.core { core with monitor := kept ++ [e1], places := places }

/-- The slot of a resident image that a taken back edge enters (02 R71). -/
def entrySlot (s : State) (c : Ctx) (target join : DWord) : Option (Nat × Image) :=
  ((getCore s c.core).slots.find? (fun e => decide (e.2.vd = c.t.vd ∧ e.2.kdesc = c.kern.addr ∧ nthD e.2.heads 0 0 = target
      ∧ nthD e.2.joins 0 0 = join ∧ e.2.ddepth = c.w.stack.length) && !e.2.expl && !e.2.withdrawn)).map (fun e => (e.1, e.2))

/-- A completed B-form branch: a taken back edge is counted, and enters a resident image (02 R71, 12 R321). A warp that
would carry a lost register in stays on the front end, which meets it precisely (17 R421). -/
def finishBranch (s : State) (c : Ctx) (f : BForm) (w : Warp) : State :=
  let s1 := setWarp s c.k c.i (retireJump w)
  if f.off.getLsbD 31 ∧ c.g ≠ 0 then
    let target := braTarget f c.w.pc
    let s2 := modWarp (monitorEdge s1 c target) c.k c.i (fun w =>
      if (w.rebuilt.map (fun x => x.2.2.1)) = some target then { w with rebuilt := none } else w)
    match entrySlot s c target (braJoin f c.w.pc) with
    | some (slot, im) => if lostLiveIn im w then s2 else enterImage s2 c.k c.i c.core slot im
    | none => s2
  else s1

def execBra (f : BForm) (s : State) : Host.Outcome State Fault Refusal :=
  warpInstr (.bra f) s (fun c =>
    if c.g ≠ c.w.active ∧ c.g ≠ 0 ∧ 64 ≤ c.w.stack.length then .fault (overflowFault c (c.w.stack.length + 1)) s
    else .state (finishBranch s c f (branchTo c.w c.g (braTarget f c.w.pc) (braJoin f c.w.pc))))

/-- The groups of a `BRX`: one for each target of the lanes whose guard is true, then the other active lanes (07 R200). -/
def brxGroups (c : Ctx) (a : Opnd) : List (DWord × Word) :=
  groupLanes (fun l => src64 c.w a l) (maskLanes c.g) []
    ++ (if c.w.active &&& ~~~c.g = 0 then [] else [(c.w.pc + 8, c.w.active &&& ~~~c.g)])

/-- The checks of an indirect target in the lanes of a mask (18 R447). -/
def targetFault (m : Word) (target : Nat → DWord) : Option FaultInfo :=
  let bad := maskOf (fun l => inMask m l && decide ((target l).toNat % 8 ≠ 0))
  let high := maskOf (fun l => inMask m l && decide (2 ^ 56 ≤ (target l).toNat))
  if bad ≠ 0 then some { cause := cMisaligned, lanes := bad, detail := 0x103, addr := target (lane0 bad) }
  else if high ≠ 0 then some { cause := cOutOfRange, lanes := high, detail := 0x102, addr := target (lane0 high) }
  else none

def execBrx (f : RRaw) (s : State) : Host.Outcome State Fault Refusal :=
  warpInstr (.brx f) s (fun c =>
    let gs := brxGroups c f.a
    match targetFault c.g (fun l => src64 c.w f.a l) with
    | some x => .fault x s
    | none =>
      if c.g ≠ 0 ∧ 64 < c.w.stack.length + (gs.length - 1) then .fault (overflowFault c (c.w.stack.length + (gs.length - 1))) s
      else .jump (match gs with
        | [] => { c.w with pc := c.w.pc + 8 }
        | _ => runGroups c.w (src64 c.w f.b 0) gs))

/-- The effect of `CALL` on its warp (07 R201). -/
def callWarp (w : Warp) (taken : Word) (target : DWord) : Warp :=
  let next := w.pc + 8
  if taken = 0 then { w with pc := next }
  else
    let w1 := branchTo w taken target next
    setK (setK w1 62 (lowWord next)) 63 (highWord next)

def execCall (f : BForm) (s : State) : Host.Outcome State Fault Refusal :=
  warpInstr (.call f) s (fun c =>
    if c.g ≠ c.w.active ∧ c.g ≠ 0 ∧ 64 ≤ c.w.stack.length then .fault (overflowFault c (c.w.stack.length + 1)) s
    else
      let w := callWarp c.w c.g (braTarget f c.w.pc)
      if f.off.getLsbD 31 ∧ c.g ≠ 0 then .state (setWarp (monitorEdge s c (braTarget f c.w.pc)) c.k c.i (retireJump w)) else .jump w)

def execRet (f : RRaw) (s : State) : Host.Outcome State Fault Refusal :=
  warpInstr (.ret f) s (fun c =>
    let target := src64 c.w f.a 0
    match targetFault c.g (fun _ => target) with
    | some x => .fault x s
    | none => .jump { c.w with pc := if c.g = 0 then c.w.pc + 8 else target })

/-- The effect of `EXIT` on its warp (07 R202). -/
def exitLanes (w : Warp) (m : Word) : Warp :=
  let w1 := removeLanes w m
  if w1.active = 0 then unwindAll w1 else { w1 with pc := w1.pc + 8 }

def execExit (f : RRaw) (s : State) : Host.Outcome State Fault Refusal :=
  warpInstr (.exit f) s (fun c =>
    if c.g = 0 then .warp c.w
    else
      let w := exitLanes c.w c.g
      if warpEnded w && (setNth c.t.warps c.i w).all warpEnded && endHeld s c.k then .state (blockWarp s c.k c.i .dirty)
      else if warpEnded w then .state (settleTask (starveAll (setWarp s c.k c.i (retireJump w)) c.k) c.k) else .jump w)

def execNop (f : RRaw) (s : State) : Host.Outcome State Fault Refusal :=
  warpInstr (.nop f) s (fun c => .warp c.w)

def execYield (f : RRaw) (s : State) : Host.Outcome State Fault Refusal :=
  warpInstr (.yield f) s (fun c => .warp (if c.g = 0 then c.w else { c.w with yieldLeft := 16 }))

end Sys2Proof.Machine
end

