-- ==== Sys2Proof/Machine/Access.lean ====
section
/-! DEFINITION. Memory accesses of a warp's lanes: addresses, the checks of stage 5 with page-fault service, and reading and writing the
four spaces (03 R76 to R89, 09 R237 to R242, 18 R438, R448, 19 R459, R479). -/

namespace Sys2Proof.Machine

/-- One access of a lane: the address formed exactly, and its bytes. -/
structure Acc where
  lane : Nat
  addr : Int
  n : Nat
  deriving DecidableEq, Repr

/-- Where an access lands. -/
inductive Place where
  | die (pa : Nat)
  | shared (off : Nat)
  | const (off : Nat)
  | spill (a : Nat)
  deriving DecidableEq, Repr

/-- The location of a record at a place. -/
def placeLoc (k : Nat) : Place → Loc
  | .die pa => .phys pa
  | .shared o | .const o | .spill o => .shared k o

/-- An address as a record holds it. -/
def addrWord (x : Int) : DWord := wrapN 64 x

/-- The extent that a space gives an access (03 R76, R77, 18 R448). -/
def extentFault (kn : Kernel) (sp : Space) (a : Acc) : Option FaultInfo :=
  let f (cause detail : Nat) : FaultInfo := { cause := cause, lanes := laneMask a.lane, detail := detail, addr := addrWord a.addr }
  let flat (size : Nat) : Option FaultInfo :=
    if a.addr < 0 ∨ 2 ^ 32 ≤ a.addr ∨ (size : Int) < a.addr + a.n then some (f cOutOfRange 3) else none
  match sp with
  | .die => if 2 ^ 56 ≤ a.addr.toNat then some (f cOutOfRange 2) else none
  | .shared => flat kn.shmem
  | .const => flat kn.constLen
  | .spill =>
    if a.addr < 0 ∨ 2 ^ 32 ≤ a.addr then some (f cOutOfRange 3)
    else if (spillSize kn : Int) - 1024 < a.addr + a.n then some (f cSpillOverflow 0) else none

/-- Alignment and extent of an access, in that order (18 R438). `kind` is DETAIL`[15:8]` of MISALIGNED. -/
def formFault (kn : Kernel) (sp : Space) (align kind : Nat) (a : Acc) : Option FaultInfo :=
  if a.addr % align ≠ 0 then
    some { cause := cMisaligned, lanes := laneMask a.lane, detail := kind * 2 ^ 8 + align.log2, addr := addrWord a.addr }
  else extentFault kn sp a

/-- The accesses that read a record of two units of `n` bytes: one, but in `.die` one for each unit, which the memory interleave may
part. -/
def recordAccs (sp : Space) (a : Int) (n l : Nat) : List Acc :=
  match sp with
  | .die => [{ lane := l, addr := a, n := n }, { lane := l, addr := a + n, n := n }]
  | _ => [{ lane := l, addr := a, n := 2 * n }]

/-- What a translation gives an access on a die: its place, or the fault that it meets (18 R448). -/
def placeOf (die : Nat) (write : Bool) (a : Acc) (x : XRes) : Except FaultInfo Place :=
  let f (cause detail : Nat) : FaultInfo := { cause := cause, lanes := laneMask a.lane, detail := detail, addr := addrWord a.addr }
  match x with
  | .ok 0 d (some pa) => if d = die then .ok (.die pa) else .error (f cFarAccess (farDetail 0 d false))
  | .ok loc d _ => .error (f cFarAccess (farDetail loc d false))
  | x => .error (f (xCause x) (xDetail false write x))

/-- The fault that an instruction records of those that its lanes meet: the lowest cause, with the lanes that met it, and the detail
and address of the lowest of them (17 R424). -/
def worstFault (l : List FaultInfo) : Option FaultInfo :=
  match minBy (fun f => f.cause) l with
  | none => none
  | some b =>
    let same := l.filter (fun f => decide (f.cause = b.cause))
    let mask := same.foldl (fun m f => m ||| f.lanes) 0#32
    match minBy (fun f => lane0 f.lanes) same with
    | some f => some { f with lanes := mask }
    | none => none

/-- What stage 5 gives an instruction's accesses. -/
inductive AccRes where
  | ok (l : List (Acc × Place))
  | fault (f : FaultInfo)
  | held (b : Blocked)
  deriving DecidableEq, Repr

/-- Translates accesses in order without serving any, to look where they go or to perform them. -/
def translateAll (core vd die : Nat) (needs : Needs) (perform : Bool) : List Acc → State → List (Acc × XRes) × State
  | [], s => ([], s)
  | a :: t, s =>
    let (x, s1) := translate s (.die core) vd die a.addr.toNat needs perform
    let (l, s2) := translateAll core vd die needs perform t s1
    ((a, x) :: l, s2)

/-- Translates accesses again, serving from the rings what they can serve (19 R459). -/
def resolveAll (core vd die : Nat) (needs : Needs) : List (Acc × XRes) → State → List (Acc × XRes) × State
  | [], s => ([], s)
  | e :: t, s =>
    let (x, s1) := lookFor (.die core) vd die e.1.addr.toNat needs serviceFuel s
    let (l, s2) := resolveAll core vd die needs t s1
    ((e.1, x) :: l, s2)

/-- Requests the ranges of the accesses that R459 sends to the host; the tags on which they wait, 64 of which may be taken. -/
def requestAll (core vd die : Nat) (needs : Needs) (task : DWord) (lanes : Word) (l : List (Acc × XRes)) (s : State) : List Nat × State :=
  l.foldl (fun (tags, s) e =>
    if serviceFor s vd die e.2 = .request then
      match pageRequest s (bayOfCore core) vd die e.1.addr.toNat needs e.2 lanes 0 task with
      | (some tag, s1) => (if elemOf tag tags then tags else tags ++ [tag], s1)
      | (none, s1) => (tags, s1)
    else (tags, s)) ([], s)

/-- Whether an access's translation is dirty-held (14 R394). -/
def isOnHold (e : Acc × XRes) : Bool :=
  match e.2 with
  | .onHold => true
  | _ => false

/-- Whether a translation succeeds. -/
def isOk (e : Acc × XRes) : Bool :=
  match e.2 with
  | .ok _ _ _ => true
  | _ => false

/-- Accesses whose translations all succeed are performed in order: their pages' A and D bits are set (03 R95), and their sectors used at the
slices, but those of a plain read, which may find them in L1. At one that would set a stage-2 D bit of a throttled VD the instruction
holds; the bits of the accesses before it are set already (log 67). -/
def performAll (core vd die : Nat) (needs : Needs) (accs : List Acc) (s : State) : AccRes × State :=
  let (l, s1) := translateAll core vd die needs true accs s
  if l.any isOnHold then (.held .dirty, s1)
  else
    let ps := l.filterMap (fun e => match placeOf die (needs.getLsbD 1) e.1 e.2 with
      | .ok p => some (e.1, p)
      | .error _ => none)
    (.ok ps, if needs = needR then s1 else ps.foldl (fun s e => match e.2 with
      | .die pa => touchL2 s pa e.1.n true
      | _ => s) s1)

/-- The third step of stage 5 for `.die` accesses, with at most `fuel` rounds of service. The instruction holds while what it would
record can be served or requested (18 R438). -/
def dieAccess (core vd die : Nat) (needs : Needs) (task : DWord) (accs : List Acc) : Nat → State → AccRes × State
  | fuel, s =>
    let (l, s1) := translateAll core vd die needs false accs s
    let place (e : Acc × XRes) := placeOf die (needs.getLsbD 1) e.1 e.2
    let bad := l.filterMap (fun e => if isOnHold e then none else
      match place e with
      | .ok _ => none
      | .error f => some f)
    match worstFault bad with
    | some f =>
      let same := l.filter (fun e => match place e with
        | .ok _ => false
        | .error g => decide (g.cause = f.cause))
      if f.cause = cPageFault ∨ f.cause = cPermission then
        let (l2, s2) := resolveAll core vd die needs same s1
        match l2.any isOk, fuel with
        | true, n + 1 => dieAccess core vd die needs task accs n s2
        | _, _ =>
          if l2.any (fun e => decide (serviceFor s2 vd die e.2 = .request)) then
            let (tags, s3) := requestAll core vd die needs task f.lanes l2 s2
            (.held (.page tags f), s3)
          else (.fault f, s2)
      else (.fault f, s1)
    | none => performAll core vd die needs accs s1

/-- Rounds of service that an instruction's accesses may need: each of 32 lanes' words, tables included. -/
def accessFuel : Nat := 64

/-- The place of an access outside `.die`. -/
def flatPlace (sp : Space) (a : Acc) : Place :=
  match sp with
  | .shared => .shared a.addr.toNat
  | .const => .const a.addr.toNat
  | .spill => .spill a.addr.toNat
  | .die => .die a.addr.toNat

/-- Stage 5 of an instruction's accesses in one space (18 R438). -/
def checkAccess (s : State) (c : Ctx) (sp : Space) (align kind : Nat) (needs : Needs) (accs : List Acc) : AccRes × State :=
  match worstFault (accs.filterMap (formFault c.kern sp align kind)) with
  | some f => (.fault f, s)
  | none =>
    match sp with
    | .die => dieAccess c.core c.t.vd c.t.die needs c.t.handle accs accessFuel s
    | _ => (.ok (accs.map (fun a => (a, flatPlace sp a))), s)

/-- The constant image of a task's kernel on a core (03 R85). -/
def constImg (s : State) (c : Ctx) : Option ConstImg :=
  (getCore s c.core).consts.find? (fun x => decide (x.vd = c.t.vd ∧ x.addr = c.kern.constAddr ∧ x.len = c.kern.constLen))

/-- Bytes of a constant image. -/
def rdConst (bytes : List Host.Cell) (a : Nat) : Nat → Nat
  | 0 => 0
  | n + 1 => (Store.get 0 bytes a).toNat + 256 * rdConst bytes (a + 1) n

/-- The warp and the task as the state now holds them. -/
def nowWarp (s : State) (c : Ctx) : Warp := ((getTask s c.k).bind (fun t => getWarp t c.i)).getD c.w
def nowTask (s : State) (c : Ctx) : Task := (getTask s c.k).getD c.t

/-- Words of a lane from a spill address. -/
def rdSpill (w : Warp) (a l : Nat) : Nat → Nat
  | 0 => 0
  | n + 1 => (getSpill w a l).toNat + 2 ^ 32 * rdSpill w (a + 4) l n
def wrSpill (w : Warp) (a l : Nat) : Nat → Nat → Warp
  | 0, _ => w
  | n + 1, v => wrSpill (putSpill w a l (w32 v)) (a + 4) l n (v / 2 ^ 32)

/-- Reads `n` bytes of a lane at a place, for an access of a scope. -/
def readPlace (s : State) (c : Ctx) (scope n l : Nat) (p : Place) : Nat × State :=
  match p with
  | .die pa => loadDie s c.core pa n scope
  | .shared o => (rdShared (nowTask s c) o n, s)
  | .const o => (match constImg s c with
    | some x => rdConst x.bytes o n
    | none => 0, s)
  | .spill a => (rdSpill (nowWarp s c) a l ((n + 3) / 4), useSpill s c.core c.k c.i a false)

/-- Writes `n` bytes of a lane at a place. -/
def writePlace (s : State) (c : Ctx) (n l v : Nat) (p : Place) : State :=
  match p with
  | .die pa => storeDie s c.core pa n v
  | .shared o => setTask s c.k (wrShared (nowTask s c) o n v)
  | .const _ => s
  | .spill a => modWarp (useSpill s c.core c.k c.i a true) c.k c.i (fun w => wrSpill w a l ((n + 3) / 4) v)

/-- Whether the data of an access cannot be delivered (17 R433): a poisoned sector that L1 does not hold for the scope, or a lost word. -/
def lostPlace (s : State) (c : Ctx) (scope n l : Nat) (p : Place) : Bool :=
  match p with
  | .die pa => (List.range n).any (fun i => poisoned s (pa + i)
      && !(decide (scope < 2) && (Store.find (getCore s c.core).l1 ((pa + i) / 16)).isSome))
  | .shared o => lostSharedRange (nowTask s c) o n
  | .const o => match constImg s c with
    | some x => (List.range n).any (fun i => Store.get false x.lost ((o + i) / 4))
    | none => false
  | .spill a => (List.range ((n + 3) / 4)).any (fun j => Store.get false (nowWarp s c).lostSpill (8 * (a + 4 * j) + l))

/-- The sector of a place whose error Firex is told of. -/
def sectorOf : Place → Option Nat
  | .die pa => some (pa / 16)
  | _ => none

/-- DATA_ERROR of the accesses whose data is lost; each die sector is reported to Firex once (19 R479). -/
def dataFault (s : State) (c : Ctx) (bad : List (Acc × Place)) : FaultInfo × State :=
  let (x, s1) := freshFree s
  let mask := bad.foldl (fun m e => m ||| laneMask e.1.lane) 0#32
  let low := (minBy (fun (e : Acc × Place) => e.1.lane) bad).map (fun e => addrWord e.1.addr)
  let f : FaultInfo := { cause := cDataError, lanes := mask, addr := low.getD 0, info := x }
  (f, bad.foldl (fun s e => match sectorOf e.2 with
    | some sec => reportOnce s sec (mkRec s c.k c.i c.t c.w f)
    | none => s) s1)

/-- The accesses whose data is lost. -/
def lostAccs (s : State) (c : Ctx) (scope : Nat) (l : List (Acc × Place)) : List (Acc × Place) :=
  l.filter (fun e => lostPlace s c scope e.1.n e.1.lane e.2)

/-- An instruction whose accesses have passed stage 5, and whose data can be read, acts through `act`. -/
def withAccess (s : State) (c : Ctx) (sp : Space) (align kind : Nat) (needs : Needs) (scope : Nat) (reads : Bool) (accs : List Acc)
    (act : State → List (Acc × Place) → Res) : Res :=
  match checkAccess s c sp align kind needs accs with
  | (.fault f, s1) => .fault f s1
  | (.held b, s1) => .state (blockWarp s1 c.k c.i b)
  | (.ok l, s1) =>
    let bad := if reads then lostAccs s1 c scope l else []
    if bad = [] then act s1 l
    else
      let (f, s2) := dataFault s1 c bad
      .fault f s2

/-- Reads every access as the places stand before the instruction; the L1 and the spill cache then take them in order. -/
def readAll (s : State) (c : Ctx) (scope : Nat) (l : List (Acc × Place)) : List (Nat × Nat) × State :=
  (l.map (fun e => (e.1.lane, (readPlace s c scope e.1.n e.1.lane e.2).1)),
   l.foldl (fun s e => (readPlace s c scope e.1.n e.1.lane e.2).2) s)

/-- Writes each access's value in order: of lanes that write one byte, the highest is written last (03 R78). -/
def writeAll (s : State) (c : Ctx) (f : Nat → Nat) (l : List (Acc × Place)) : State :=
  l.foldl (fun s e => writePlace s c e.1.n e.1.lane (f e.1.lane) e.2) s

/-- Whether an annotation acquires, and whether it releases (04 R104). -/
def annAcq : Ann → Bool
  | .acq | .ar => true
  | _ => false
def annRel : Ann → Bool
  | .rel | .ar => true
  | _ => false

/-- An acquire of scope `.die` or wider discards the core's L1 (03 R88). -/
def acquire (s : State) (c : Ctx) (acq : Bool) (scope : Nat) : State := if acq && decide (2 ≤ scope) then flushL1 s c.core else s

/-- The same for an access of a space: in `.shared`, scope `.task` is enough, so that an acquire read of a completion future there lets the
thread observe its copy's `.die` writes (04 R116). -/
def acquireAt (s : State) (c : Ctx) (sp : Space) (acq : Bool) (scope : Nat) : State :=
  acquire s c acq (if sp = .shared then scope + 1 else scope)

/-- The address of a lane: base from operand a, and the offset (09 R237). -/
def laneAddr (w : Warp) (sp : Space) (a : Opnd) (off : Int) (l : Nat) : Int :=
  match sp with
  | .die => (wrapN 64 ((src64 w a l).toNat + off)).toNat
  | _ => (src32 w a l).toNat + off

end Sys2Proof.Machine
end

