-- ==== Sys2Proof/Machine/Fp.lean ====
section
/-! DEFINITION. Floating values, formats, rounding and the operations on exact values (05 R125 to R138). -/

namespace Sys2Proof.Machine

/-- A floating value: a NaN, an infinity, or (−1)^neg × m × 2^e, where `m = 0` is a signed zero (05 R126). -/
inductive FVal where
  | nan
  | inf (neg : Bool)
  | fin (neg : Bool) (m : Nat) (e : Int)
  deriving DecidableEq, Repr, Inhabited

/-- A floating format (05 R125): widths of the fields, bias, and whether the all-ones exponent holds infinities and NaNs. In the other
formats `nan` gives the NaN code, if any. -/
structure Fmt where
  ebits : Nat
  frac : Nat
  bias : Nat
  ieee : Bool
  nanCode : Option Nat
  deriving DecidableEq, Repr

def fp64 : Fmt := { ebits := 11, frac := 52, bias := 1023, ieee := true, nanCode := some 0x7FFFFFFFFFFFFFFF }
def fp32 : Fmt := { ebits := 8, frac := 23, bias := 127, ieee := true, nanCode := some 0x7FFFFFFF }
def fp16 : Fmt := { ebits := 5, frac := 10, bias := 15, ieee := true, nanCode := some 0x7FFF }
def bf16 : Fmt := { ebits := 8, frac := 7, bias := 127, ieee := true, nanCode := some 0x7FFF }
def f8a : Fmt := { ebits := 4, frac := 3, bias := 8, ieee := false, nanCode := some 0x80 }
def f8b : Fmt := { ebits := 5, frac := 2, bias := 16, ieee := false, nanCode := some 0x80 }
def f4 : Fmt := { ebits := 2, frac := 1, bias := 1, ieee := false, nanCode := none }

/-- Width of a format in bits. -/
def Fmt.width (f : Fmt) : Nat := 1 + f.ebits + f.frac

/-- Exponent of the last place of subnormals and of the smallest normals. -/
def Fmt.emin (f : Fmt) : Int := 1 - f.bias - f.frac

/-- Fields of a code. -/
def Fmt.signOf (f : Fmt) (x : Nat) : Bool := x.testBit (f.ebits + f.frac)
def Fmt.expOf (f : Fmt) (x : Nat) : Nat := bitsOf x (f.ebits + f.frac - 1) f.frac
def Fmt.fracOf (f : Fmt) (x : Nat) : Nat := x % 2 ^ f.frac

/-- The code of a sign, an exponent field and a fraction field. -/
def Fmt.code (f : Fmt) (neg : Bool) (e m : Nat) : Nat := boolNat neg * 2 ^ (f.ebits + f.frac) + e * 2 ^ f.frac + m

/-- The value of a code (05 R126, R127): the F4 code 0x8 reads as +0. -/
def Fmt.decode (f : Fmt) (x : Nat) : FVal :=
  let neg := f.signOf x
  let e := f.expOf x
  let m := f.fracOf x
  if f.ieee && e == 2 ^ f.ebits - 1 then (if m = 0 then .inf neg else .nan)
  else if !f.ieee && neg && e == 0 && m == 0 then
    (match f.nanCode with
     | some _ => .nan
     | none => .fin false 0 0)
  else if e = 0 then .fin neg m f.emin
  else .fin neg (2 ^ f.frac + m) ((e : Int) - 1 + f.emin)

/-- The canonical NaN of a format, and the NaN code of a narrow one (05 R129, R135). F4 has none and writes 0. -/
def Fmt.nan (f : Fmt) : Nat := f.nanCode.getD 0

/-- An infinity of an IEEE format. -/
def Fmt.inf (f : Fmt) (neg : Bool) : Nat := f.code neg (2 ^ f.ebits - 1) 0

/-- The largest finite code (05 R125). -/
def Fmt.top (f : Fmt) (neg : Bool) : Nat :=
  if f.ieee then f.code neg (2 ^ f.ebits - 2) (2 ^ f.frac - 1) else f.code neg (2 ^ f.ebits - 1) (2 ^ f.frac - 1)

/-- Zero of a sign: a narrow format has only the code 0 (05 R132). -/
def Fmt.zero (f : Fmt) (neg : Bool) : Nat := if f.ieee then f.code neg 0 0 else 0

/-- ⌊log2 (a / b)⌋ for positive `a` and `b`. -/
def floorLog2Ratio (a b : Nat) : Int :=
  let k : Int := (a.log2 : Int) - b.log2
  if a * 2 ^ (-k).toNat < b * 2 ^ k.toNat then k - 1 else k

/-- Round(a / b) to an integer, for a magnitude of the given sign (00 R13, 05 R133). -/
def roundQuot (rm : RMode) (neg : Bool) (a b : Nat) : Nat :=
  let q := a / b
  let r := a % b
  let up := match rm with
    | .rn => decide (b < 2 * r) || (decide (2 * r = b) && q % 2 == 1)
    | .rz => false
    | .ru => !neg && r != 0
    | .rd => neg && r != 0
  if up then q + 1 else q

/-- Rounds the magnitude (a / b) × 2^e with an unbounded exponent range above: an integer and the exponent of its last place. -/
def roundMag (f : Fmt) (rm : RMode) (neg : Bool) (a b : Nat) (e : Int) : Nat × Int :=
  let u := max f.emin (floorLog2Ratio a b + e - f.frac)
  let q := roundQuot rm neg (a * 2 ^ (e - u).toNat) (b * 2 ^ (u - e).toNat)
  if q = 2 ^ (f.frac + 1) then (2 ^ f.frac, u + 1) else (q, u)

/-- Overflow (05 R134). -/
def Fmt.overflow (f : Fmt) (rm : RMode) (neg : Bool) : Nat :=
  match rm with
  | .rn => f.inf neg
  | .rz => f.top neg
  | .ru => if neg then f.top neg else f.inf neg
  | .rd => if neg then f.inf neg else f.top neg

/-- The code of a rounded magnitude, or none where it is beyond the largest finite value. -/
def Fmt.encode (f : Fmt) (neg : Bool) (q : Nat) (u : Int) : Option Nat :=
  if q = 0 then some (f.zero neg)
  else if q < 2 ^ f.frac then some (f.code neg 0 q)
  else
    let e := (u - f.emin).toNat + 1
    if e < (if f.ieee then 2 ^ f.ebits - 1 else 2 ^ f.ebits) then some (f.code neg e (q - 2 ^ f.frac)) else none

/-- The code of the exact positive magnitude (a / b) × 2^e in an IEEE format. -/
def Fmt.ofRatio (f : Fmt) (rm : RMode) (neg : Bool) (a b : Nat) (e : Int) : Nat :=
  if a = 0 then f.zero neg
  else
    let r := roundMag f rm neg a b e
    (f.encode neg r.1 r.2).getD (f.overflow rm neg)

/-- Round(v, format, mode) to an IEEE format (05 R129, R133, R134). -/
def Fmt.ofVal (f : Fmt) (rm : RMode) (v : FVal) : Nat :=
  match v with
  | .nan => f.nan
  | .inf neg => f.inf neg
  | .fin neg m e => f.ofRatio rm neg m 1 e

/-- Conversion of the quotient of a value and a positive number to a narrow format (05 R135). -/
def Fmt.narrowRatio (f : Fmt) (rm : RMode) (nosat : Bool) (neg : Bool) (a b : Nat) (e : Int) : Nat :=
  if a = 0 then 0
  else
    let r := roundMag f rm neg a b e
    (f.encode neg r.1 r.2).getD (if nosat then f.nan else f.top neg)

/-- Whether a code is subnormal or zero. -/
def Fmt.isTiny (f : Fmt) (x : Nat) : Bool := f.expOf x == 0

/-- FTZ on an input: a subnormal reads as zero of its sign (05 R131). -/
def Fmt.flushIn (f : Fmt) (ftz : Bool) (x : Nat) : Nat :=
  if ftz && f.isTiny x then f.code (f.signOf x) 0 0 else x

/-- FTZ on a rounded result: below the smallest normal it becomes zero of its sign (05 R131). The rule is the input's. -/
def Fmt.flushOut (f : Fmt) (ftz : Bool) (x : Nat) : Nat := f.flushIn ftz x

/-- Sign change of an exact value. -/
def FVal.negate : FVal → FVal
  | .nan => .nan
  | .inf n => .inf (!n)
  | .fin n m e => .fin (!n) m e

/-- The exact product (05 R129, R132). -/
def FVal.mul (x y : FVal) : FVal :=
  match x, y with
  | .nan, _ => .nan
  | _, .nan => .nan
  | .inf a, .inf b => .inf (xor a b)
  | .inf a, .fin b m _ => if m = 0 then .nan else .inf (xor a b)
  | .fin a m _, .inf b => if m = 0 then .nan else .inf (xor a b)
  | .fin a m e, .fin b n k => .fin (xor a b) (m * n) (e + k)

/-- A signed magnitude as an integer. -/
def signed (neg : Bool) (m : Nat) : Int := if neg then -(m : Int) else m

/-- The exact sum of two finite values; an exact zero is signed under R132. -/
def addFin (rm : RMode) (a : Bool) (m : Nat) (e : Int) (b : Bool) (n : Nat) (k : Int) : FVal :=
  if m = 0 ∧ n = 0 then .fin (if a = b then a else decide (rm = .rd)) 0 0
  else if m = 0 then .fin b n k
  else if n = 0 then .fin a m e
  else
    let u := min e k
    let x := signed a (m * 2 ^ (e - u).toNat) + signed b (n * 2 ^ (k - u).toNat)
    if x = 0 then .fin (decide (rm = .rd)) 0 0 else .fin (decide (x < 0)) x.natAbs u

/-- The exact sum (05 R129, R132). -/
def FVal.add (rm : RMode) (x y : FVal) : FVal :=
  match x, y with
  | .nan, _ => .nan
  | _, .nan => .nan
  | .inf a, .inf b => if a = b then .inf a else .nan
  | .inf a, .fin _ _ _ => .inf a
  | .fin _ _ _, .inf b => .inf b
  | .fin a m e, .fin b n k => addFin rm a m e b n k

/-- Comparison of finite or infinite values: less, and equal; −0 equals +0 (08 R215). -/
def finInt (a : Bool) (m : Nat) (e u : Int) : Int := signed a (m * 2 ^ (e - u).toNat)
def FVal.lt (x y : FVal) : Bool :=
  match x, y with
  | .nan, _ => false
  | _, .nan => false
  | .inf a, .inf b => a && !b
  | .inf a, .fin _ _ _ => a
  | .fin _ _ _, .inf b => !b
  | .fin a m e, .fin b n k => decide (finInt a m e (min e k) < finInt b n k (min e k))
def FVal.eq (x y : FVal) : Bool :=
  match x, y with
  | .nan, _ => false
  | _, .nan => false
  | .inf a, .inf b => a == b
  | .inf _, .fin _ _ _ => false
  | .fin _ _ _, .inf _ => false
  | .fin a m e, .fin b n k => decide (finInt a m e (min e k) = finInt b n k (min e k))

/-- Whether a value is a NaN or an infinity. -/
def FVal.isNan : FVal → Bool
  | .nan => true
  | _ => false
def FVal.isInf : FVal → Bool
  | .inf _ => true
  | _ => false

/-- The quotient, rounded (08 R211). -/
def Fmt.div (f : Fmt) (rm : RMode) (x y : FVal) : Nat :=
  match x, y with
  | .nan, _ => f.nan
  | _, .nan => f.nan
  | .inf _, .inf _ => f.nan
  | .inf a, .fin b _ _ => f.inf (xor a b)
  | .fin a _ _, .inf b => f.zero (xor a b)
  | .fin a m e, .fin b n k =>
    if n = 0 then (if m = 0 then f.nan else f.inf (xor a b)) else f.ofRatio rm (xor a b) m n (e - k)

/-- The square root, rounded (08 R211): the integer root of a scaled mantissa with a last bit that says whether it is exact. -/
def Fmt.sqrt (f : Fmt) (rm : RMode) (x : FVal) : Nat :=
  match x with
  | .nan => f.nan
  | .inf neg => if neg then f.nan else f.inf false
  | .fin neg m e =>
    if m = 0 then f.zero neg
    else if neg then f.nan
    else
      let odd := (e % 2).toNat
      let n := m * 2 ^ (odd + 2 * (f.frac + 4))
      let h := (e - odd) / 2 - (f.frac + 4)
      let r := isqrt n
      f.ofRatio rm false (2 * r + boolNat (decide (r * r ≠ n))) 1 (h - 1)

/-- Round of an exact value to an integer (00 R13). -/
def roundToInt (rm : RMode) (neg : Bool) (m : Nat) (e : Int) : Int :=
  signed neg (roundQuot rm neg (m * 2 ^ e.toNat) (2 ^ (-e).toNat))

/-- A floating value converted to an integer of a range (05 R136). -/
def FVal.toInt (rm : RMode) (lo hi : Int) (v : FVal) : Int :=
  match v with
  | .nan => 0
  | .inf neg => if neg then lo else hi
  | .fin neg m e => satInt (roundToInt rm neg m e) lo hi

/-- A value rounded to an integral value of a format; a zero keeps the sign (08 R218). -/
def Fmt.integral (f : Fmt) (rm : RMode) (v : FVal) : Nat :=
  match v with
  | .nan => f.nan
  | .inf neg => f.inf neg
  | .fin neg m e => if 0 ≤ e then f.ofVal rm v else f.ofVal rm (.fin neg (roundToInt rm neg m e).natAbs 0)

/-- An integer as an exact value. -/
def FVal.ofInt (x : Int) : FVal := .fin (decide (x < 0)) x.natAbs 0

/-- The value of a KS word (05 R137, R138): its scale as a multiple of 2^(E − 128), or none where it is a NaN. -/
def scaleOf (ks : Nat) : Option (Nat × Int) :=
  let e := bitsOf ks 15 8
  if e = 0xFF then none else some (if ks.testBit 7 then 3 else 2, (e : Int) - 128)

/-- The block index of a KS word. -/
def btagOf (ks : Nat) : Nat := ks % 128

/-- A value multiplied by a KS scale; a NaN scale gives a NaN (05 R138). -/
def FVal.scaled (v : FVal) (ks : Nat) : FVal :=
  match scaleOf ks with
  | none => .nan
  | some (n, k) => v.mul (.fin false n k)

/-- Classes of R219. -/
def Fmt.classBit (f : Fmt) (x : Nat) : Nat :=
  let neg := f.signOf x
  let e := f.expOf x
  let m := f.fracOf x
  if e = 2 ^ f.ebits - 1 then
    (if m = 0 then (if neg then 0 else 7) else if m.testBit (f.frac - 1) then 9 else 8)
  else if e = 0 then
    (if m = 0 then (if neg then 3 else 4) else if neg then 2 else 5)
  else if neg then 1 else 6

/-- FREXP (08 R221): the fraction and the exponent. -/
def Fmt.frexpMan (f : Fmt) (v : FVal) : Nat :=
  match v with
  | .nan => f.nan
  | .inf neg => f.inf neg
  | .fin neg m _ => if m = 0 then f.zero neg else f.ofVal .rn (.fin neg m (-(m.log2 : Int) - 1))
def frexpExp (v : FVal) : Int :=
  match v with
  | .nan => 0
  | .inf _ => 0
  | .fin _ m e => if m = 0 then 0 else (m.log2 : Int) + e + 1

/-- FSCALE (08 R220). An exponent beyond ±5,000 gives what 5,000 gives in every format. -/
def Fmt.scale (f : Fmt) (rm : RMode) (v : FVal) (b : Int) : Nat :=
  match v with
  | .nan => f.nan
  | .inf neg => f.inf neg
  | .fin neg m e => if m = 0 then f.zero neg else f.ofRatio rm neg m 1 (e + satInt b (-5000) 5000)

/-- FMIN and FMAX on codes (08 R214); `hi` selects the maximum. -/
def Fmt.minMax (f : Fmt) (hi : Bool) (a b : Nat) : Nat :=
  let x := f.decode a
  let y := f.decode b
  match x.isNan, y.isNan with
  | true, true => f.nan
  | true, false => b
  | false, true => a
  | false, false =>
    let less := x.lt y || (x.eq y && f.signOf a && !f.signOf b)
    if less then (if hi then b else a) else (if hi then a else b)

/-- Whether a code is a NaN or an infinity of an IEEE format. -/
def Fmt.isNanCode (f : Fmt) (x : Nat) : Bool := (f.decode x).isNan
def Fmt.isInfCode (f : Fmt) (x : Nat) : Bool := (f.decode x).isInf

/-- The selected classes of a code: bit 0 a NaN, bit 1 an infinity (08 R230, 18 R457). -/
def Fmt.selBits (f : Fmt) (x : Nat) : Nat := boolNat (f.isNanCode x) + 2 * boolNat (f.isInfCode x)

end Sys2Proof.Machine
end

