-- ==== Sys2Proof/Machine/Sfu.lean ====
section
/-! DEFINITION. The special functions FRSQ, FEX2, FLG2, FSIN and FCOS (08 R217, R223): their special results, and elsewhere the value
that the implementation's fixed function gives where it lies within the bound that the manual states, else the exact result rounded.
Exact results are computed in fixed point with far more bits than the bounds need. -/

namespace Sys2Proof.Machine

/-- Fraction bits of the series, and of the values that the bounds compare. -/
def serBits : Nat := 200
def cmpBits : Nat := 400

/-- `n` terms of Σ 1 / (k 2^k) from term `k`, which sums to ln 2. -/
def ln2From (k : Nat) : Nat → Nat
  | 0 => 0
  | n + 1 => 2 ^ serBits / (k * 2 ^ k) + ln2From (k + 1) n
def ln2Fix : Nat := ln2From 1 210

/-- `n` terms of Σ t^k / k! from term `k`, whose value is `term`. -/
def expFrom (t term k : Nat) : Nat → Nat
  | 0 => 0
  | n + 1 => term + expFrom t (term * t / 2 ^ serBits / (k + 1)) (k + 1) n

/-- `n` terms of the arc tangent of 1 / `d`. -/
def atanFrom (d k : Nat) : Nat → Int
  | 0 => 0
  | n + 1 =>
    let x : Int := (2 ^ serBits / ((2 * k + 1) * d ^ (2 * k + 1)) : Nat)
    (if k % 2 = 0 then x else -x) + atanFrom d (k + 1) n

/-- π by Machin's formula. -/
def piFix : Int := 16 * atanFrom 5 0 50 - 4 * atanFrom 239 0 20

/-- `n` terms of the sine series of `t` from term `k`, whose magnitude is `term`. -/
def sinFrom (t term : Int) (k : Nat) : Nat → Int
  | 0 => 0
  | n + 1 => (if k % 2 = 0 then term else -term)
      + sinFrom t (term * t / 2 ^ serBits * t / 2 ^ serBits / ((2 * k + 2) * (2 * k + 3))) (k + 1) n

/-- `n` terms of the inverse hyperbolic tangent series of `z` from term `k`, with `pow` = z^(2k + 1). -/
def atanhFrom (z pow k : Nat) : Nat → Nat
  | 0 => 0
  | n + 1 => pow / (2 * k + 1) + atanhFrom z (pow * z / 2 ^ serBits * z / 2 ^ serBits) (k + 1) n

/-- A series value at the precision of the comparisons. -/
def toCmp (x : Int) : Int := x * 2 ^ (cmpBits - serBits)

/-- 1 / √(m × 2^e). -/
def exactRsq (m : Nat) (e : Int) : Int := isqrt (2 ^ (2 * (cmpBits : Int) - e).toNat / m)

/-- 2^a for a = x / 2^serBits; below 2^−200 it is 0. -/
def exactEx2 (x : Int) : Int :=
  let n := Int.fdiv x (2 ^ serBits)
  let f := (Int.fmod x (2 ^ serBits)).toNat
  let p := expFrom (f * ln2Fix / 2 ^ serBits) (2 ^ serBits) 0 60
  if n < -200 then 0 else (p : Int) * 2 ^ (cmpBits - serBits + n).toNat

/-- log2 (m × 2^e). -/
def exactLg2 (m : Nat) (e : Int) : Int :=
  let k := m.log2
  let z := (m - 2 ^ k) * 2 ^ serBits / (m + 2 ^ k)
  toCmp ((2 * atanhFrom z z 0 80 * 2 ^ serBits / ln2Fix : Nat) + ((k : Int) + e) * 2 ^ serBits)

/-- sin (π r) for r = x / 2^serBits ≥ 0. -/
def exactSinPi (x : Nat) : Int :=
  let r := x % 2 ^ (serBits + 1)
  let neg := decide (2 ^ serBits ≤ r)
  let r1 := r % 2 ^ serBits
  let r2 : Nat := if 2 ^ (serBits - 1) < r1 then 2 ^ serBits - r1 else r1
  let t := piFix * r2 / 2 ^ serBits
  let v := toCmp (sinFrom t t 0 40)
  if neg then -v else v

/-- One unit in the last place of an exact result (08 R217). -/
def ulpCmp (x : Int) : Int := 2 ^ (max (if x = 0 then 0 else x.natAbs.log2) (cmpBits - 126) - 23)

/-- A code at the precision of the comparisons: an infinity counts as 2^128. -/
def codeCmp (x : Nat) : Option Int :=
  match fp32.decode x with
  | .nan => none
  | .inf neg => some (signed neg (2 ^ (128 + cmpBits)))
  | .fin neg m e => some (signed neg (m * 2 ^ (cmpBits + e).toNat))

/-- Whether a code surely lies within `ulps` of the exact result, or within the absolute bound `absb`: the error of the series, less than
2^−100 of the bound, is taken off the bound, so that no code outside the bound passes. -/
def withinBound (x : Int) (ulps : Int) (absb : Int) (code : Nat) : Bool :=
  match codeCmp code with
  | none => false
  | some c =>
    let bound := max (ulps * ulpCmp x) absb
    decide (((c - x).natAbs : Int) * 2 ^ 100 ≤ bound * 2 ^ 100 - bound)

/-- Whether a code lies within 1 ulp of 1 / √(m × 2^e), compared exactly by squares; `x` is the exact result cut to `cmpBits`, which lies in
the same binade. -/
def withinRsq (m : Nat) (e : Int) (x : Int) (code : Nat) : Bool :=
  match codeCmp code with
  | none => false
  | some c =>
    let low := c - ulpCmp x
    let high := c + ulpCmp x
    let one : Int := 2 ^ (2 * (cmpBits : Int) - e).toNat
    decide ((low ≤ 0 ∨ low * low * m ≤ one) ∧ 0 ≤ high ∧ one ≤ high * high * m)

/-- The implementation's value where it meets the bound, else the exact result rounded. -/
def valueWithin (fn : Config.SfuFn) (a : Nat) (x : Int) (ok : Nat → Bool) : Nat :=
  let v := (Config.sfu fn (w32 a)).toNat
  if ok v then v else fp32.ofVal .rn (.fin (decide (x < 0)) x.natAbs (-(cmpBits : Int)))
def boundedValue (fn : Config.SfuFn) (a : Nat) (x ulps absb : Int) : Nat := valueWithin fn a x (withinBound x ulps absb)

/-- A magnitude in units of 2^−serBits. -/
def fixMag (m : Nat) (e : Int) : Nat := m * 2 ^ (serBits + e).toNat

/-- Whether m × 2^e is an integer, a half-integer, and its integer part. -/
def isWhole (m : Nat) (e : Int) : Bool := fixMag m e % 2 ^ serBits == 0
def isHalf (m : Nat) (e : Int) : Bool := fixMag m e % 2 ^ serBits == 2 ^ (serBits - 1)
def wholePart (m : Nat) (e : Int) : Nat := fixMag m e / 2 ^ serBits

/-- The code of ±1. -/
def oneCode (neg : Bool) : Nat := fp32.code neg 127 0

/-- FRSQ (R217). -/
def sfuRsq (a : Nat) : Nat :=
  match fp32.decode a with
  | .nan => fp32.nan
  | .inf neg => if neg then fp32.nan else 0
  | .fin neg m e =>
    if m = 0 then fp32.inf neg
    else if neg then fp32.nan
    else valueWithin .frsq a (exactRsq m e) (withinRsq m e (exactRsq m e))

/-- FEX2 (R223). -/
def sfuEx2 (a : Nat) : Nat :=
  match fp32.decode a with
  | .nan => fp32.nan
  | .inf neg => if neg then 0 else fp32.inf false
  | .fin neg m e =>
    let x := signed neg (fixMag m e)
    if 128 * 2 ^ serBits ≤ x then fp32.inf false
    else if isWhole m e ∧ -149 * 2 ^ serBits ≤ x then fp32.ofVal .rn (.fin false 1 (signed neg (wholePart m e)))
    else boundedValue .fex2 a (exactEx2 x) 2 0

/-- FLG2 (R223). -/
def sfuLg2 (a : Nat) : Nat :=
  match fp32.decode a with
  | .nan => fp32.nan
  | .inf neg => if neg then fp32.nan else fp32.inf false
  | .fin neg m e =>
    if m = 0 then fp32.inf true
    else if neg then fp32.nan
    else if m = 2 ^ m.log2 then fp32.ofVal .rn (FVal.ofInt ((m.log2 : Int) + e))
    else
      let near := decide (2 ^ serBits ≤ 2 * fixMag m e ∧ fixMag m e ≤ 2 * 2 ^ serBits)
      boundedValue .flg2 a (exactLg2 m e) (if near then 0 else 2) (if near then 2 ^ (cmpBits - 22) else 0)

/-- FSIN and FCOS (R223). -/
def sfuSin (a : Nat) : Nat :=
  match fp32.decode a with
  | .nan => fp32.nan
  | .inf _ => fp32.nan
  | .fin neg m e =>
    if isWhole m e then fp32.zero neg
    else if isHalf m e then oneCode (xor neg (wholePart m e % 2 == 1))
    else
      let x := exactSinPi (fixMag m e)
      boundedValue .fsin a (if neg then -x else x) 2 (2 ^ (cmpBits - 24))
def sfuCos (a : Nat) : Nat :=
  match fp32.decode a with
  | .nan => fp32.nan
  | .inf _ => fp32.nan
  | .fin _ m e =>
    if isWhole m e then oneCode (wholePart m e % 2 == 1)
    else if isHalf m e then 0
    else boundedValue .fcos a (exactSinPi (fixMag m e + 2 ^ (serBits - 1))) 2 (2 ^ (cmpBits - 24))

end Sys2Proof.Machine
end

