-- ==== Sys2Proof/Machine/Float.lean ====
section
/-! DEFINITION. Floating point, conversion and TMV: groups 0x5 to 0x7 (08 R210 to R234). Every operand field of a lane function is a
double word: a register zero-extended, or a pair. -/

namespace Sys2Proof.Machine

/-- The format of a type, with the instruction's default for code 0 (R212). -/
def fmtOf (d : Fmt) : Ty → Fmt
  | .f32 => fp32
  | .f64 => fp64
  | .f16 | .f16x2 => fp16
  | .bf16 | .bf16x2 => bf16
  | _ => d

/-- Registers of a value of a format. -/
def fmtRegs (F : Fmt) : Nat := if F.width = 64 then 2 else 1

/-- Whether FTZ acts on a format (05 R131). -/
def ftzOn (F : Fmt) (ftz : Bool) : Bool := ftz && decide (F ≠ fp64)

/-- The code of an operand in a format, after FTZ. -/
def opCode (F : Fmt) (ftz : Bool) (x : DWord) : Nat := F.flushIn (ftzOn F ftz) (x.toNat % 2 ^ F.width)
def opVal (F : Fmt) (ftz : Bool) (x : DWord) : FVal := F.decode (opCode F ftz x)

/-- A result code as it is written, after FTZ. -/
def resWord (F : Fmt) (ftz : Bool) (x : Nat) : DWord := w64 (F.flushOut (ftzOn F ftz) x)

/-- The operations of R211 on one value of a format. -/
def laneFadd (F : Fmt) (m : RArith) (a b : DWord) : DWord :=
  resWord F m.ftz (F.ofVal m.rm ((opVal F m.ftz a).add m.rm (opVal F m.ftz b)))
def laneFsub (F : Fmt) (m : RArith) (a b : DWord) : DWord :=
  resWord F m.ftz (F.ofVal m.rm ((opVal F m.ftz a).add m.rm (opVal F m.ftz b).negate))
def laneFmul (F : Fmt) (m : RArith) (a b : DWord) : DWord :=
  resWord F m.ftz (F.ofVal m.rm ((opVal F m.ftz a).mul (opVal F m.ftz b)))
def laneFfma (F : Fmt) (m : RArith) (a b c : DWord) : DWord :=
  resWord F m.ftz (F.ofVal m.rm (((opVal F m.ftz a).mul (opVal F m.ftz b)).add m.rm (opVal F m.ftz c)))
def laneFmin (F : Fmt) (m : RArith) (a b : DWord) : DWord := w64 (F.minMax false (opCode F m.ftz a) (opCode F m.ftz b))
def laneFmax (F : Fmt) (m : RArith) (a b : DWord) : DWord := w64 (F.minMax true (opCode F m.ftz a) (opCode F m.ftz b))
def laneFrcp (F : Fmt) (m : RArith) (a : DWord) : DWord := resWord F m.ftz (F.div m.rm (.fin false 1 0) (opVal F m.ftz a))
def laneFdiv (F : Fmt) (m : RArith) (a b : DWord) : DWord := resWord F m.ftz (F.div m.rm (opVal F m.ftz a) (opVal F m.ftz b))
def laneFsqrt (F : Fmt) (m : RArith) (a : DWord) : DWord := resWord F m.ftz (F.sqrt m.rm (opVal F m.ftz a))

/-- FRND, FCLASS, FSCALE and FREXP (R218 to R221). -/
def laneFrnd (F : Fmt) (m : RArith) (a : DWord) : DWord := resWord F m.ftz (F.integral m.rm (opVal F m.ftz a))
def laneFclass (F : Fmt) (a : DWord) : DWord := w64 (2 ^ F.classBit (opCode F false a))
def laneFscale (F : Fmt) (m : RArith) (a b : DWord) : DWord :=
  resWord F m.ftz (F.scale m.rm (opVal F m.ftz a) (lowWord b).toInt)
def laneFrexp (F : Fmt) (m : RArith) (a : DWord) : DWord :=
  if m.sub = 0 then resWord F m.ftz (F.frexpMan (opVal F m.ftz a))
  else (wrapN 32 (frexpExp (opVal F m.ftz a))).zeroExtend 64

/-- The conditions of R215. -/
def fcondHolds (code : Nat) (x y : FVal) : Bool :=
  let ordered := !x.isNan && !y.isNan
  match code with
  | 0 => x.eq y
  | 1 => !(x.eq y)
  | 2 => x.lt y
  | 3 => x.lt y || x.eq y
  | 4 => y.lt x
  | 5 => y.lt x || x.eq y
  | 6 => ordered
  | _ => !ordered
def laneFsetp (F : Fmt) (m : RArith) (a b c : DWord) : DWord :=
  boolRes (combine m.sub (fcondHolds (m.sub.toNat % 8) (opVal F m.ftz a) (opVal F m.ftz b)) c)
def laneFsel (F : Fmt) (m : RArith) (a b c : DWord) : DWord :=
  if fcondHolds (m.sub.toNat % 8) (opVal F m.ftz c) (.fin false 0 0) then a else b

/-- The packed operations of R222, half by half. -/
def half (x : DWord) (i : Nat) : DWord := w64 (x.toNat / 2 ^ (16 * i) % 2 ^ 16)
def perHalf (f : Nat → DWord) : DWord := f 0 ||| (f 1 <<< 16)
def lanePkadd (F : Fmt) (m : RArith) (a b : DWord) : DWord := perHalf (fun i => laneFadd F m (half a i) (half b i))
def lanePkmul (F : Fmt) (m : RArith) (a b : DWord) : DWord := perHalf (fun i => laneFmul F m (half a i) (half b i))
def lanePkfma (F : Fmt) (m : RArith) (a b c : DWord) : DWord :=
  perHalf (fun i => laneFfma F m (half a i) (half b i) (half c i))

/-- The special functions with FTZ on input and result (R217, R223). -/
def laneSfu (f : Nat → Nat) (m : RArith) (a : DWord) : DWord := resWord fp32 m.ftz (f (opCode fp32 m.ftz a))

/-- CVT (R224): code 0 is FP32 in both fields. -/
def laneCvt (m : RArith) (a : DWord) : DWord :=
  let d := subTy m.sub
  let x : FVal := if cvtFloat m.ty then opVal (fmtOf fp32 m.ty) m.ftz a else .ofInt (intOf m.ty a)
  if cvtFloat d then
    let F := fmtOf fp32 d
    resWord F m.ftz (F.ofVal m.rm x)
  else
    let y := extendTo d (x.toInt m.rm (tyMin d) (tyMax d))
    if tyRegs d = 2 then wrapN 64 y else (wrapN 32 y).zeroExtend 64

/-- The narrow formats of FMT: the floating format, or none for `.s8` and `.s4`; elements in a register and their width (R225). -/
def narrowFmt (fmt : Nat) : Option Fmt :=
  match fmt with
  | 0 => some f8a
  | 1 => some f8b
  | 2 => some f4
  | _ => none
def narrowCount (fmt : Nat) : Nat := if fmt = 2 ∨ fmt = 4 then 8 else 4

/-- One element of CVTN: the quotient of a value and a KS scale as a code (R225). -/
def narrowCode (m : RNarrow) (x : FVal) (ks : Nat) : Nat :=
  let fmt := m.fmt.toNat
  let w := 32 / narrowCount fmt
  match narrowFmt fmt with
  | some F =>
    match x, scaleOf ks with
    | .nan, _ => F.nan
    | _, none => F.nan
    | .inf neg, some _ => if m.nosat then F.nan else F.top neg
    | .fin neg a e, some (n, k) => F.narrowRatio m.rm m.nosat neg a n (e - k)
  | none =>
    let lo : Int := -(2 ^ (w - 1) : Int)
    let hi : Int := 2 ^ (w - 1) - 1
    let q : Int := match x, scaleOf ks with
      | .nan, _ => 0
      | _, none => 0
      | .inf neg, some _ => if neg then lo else hi
      | .fin neg a e, some (n, k) => satInt (signed neg (roundQuot m.rm neg (a * 2 ^ (e - k).toNat) (n * 2 ^ (k - e).toNat))) lo hi
    (q % 2 ^ w).toNat

/-- The value of a narrow element (R226). -/
def narrowVal (fmt : Nat) (code : Nat) : FVal :=
  match narrowFmt fmt with
  | some F => F.decode code
  | none =>
    let w := 32 / narrowCount fmt
    .ofInt (if code.testBit (w - 1) then (code : Int) - 2 ^ w else code)

/-- Element `i` of a register of narrow elements. -/
def narrowElem (fmt : Nat) (x : Nat) (i : Nat) : Nat :=
  let w := 32 / narrowCount fmt
  x / 2 ^ (w * i) % 2 ^ w

/-- One element of CVTW (R226). -/
def widenCode (m : RNarrow) (code ks : Nat) : Nat :=
  (fmtOf fp32 m.ty).ofVal m.rm ((narrowVal m.fmt.toNat code).scaled ks)

/-- PACK and UNPACK (R227). -/
def putField (x v pos w : Nat) : Nat := x - x / 2 ^ pos % 2 ^ w * 2 ^ pos + v % 2 ^ w * 2 ^ pos
def lanePack (m : RArith) (a b c : DWord) : DWord :=
  let x := (lowWord a).toNat
  let y := (lowWord b).toNat
  let i := (lowWord c).toNat
  match m.sub.toNat with
  | 0 => w64 (y % 2 ^ 16 * 2 ^ 16 + x % 2 ^ 16)
  | 1 => w64 (y / 2 ^ 16 * 2 ^ 16 + x / 2 ^ 16)
  | 2 => w64 (putField y x (8 * (i % 4)) 8)
  | _ => w64 (putField y x (4 * (i % 8)) 4)
def laneUnpack (m : RArith) (a b : DWord) : DWord :=
  let x := (lowWord a).toNat
  let i := (lowWord b).toNat
  match m.sub.toNat with
  | 0 => w64 (x % 2 ^ 16)
  | 1 => w64 (x / 2 ^ 16)
  | 2 => w64 (x / 2 ^ (8 * (i % 4)) % 2 ^ 8)
  | _ => w64 (x / 2 ^ (4 * (i % 8)) % 2 ^ 4)

/-- The classes of the elements of a value: bit 0 a NaN, bit 1 an infinity; `n` elements of a format. -/
def elemBits (F : Fmt) (n : Nat) (x : Nat) : Nat :=
  (List.range n).foldl (fun b i => b ||| F.selBits (x / 2 ^ (F.width * i) % 2 ^ F.width)) 0

/-- FP_NONFINITE of the lanes of which `sel` is nonzero (R230, 18 R457). -/
def nonfiniteFault (g : Word) (sel : Nat → Nat) : Option FaultInfo :=
  let m := maskOf (fun l => inMask g l && sel l != 0)
  if m = 0 then none
  else some { cause := cNonfinite, lanes := m, detail := (maskLanes m).foldl (fun b l => b ||| sel l) 0 }

/-- A checked instruction: the warp with its results, unless an enabled check selects one (R228, R230). -/
def fpChecked (s : State) (c : Ctx) (cls : Nat → Nat) (w : Warp) : Res :=
  match nonfiniteFault c.g (fun l => cls l &&& (c.w.fpmode.toNat % 4)) with
  | some f => .fault f s
  | none => .warp w

/-- A checked instruction of one result of `n` elements of a format in each lane. -/
def fpOp (s : State) (c : Ctx) (F : Fmt) (n : Nat) (d : Opnd) (f : Nat → DWord) : Res :=
  fpChecked s c (fun l => elemBits F n (f l).toNat) (writeLanes c (fmtRegs F) d f)

/-- Checked instructions of one, two and three sources of a format. -/
def fp1 (s : State) (c : Ctx) (F : Fmt) (n : Nat) (d a : Opnd) (f : DWord → DWord) : Res :=
  fpOp s c F n d (fun l => f (srcN c.w (fmtRegs F) a l))
def fp2 (s : State) (c : Ctx) (F : Fmt) (n : Nat) (d a b : Opnd) (f : DWord → DWord → DWord) : Res :=
  fpOp s c F n d (fun l => f (srcN c.w (fmtRegs F) a l) (srcN c.w (fmtRegs F) b l))
def fp3 (s : State) (c : Ctx) (F : Fmt) (n : Nat) (d a b e : Opnd) (f : DWord → DWord → DWord → DWord) : Res :=
  fpOp s c F n d (fun l => f (srcN c.w (fmtRegs F) a l) (srcN c.w (fmtRegs F) b l) (srcN c.w (fmtRegs F) e l))

/-- A checked I-form instruction at FP32 (R213). -/
def fpI (s : State) (c : Ctx) (f : IForm) (g : DWord → DWord → DWord) : Res :=
  fpOp s c fp32 1 (.v f.d) (fun l => g (srcN c.w 1 (.v f.a) l) (immSrc f))

/-- The elements of CVTN in a lane (R225), and its result register. -/
def cvtnElems (m : RNarrow) (w : Warp) (l : Nat) : List Nat :=
  (List.range (narrowCount m.fmt.toNat)).map (fun i =>
    narrowCode m (fp32.decode (srcWord w m.a i l).toNat) ((src32 w m.b l).toNat % 2 ^ 16))
def packElems (w : Nat) : List Nat → Nat
  | [] => 0
  | x :: t => x + 2 ^ w * packElems w t
def cvtnWord (m : RNarrow) (w : Warp) (l : Nat) : DWord := w64 (packElems (32 / narrowCount m.fmt.toNat) (cvtnElems m w l))
def cvtnSel (m : RNarrow) (w : Warp) (l : Nat) : Nat :=
  match narrowFmt m.fmt.toNat with
  | some F => boolNat ((cvtnElems m w l).any (fun x => F.nanCode == some x))
  | none => 0

/-- The result codes of CVTW in a lane (R226). -/
def cvtwElems (m : RNarrow) (w : Warp) (l : Nat) : List Nat :=
  (List.range (narrowCount m.fmt.toNat)).map (fun i =>
    widenCode m (narrowElem m.fmt.toNat (src32 w m.a l).toNat i) ((src32 w m.b l).toNat % 2 ^ 16))

/-- Writes a list of words to consecutive registers of a lane. -/
def putWords (w : Warp) (d : Opnd) (l : Nat) (xs : List Word) : Warp :=
  (List.range xs.length).foldl (fun w i => dstWord w d i l (nthD xs i 0)) w

/-- Pairs of half-width codes as words. -/
def pairHalves : List Nat → List Word
  | a :: b :: t => w32 (a + 2 ^ 16 * b) :: pairHalves t
  | [a] => [w32 a]
  | [] => []
def cvtwWords (m : RNarrow) (w : Warp) (l : Nat) : List Word :=
  if m.ty = .bf16x2 then pairHalves (cvtwElems m w l) else (cvtwElems m w l).map w32

/-- The selected classes of a list of codes. -/
def listSel (F : Fmt) (l : List Nat) : Nat := l.foldl (fun b x => b ||| F.selBits x) 0

/-- TMV (R232 to R234): weight width, rows, columns, stride and the bytes that a lane's matrix spans. -/
def tmvZ (f : RTmv) : Nat := if f.wty = .bf16 then 2 else 4
def tmvM (f : RTmv) : Nat := f.m.toNat + 1
def tmvN (f : RTmv) : Nat := f.n.toNat + 1
def tmvStride (f : RTmv) : Nat := roundUp (tmvN f * tmvZ f) 16
def tmvSpan (f : RTmv) : Nat := (tmvM f - 1) * tmvStride f + tmvN f * tmvZ f

/-- The value of a weight: BF16 is widened exactly (05 R144). -/
def weightVal (bf : Bool) (x : Nat) : FVal := if bf then bf16.decode x else fp32.decode x

/-- One step of the chain of R144. -/
def tmvStep (acc : Nat) (w x : FVal) : Nat := fp32.ofVal .rn ((w.mul x).add .rn (fp32.decode acc))

/-- The chain of one row in a lane: `wt` gives the weight of a column. -/
def tmvRow (f : RTmv) (w : Warp) (l i : Nat) (wt : Nat → FVal) : Nat :=
  let start := if f.c = .vz then 0x80000000 else (srcWord w f.c i l).toNat
  (List.range (tmvN f)).foldl (fun acc j => tmvStep acc (wt j) (fp32.decode (srcWord w f.a j l).toNat)) start

/-- The place of weight (i, j) of a lane whose matrix stands at an offset. -/
def tmvAt (f : RTmv) (o i j : Nat) : Nat := o + i * tmvStride f + j * tmvZ f

/-- The results of TMV in a lane. -/
def tmvLane (f : RTmv) (w : Warp) (bytes : List Host.Cell) (l : Nat) : List Nat :=
  (List.range (tmvM f)).map (fun i => tmvRow f w l i (fun j =>
    weightVal (decide (f.wty = .bf16)) (rdConst bytes (tmvAt f (src32 w f.b l).toNat i j) (tmvZ f))))

/-- The accesses of TMV: each lane's matrix, and each weight that it reads. -/
def tmvAccs (f : RTmv) (c : Ctx) : List Acc :=
  (maskLanes c.g).map (fun l => { lane := l, addr := (src32 c.w f.b l).toNat, n := tmvSpan f })
def tmvReads (f : RTmv) (c : Ctx) : List (Acc × Place) :=
  (maskLanes c.g).flatMap (fun l => (List.range (tmvM f)).flatMap (fun i => (List.range (tmvN f)).map (fun j =>
    let o := tmvAt f (src32 c.w f.b l).toNat i j
    ({ lane := l, addr := o, n := tmvZ f }, Place.const o))))

def bodyTmv (f : RTmv) (s : State) (c : Ctx) : Res :=
  withAccess s c .const 16 0 needR 0 false (tmvAccs f c) (fun s1 _ =>
    let bad := lostAccs s1 c 0 (tmvReads f c)
    if bad = [] then
      let bytes := ((constImg s1 c).map (fun x => x.bytes)).getD []
      fpChecked s1 c (fun l => listSel fp32 (tmvLane f c.w bytes l))
        (eachLane c.g (fun w l => putWords w f.d l ((tmvLane f c.w bytes l).map w32)) c.w)
    else
      let (x, s2) := dataFault s1 c bad
      .fault x s2)

/-- FPMODE (R229): the old mode word to each lane, and the new one from the lowest; reserved bits are refused (18 R450). -/
def setFpmode (s : State) (c : Ctx) (d : Opnd) (x : Word) : Res :=
  if c.g = 0 then .warp c.w
  else if 8 ≤ x.toNat then .fault { cause := cOutOfRange, lanes := laneMask (lane0 c.g), detail := 14 } s
  else .warp { writeLanes c 1 d (fun _ => c.w.fpmode.zeroExtend 64) with fpmode := x }

/-- The formats and elements that FCHK examines (R231). -/
def fchkBits (f : RArith) (c : Ctx) (l : Nat) : Nat :=
  let F := fmtOf fp32 f.ty
  let n := if f.ty = .f16x2 ∨ f.ty = .bf16x2 then 2 else 1
  elemBits F n (srcN c.w (fmtRegs F) f.a l).toNat

/-! The meanings. -/

def execFadd (f : RArith) (s : State) : Host.Outcome State Fault Refusal :=
  warpInstr (.fadd f) s (fun c => fp2 s c (fmtOf fp32 f.ty) 1 f.d f.a f.b (laneFadd (fmtOf fp32 f.ty) f))
def execFsub (f : RArith) (s : State) : Host.Outcome State Fault Refusal :=
  warpInstr (.fsub f) s (fun c => fp2 s c (fmtOf fp32 f.ty) 1 f.d f.a f.b (laneFsub (fmtOf fp32 f.ty) f))
def execFmul (f : RArith) (s : State) : Host.Outcome State Fault Refusal :=
  warpInstr (.fmul f) s (fun c => fp2 s c (fmtOf fp32 f.ty) 1 f.d f.a f.b (laneFmul (fmtOf fp32 f.ty) f))
def execFdiv (f : RArith) (s : State) : Host.Outcome State Fault Refusal :=
  warpInstr (.fdiv f) s (fun c => fp2 s c (fmtOf fp32 f.ty) 1 f.d f.a f.b (laneFdiv (fmtOf fp32 f.ty) f))
def execFscale (f : RArith) (s : State) : Host.Outcome State Fault Refusal :=
  warpInstr (.fscale f) s (fun c => fpOp s c (fmtOf fp32 f.ty) 1 f.d (fun l => laneFscale (fmtOf fp32 f.ty) f (srcN c.w (fmtRegs (fmtOf fp32 f.ty)) f.a l) (srcN c.w 1 f.b l)))
def execFfma (f : RArith) (s : State) : Host.Outcome State Fault Refusal :=
  warpInstr (.ffma f) s (fun c => fp3 s c (fmtOf fp32 f.ty) 1 f.d f.a f.b f.c (laneFfma (fmtOf fp32 f.ty) f))
def execFrcp (f : RArith) (s : State) : Host.Outcome State Fault Refusal :=
  warpInstr (.frcp f) s (fun c => fp1 s c (fmtOf fp32 f.ty) 1 f.d f.a (laneFrcp (fmtOf fp32 f.ty) f))
def execFsqrt (f : RArith) (s : State) : Host.Outcome State Fault Refusal :=
  warpInstr (.fsqrt f) s (fun c => fp1 s c (fmtOf fp32 f.ty) 1 f.d f.a (laneFsqrt (fmtOf fp32 f.ty) f))
def execFrnd (f : RArith) (s : State) : Host.Outcome State Fault Refusal :=
  warpInstr (.frnd f) s (fun c => fp1 s c (fmtOf fp32 f.ty) 1 f.d f.a (laneFrnd (fmtOf fp32 f.ty) f))
def execFmin (f : RArith) (s : State) : Host.Outcome State Fault Refusal :=
  warpInstr (.fmin f) s (fun c => .warp (alu2 c f.d f.a f.b (fmtRegs (fmtOf fp32 f.ty)) (fmtRegs (fmtOf fp32 f.ty)) (laneFmin (fmtOf fp32 f.ty) f)))
def execFminImm (f : IForm) (s : State) : Host.Outcome State Fault Refusal :=
  warpInstr (.fminImm f) s (fun c => .warp (aluI c f (laneFmin fp32 dfltMods)))
def execFmax (f : RArith) (s : State) : Host.Outcome State Fault Refusal :=
  warpInstr (.fmax f) s (fun c => .warp (alu2 c f.d f.a f.b (fmtRegs (fmtOf fp32 f.ty)) (fmtRegs (fmtOf fp32 f.ty)) (laneFmax (fmtOf fp32 f.ty) f)))
def execFmaxImm (f : IForm) (s : State) : Host.Outcome State Fault Refusal :=
  warpInstr (.fmaxImm f) s (fun c => .warp (aluI c f (laneFmax fp32 dfltMods)))
def execFaddImm (f : IForm) (s : State) : Host.Outcome State Fault Refusal :=
  warpInstr (.faddImm f) s (fun c => fpI s c f (laneFadd fp32 dfltMods))
def execFmulImm (f : IForm) (s : State) : Host.Outcome State Fault Refusal :=
  warpInstr (.fmulImm f) s (fun c => fpI s c f (laneFmul fp32 dfltMods))
def execFsetp (f : RArith) (s : State) : Host.Outcome State Fault Refusal :=
  warpInstr (.fsetp f) s (fun c => .warp (alu3 c f.d f.a f.b f.c 1 1 1 (laneFsetp (fmtOf fp32 f.ty) f)))
def execFsel (f : RArith) (s : State) : Host.Outcome State Fault Refusal :=
  warpInstr (.fsel f) s (fun c => .warp (alu3 c f.d f.a f.b f.c (fmtRegs (fmtOf fp32 f.ty)) (fmtRegs (fmtOf fp32 f.ty)) (fmtRegs (fmtOf fp32 f.ty)) (laneFsel (fmtOf fp32 f.ty) f)))
def execFrsq (f : RArith) (s : State) : Host.Outcome State Fault Refusal :=
  warpInstr (.frsq f) s (fun c => fp1 s c fp32 1 f.d f.a (laneSfu sfuRsq f))
def execFex2 (f : RArith) (s : State) : Host.Outcome State Fault Refusal :=
  warpInstr (.fex2 f) s (fun c => fp1 s c fp32 1 f.d f.a (laneSfu sfuEx2 f))
def execFlg2 (f : RArith) (s : State) : Host.Outcome State Fault Refusal :=
  warpInstr (.flg2 f) s (fun c => fp1 s c fp32 1 f.d f.a (laneSfu sfuLg2 f))
def execFsin (f : RArith) (s : State) : Host.Outcome State Fault Refusal :=
  warpInstr (.fsin f) s (fun c => fp1 s c fp32 1 f.d f.a (laneSfu sfuSin f))
def execFcos (f : RArith) (s : State) : Host.Outcome State Fault Refusal :=
  warpInstr (.fcos f) s (fun c => fp1 s c fp32 1 f.d f.a (laneSfu sfuCos f))
def execFclass (f : RArith) (s : State) : Host.Outcome State Fault Refusal :=
  warpInstr (.fclass f) s (fun c => .warp (alu1 c f.d f.a 1 (fmtRegs (fmtOf fp32 f.ty)) (laneFclass (fmtOf fp32 f.ty))))
def execFrexp (f : RArith) (s : State) : Host.Outcome State Fault Refusal :=
  warpInstr (.frexp f) s (fun c => if f.sub = 0 then fp1 s c (fmtOf fp32 f.ty) 1 f.d f.a (laneFrexp (fmtOf fp32 f.ty) f) else .warp (alu1 c f.d f.a 1 (fmtRegs (fmtOf fp32 f.ty)) (laneFrexp (fmtOf fp32 f.ty) f)))
def execPkadd (f : RArith) (s : State) : Host.Outcome State Fault Refusal :=
  warpInstr (.pkadd f) s (fun c => fp2 s c (fmtOf fp16 f.ty) 2 f.d f.a f.b (lanePkadd (fmtOf fp16 f.ty) f))
def execPkmul (f : RArith) (s : State) : Host.Outcome State Fault Refusal :=
  warpInstr (.pkmul f) s (fun c => fp2 s c (fmtOf fp16 f.ty) 2 f.d f.a f.b (lanePkmul (fmtOf fp16 f.ty) f))
def execPkfma (f : RArith) (s : State) : Host.Outcome State Fault Refusal :=
  warpInstr (.pkfma f) s (fun c => fp3 s c (fmtOf fp16 f.ty) 2 f.d f.a f.b f.c (lanePkfma (fmtOf fp16 f.ty) f))
def execFchkTest (f : RArith) (s : State) : Host.Outcome State Fault Refusal :=
  warpInstr (.fchkTest f) s (fun c => .warp (writeLanes c 1 f.d (fun l => boolRes (decide (fchkBits f c l = 0)))))
def execFchkTrap (f : RArith) (s : State) : Host.Outcome State Fault Refusal :=
  warpInstr (.fchkTrap f) s (fun c => match nonfiniteFault c.g (fchkBits f c) with
    | some x => .fault x s
    | none => .warp c.w)
def execFpmode (f : RArith) (s : State) : Host.Outcome State Fault Refusal :=
  warpInstr (.fpmode f) s (fun c => setFpmode s c f.d (src32 c.w f.a (lane0 c.g)))
def execFpmodeImm (f : IForm) (s : State) : Host.Outcome State Fault Refusal :=
  warpInstr (.fpmodeImm f) s (fun c => setFpmode s c (.v f.d) f.imm)
def execFpmodeGet (f : RArith) (s : State) : Host.Outcome State Fault Refusal :=
  warpInstr (.fpmodeGet f) s (fun c => .warp (writeLanes c 1 f.d (fun _ => c.w.fpmode.zeroExtend 64)))
def execDadd (f : RArith) (s : State) : Host.Outcome State Fault Refusal :=
  warpInstr (.dadd f) s (fun c => fp2 s c fp64 1 f.d f.a f.b (laneFadd fp64 f))
def execDmul (f : RArith) (s : State) : Host.Outcome State Fault Refusal :=
  warpInstr (.dmul f) s (fun c => fp2 s c fp64 1 f.d f.a f.b (laneFmul fp64 f))
def execDfma (f : RArith) (s : State) : Host.Outcome State Fault Refusal :=
  warpInstr (.dfma f) s (fun c => fp3 s c fp64 1 f.d f.a f.b f.c (laneFfma fp64 f))
def execDsetp (f : RArith) (s : State) : Host.Outcome State Fault Refusal :=
  warpInstr (.dsetp f) s (fun c => .warp (alu3 c f.d f.a f.b f.c 1 2 1 (laneFsetp fp64 f)))
def execTmv (f : RTmv) (s : State) : Host.Outcome State Fault Refusal :=
  warpInstr (.tmv f) s (fun c => bodyTmv f s c)
def execCvt (f : RArith) (s : State) : Host.Outcome State Fault Refusal :=
  warpInstr (.cvt f) s (fun c => if cvtFloat (subTy f.sub) then
    fpOp s c (fmtOf fp32 (subTy f.sub)) 1 f.d (fun l => laneCvt f (srcN c.w (tyRegs f.ty) f.a l))
  else .warp (alu1 c f.d f.a (tyRegs (subTy f.sub)) (tyRegs f.ty) (laneCvt f)))
def execCvtn (f : RNarrow) (s : State) : Host.Outcome State Fault Refusal :=
  warpInstr (.cvtn f) s (fun c => fpChecked s c (cvtnSel f c.w) (writeLanes c 1 f.d (cvtnWord f c.w)))
def execCvtw (f : RNarrow) (s : State) : Host.Outcome State Fault Refusal :=
  warpInstr (.cvtw f) s (fun c => fpChecked s c (fun l => listSel (fmtOf fp32 f.ty) (cvtwElems f c.w l))
    (eachLane c.g (fun w l => putWords w f.d l (cvtwWords f c.w l)) c.w))
def execPack (f : RArith) (s : State) : Host.Outcome State Fault Refusal :=
  warpInstr (.pack f) s (fun c => .warp (alu3 c f.d f.a f.b f.c 1 1 1 (lanePack f)))
def execUnpack (f : RArith) (s : State) : Host.Outcome State Fault Refusal :=
  warpInstr (.unpack f) s (fun c => .warp (alu2 c f.d f.a f.b 1 1 (laneUnpack f)))

end Sys2Proof.Machine
end

