-- ==== Sys2Proof/Machine/Memory.lean ====
section
/-! DEFINITION. Loads, stores, atomics and reductions: groups 0x8 and 0x9 (09 R237 to R242). Each store is performed when its instruction
executes, which is one of the orders that chapter 04 allows (log 7). -/

namespace Sys2Proof.Machine

/-- Bytes of an access type (R238). -/
def accBytes : Ty → Nat
  | .s64 | .z64 | .f64 => 8
  | .s16 | .z16 => 2
  | .s8 | .z8 => 1
  | .b128 => 16
  | _ => 4

/-- Registers that hold a value of the type. -/
def accRegs (ty : Ty) : Nat := (accBytes ty + 3) / 4

/-- A loaded value as its registers hold it (R238). -/
def extendLoad (ty : Ty) (x : Nat) : Nat :=
  match ty with
  | .s16 => (((BitVec.ofNat 16 x).signExtend 32)).toNat
  | .s8 => (((BitVec.ofNat 8 x).signExtend 32)).toNat
  | _ => x

/-- The alignment of an access: its size, and at least 4 in `.spill` (R237). -/
def accAlign (sp : Space) (n : Nat) : Nat := if sp = .spill then Nat.max 4 n else n

/-- The accesses of a load or store, one for each lane (R237). -/
def memAccs (c : Ctx) (f : RMem) : List Acc :=
  (maskLanes c.g).map (fun l => { lane := l, addr := laneAddr c.w f.space f.a f.off.toInt l, n := accBytes f.ty })

/-- Writes loaded values to the destination of their lanes. -/
def putLoads (ty : Ty) (d : Opnd) (vals : List (Nat × Nat)) (w : Warp) : Warp :=
  vals.foldl (fun w e => dstNat w d e.1 0 (accRegs ty) (extendLoad ty e.2)) w

def bodyLd (f : RMem) (s : State) (c : Ctx) : Res :=
  withAccess s c f.space (accAlign f.space (accBytes f.ty)) 0 needR f.scope.toNat true (memAccs c f) (fun s1 l =>
    let (vals, s2) := readAll s1 c f.scope.toNat l
    .done (modWarp (acquireAt s2 c f.space (annAcq f.ann && decide (c.g ≠ 0)) f.scope.toNat) c.k c.i (putLoads f.ty f.d vals)))

def bodySt (f : RMem) (s : State) (c : Ctx) : Res :=
  withAccess s c f.space (accAlign f.space (accBytes f.ty)) 0 needW f.scope.toNat false (memAccs c f) (fun s1 l =>
    .done (writeAll s1 c (fun l => srcNat c.w f.d l 0 (accRegs f.ty)) l))

/-- LDK reads once, as an access of the lowest active lane (R240). -/
def bodyLdk (f : RMem) (s : State) (c : Ctx) : Res :=
  if c.g = 0 then .warp c.w
  else
    withAccess s c f.space (accBytes f.ty) 0 needR f.scope.toNat true ((memAccs c f).take 1) (fun s1 l =>
      let (vals, s2) := readAll s1 c f.scope.toNat l
      .done (modWarp (acquireAt s2 c f.space (annAcq f.ann) f.scope.toNat) c.k c.i (putLoads f.ty f.d vals)))

/-- The operations of group 0x9 (R241). -/
inductive AtomOp where
  | add | min | max | and | or | xor | exch | cas | fadd | fmin | fmax
  deriving DecidableEq, Repr

/-- The value that an atomic leaves (R241). -/
def atomNew (op : AtomOp) (ty : Ty) (old b c : Nat) : Nat :=
  let n := accBytes ty
  let F := fmtOf fp32 ty
  let o := w64 old
  let x := w64 b
  match op with
  | .add => (old + b) % 2 ^ (8 * n)
  | .min => if intOf ty x < intOf ty o then b else old
  | .max => if intOf ty o < intOf ty x then b else old
  | .and => old &&& b
  | .or => old ||| b
  | .xor => old ^^^ b
  | .exch => b
  | .cas => if old = c then b else old
  | .fadd => if ty = .f16x2 ∨ ty = .bf16x2 then (lanePkadd F dfltMods o x).toNat else (laneFadd F dfltMods o x).toNat
  | .fmin => (laneFmin F dfltMods o x).toNat
  | .fmax => (laneFmax F dfltMods o x).toNat

/-- The accesses of an atomic or reduction. -/
def atomAccs (c : Ctx) (f : RAtom) : List Acc :=
  (maskLanes c.g).map (fun l => { lane := l, addr := laneAddr c.w f.space f.a 0 l, n := accBytes f.ty })

/-- One lane's action at a place, served by the slice or the core (R242): the old value and the state. -/
def atomAt (op : AtomOp) (f : RAtom) (c : Ctx) (s : State) (e : Acc × Place) : Nat × State :=
  let l := e.1.lane
  let n := accBytes f.ty
  let (old, s1) := readPlace s c 2 n l e.2
  (old, writePlace s1 c n l (atomNew op f.ty old (srcNat c.w f.b l 0 (accRegs f.ty)) (srcNat c.w f.c l 0 (accRegs f.ty))) e.2)

/-- The actions in lane order; `ret` writes the old value to d. -/
def atomAll (op : AtomOp) (f : RAtom) (c : Ctx) (ret : Bool) (l : List (Acc × Place)) (s : State) : State :=
  l.foldl (fun s e =>
    let (old, s1) := atomAt op f c s e
    if ret then modWarp s1 c.k c.i (fun w => dstNat w f.d e.1.lane 0 (accRegs f.ty) old) else s1) s

/-- An atomic or reduction: a lost location stops the actions at the lowest lane that meets it, and those below stand (17 R420, 19 R479). -/
def bodyAtom (op : AtomOp) (ret : Bool) (f : RAtom) (s : State) (c : Ctx) : Res :=
  withAccess s c f.space (accBytes f.ty) 0 (if ret then needRW else needW) f.scope.toNat false (atomAccs c f) (fun s1 l =>
    match lostAccs s1 c 2 l with
    | [] => .done (acquireAt (atomAll op f c ret l s1) c f.space (annAcq f.ann && ret && decide (c.g ≠ 0)) f.scope.toNat)
    | b :: bad =>
      let s2 := atomAll op f c ret (l.filter (fun e => decide (e.1.lane < b.1.lane))) s1
      let (x, s3) := dataFault s2 c (b :: bad)
      .fault x s3)

/-! The meanings. -/

def execLd (f : RMem) (s : State) : Host.Outcome State Fault Refusal := warpInstr (.ld f) s (fun c => bodyLd f s c)
def execSt (f : RMem) (s : State) : Host.Outcome State Fault Refusal := warpInstr (.st f) s (fun c => bodySt f s c)
def execLdk (f : RMem) (s : State) : Host.Outcome State Fault Refusal := warpInstr (.ldk f) s (fun c => bodyLdk f s c)
def execAtomAdd (f : RAtom) (s : State) : Host.Outcome State Fault Refusal :=
  warpInstr (.atomAdd f) s (fun c => bodyAtom .add true f s c)
def execAtomMin (f : RAtom) (s : State) : Host.Outcome State Fault Refusal :=
  warpInstr (.atomMin f) s (fun c => bodyAtom .min true f s c)
def execAtomMax (f : RAtom) (s : State) : Host.Outcome State Fault Refusal :=
  warpInstr (.atomMax f) s (fun c => bodyAtom .max true f s c)
def execAtomAnd (f : RAtom) (s : State) : Host.Outcome State Fault Refusal :=
  warpInstr (.atomAnd f) s (fun c => bodyAtom .and true f s c)
def execAtomOr (f : RAtom) (s : State) : Host.Outcome State Fault Refusal :=
  warpInstr (.atomOr f) s (fun c => bodyAtom .or true f s c)
def execAtomXor (f : RAtom) (s : State) : Host.Outcome State Fault Refusal :=
  warpInstr (.atomXor f) s (fun c => bodyAtom .xor true f s c)
def execAtomExch (f : RAtom) (s : State) : Host.Outcome State Fault Refusal :=
  warpInstr (.atomExch f) s (fun c => bodyAtom .exch true f s c)
def execAtomCas (f : RAtom) (s : State) : Host.Outcome State Fault Refusal :=
  warpInstr (.atomCas f) s (fun c => bodyAtom .cas true f s c)
def execAtomFadd (f : RAtom) (s : State) : Host.Outcome State Fault Refusal :=
  warpInstr (.atomFadd f) s (fun c => bodyAtom .fadd true f s c)
def execAtomFmin (f : RAtom) (s : State) : Host.Outcome State Fault Refusal :=
  warpInstr (.atomFmin f) s (fun c => bodyAtom .fmin true f s c)
def execAtomFmax (f : RAtom) (s : State) : Host.Outcome State Fault Refusal :=
  warpInstr (.atomFmax f) s (fun c => bodyAtom .fmax true f s c)
def execRedAdd (f : RAtom) (s : State) : Host.Outcome State Fault Refusal :=
  warpInstr (.redAdd f) s (fun c => bodyAtom .add false f s c)
def execRedMin (f : RAtom) (s : State) : Host.Outcome State Fault Refusal :=
  warpInstr (.redMin f) s (fun c => bodyAtom .min false f s c)
def execRedMax (f : RAtom) (s : State) : Host.Outcome State Fault Refusal :=
  warpInstr (.redMax f) s (fun c => bodyAtom .max false f s c)
def execRedAnd (f : RAtom) (s : State) : Host.Outcome State Fault Refusal :=
  warpInstr (.redAnd f) s (fun c => bodyAtom .and false f s c)
def execRedOr (f : RAtom) (s : State) : Host.Outcome State Fault Refusal :=
  warpInstr (.redOr f) s (fun c => bodyAtom .or false f s c)
def execRedXor (f : RAtom) (s : State) : Host.Outcome State Fault Refusal :=
  warpInstr (.redXor f) s (fun c => bodyAtom .xor false f s c)
def execRedFadd (f : RAtom) (s : State) : Host.Outcome State Fault Refusal :=
  warpInstr (.redFadd f) s (fun c => bodyAtom .fadd false f s c)
def execRedFmin (f : RAtom) (s : State) : Host.Outcome State Fault Refusal :=
  warpInstr (.redFmin f) s (fun c => bodyAtom .fmin false f s c)
def execRedFmax (f : RAtom) (s : State) : Host.Outcome State Fault Refusal :=
  warpInstr (.redFmax f) s (fun c => bodyAtom .fmax false f s c)

end Sys2Proof.Machine
end

