-- ==== Sys2Proof/Machine/Sync.lean ====
section
/-! DEFINITION. Fences, futures, lock words and barriers: the first part of group 0xA (09 R243 to R251, R255, R256, 18 R452, 19 R472 to
R477, 20 R493). -/

namespace Sys2Proof.Machine

/-- A fence's effect on L1: it discards it when it acquires at `.die` or wider (03 R88), and at `.dev` or `.sys` always, since the warp's later
loads then follow the writes of its copies (04 R117). -/
def fenceL1 (s : State) (c : Ctx) (f : RAtom) : State :=
  acquire s c (decide (f.ann ≠ .rel) || decide (3 ≤ f.scope.toNat)) f.scope.toNat

/-- FENCE (R243): it waits for the warp's copies at `.dev` and `.sys`. -/
def bodyFence (f : RAtom) (s : State) (c : Ctx) : Res :=
  if c.g = 0 then .warp c.w
  else if 3 ≤ f.scope.toNat ∧ opsOut s c.k c.i then .state (blockWarp s c.k c.i .copies)
  else .done (fenceL1 s c f)

/-- The record accesses of a future or lock instruction. -/
def recAccs (c : Ctx) (f : RSync) : List Acc :=
  (maskLanes c.g).map (fun l => { lane := l, addr := laneAddr c.w f.space f.a 0 l, n := 16 })

/-- Future and lock instructions need RD and W (03 R94), at 16-byte records; the lanes with their records are given to `act`. -/
def withRecs (s : State) (c : Ctx) (f : RSync) (act : State → List (Acc × Loc) → Res) : Res :=
  withAccess s c f.space 16 3 needRW 2 false (recAccs c f) (fun s1 l => act s1 (l.map (fun e => (e.1, placeLoc c.k e.2))))

/-- A record's place, and whether its data is lost. -/
def locPlace : Loc → Place
  | .phys pa => .die pa
  | .shared _ o => .shared o
def lostRec (s : State) (c : Ctx) (l : Loc) : Bool := lostPlace s c 2 16 0 (locPlace l)

/-- The core's L1 follows what an action on a record reads or writes: no later read of the thread goes back before it (03 R87, 04 R104). -/
def touchRec (s : State) (c : Ctx) (l : Loc) : State :=
  match l with
  | .phys pa => refreshL1 s c.core pa 16
  | .shared _ _ => s

/-- The actions of one instruction on records, in lane order (R245): until a lane faults, each acts; the lanes above it are examined only. -/
def inOrder (s : State) (c : Ctx) (l : List (Acc × Loc)) (act : State → Acc → Loc → Except FaultInfo State) : Res :=
  let (s1, fs, bad) := l.foldl (fun (s, fs, bad) e =>
    if lostRec s c e.2 then (s, fs, bad ++ [(e.1, locPlace e.2)])
    else match act s e.1 e.2 with
      | .error f => (s, fs ++ [f], bad)
      | .ok s1 => (if fs.isEmpty && bad.isEmpty then touchRec s1 c e.2 else s, fs, bad))
    (s, ([] : List FaultInfo), ([] : List (Acc × Place)))
  match worstFault fs, bad with
  | some f, _ => .fault f s1
  | none, [] => .done s1
  | none, bad =>
    let (f, s2) := dataFault s1 c bad
    .fault f s2

/-- A class S fault of a lane at a record. -/
def recFault (s : State) (cause detail : Nat) (a : Acc) (l : Loc) : FaultInfo :=
  { cause := cause, lanes := laneMask a.lane, detail := detail, addr := addrWord a.addr, info := recOwner (rdLoc s l 0) }

/-- FNEW (R246). -/
def newRec (s : State) (vd : Nat) (l : Loc) (owner : DWord) : State :=
  let w0 := rdLoc s l 0
  let s1 := if recState w0 = 1 then wrLoc s l 0 (recWord0 1 owner (recStatus w0))
    else wrLoc (wrLoc s l 0 (recWord0 0 owner 0)) l 1 0
  noteFut s1 vd l false
def fnewOwner (f : RSync) (c : Ctx) (l : Nat) : DWord :=
  if f.var = 1 then c.t.handle else w64 (bitsOf (src64 c.w f.b l).toNat 47 0)
def bodyFnew (f : RSync) (s : State) (c : Ctx) : Res :=
  let badOwner := (maskLanes c.g).filterMap (fun l =>
    if 2 ^ 46 ≤ (fnewOwner f c l).toNat then some ({ cause := cOutOfRange, lanes := laneMask l, detail := 15 } : FaultInfo) else none)
  match worstFault ((recAccs c f).filterMap (formFault c.kern f.space 16 3) ++ badOwner) with
  | some x => .fault x s
  | none => withRecs s c f (fun s1 l => inOrder s1 c l (fun s a r => .ok (newRec s c.t.vd r (fnewOwner f c a.lane))))

/-- FPUT (R247). -/
def bodyFput (f : RSync) (s : State) (c : Ctx) : Res :=
  withRecs s c f (fun s1 l => inOrder s1 c l (fun s a r =>
    match fillRec s c.t.vd c.t.die r (src64 c.w f.b a.lane) ((src32 c.w f.c a.lane).toNat % 2 ^ 16) with
    | (.double, _) => .error (recFault s cDoublePut 0 a r)
    | (_, s2) => .ok (pollGates s2)))

/-- The event that asks for growth of a die's park overflow region, or in hardware mode the work that Firex has to do (19 R477). -/
def askGrowth (s : State) (pn die : Nat) : State :=
  match getPart s pn with
  | none => s
  | some p =>
    if elemOf die p.growReq then s
    else
      let s1 := setPart s pn { p with growReq := p.growReq ++ [die] }
      if hostMode s pn 2 then postPart s1 pn true { cause := 0x46, detail := die * 2 ^ 8, info := w64 (parkCapOf s pn die) } else s1

/-- PARK_TABLE_FULL of a warp (19 R477). -/
def parkFull (lanes : Word) (va : DWord) : FaultInfo := { cause := cParkFull, lanes := lanes, addr := va }

/-- Parks the current warp on a record, and considers adoption when its task thereby enters WAITING (02 R52, R64). With no free park
record it holds while the region grows, or faults at the limit. -/
def parkCur (s : State) (c : Ctx) (l : Loc) (lock : Bool) (va : DWord) (lanes : Word) (fin : Option (Opnd × Word)) : Res :=
  match parkOn s c.k c.i l lock va fin with
  | some s0 =>
    let s1 := touchRec s0 c l
    .state (if (nowTask s1 c).st = .waiting then considerAdoption s1 c.k else s1)
  | none =>
    if 983040 ≤ parkCapOf s (partOf c.t.vd) c.t.die then .fault (parkFull lanes va) s
    else .state (blockWarp (askGrowth s (partOf c.t.vd) c.t.die) c.k c.i (.parkRoom (parkFull lanes va)))

/-- FGET (R248). -/
def fgetWait (f : RSync) (c : Ctx) (s : State) (l : List (Acc × Loc)) (a : Acc) (r : Loc) : Res :=
  let lanes := l.foldl (fun m e => if e.2 = r then m ||| laneMask e.1.lane else m) 0#32
  parkCur s c r false (addrWord a.addr) lanes (if l.all (fun e => decide (e.2 = r)) then some (f.d, c.g) else none)
def bodyFget (f : RSync) (s : State) (c : Ctx) : Res :=
  withRecs s c f (fun s1 l =>
    let bad := l.filter (fun e => lostRec s1 c e.2)
    let poisonedF := l.filterMap (fun e =>
      if !lostRec s1 c e.2 && decide (recState (rdLoc s1 e.2 0) = 3) then
        some (recFault s1 cPoisoned (recStatus (rdLoc s1 e.2 0) % 256) e.1 e.2) else none)
    match worstFault poisonedF, bad with
    | some x, _ => .fault x (flushL1 s1 c.core)
    | none, b :: t =>
      let (x, s2) := dataFault s1 c ((b :: t).map (fun e => (e.1, locPlace e.2)))
      .fault x s2
    | none, [] =>
      match l.find? (fun e => decide (recState (rdLoc s1 e.2 0) ≠ 2)) with
      | some (a, r) => fgetWait f c s1 l a r
      | none =>
        if l = [] then .done s1
        else .done (modWarp (flushL1 s1 c.core) c.k c.i (fun w =>
          l.foldl (fun w e => dst64 w f.d e.1.lane (rdLoc s1 e.2 1)) w)))

/-- FTRY (R249): the value and the code of a lane. -/
def ftryValue (s : State) (r : Loc) : DWord × Nat :=
  let w0 := rdLoc s r 0
  match recState w0 with
  | 2 => (rdLoc s r 1, 2)
  | 3 => (w64 (recStatus w0), 3)
  | n => (0, n)
def ftryCode (b : Opnd) (code : Nat) : Word :=
  match b with
  | .p _ => boolWord (decide (code = 2))
  | _ => w32 code

/-- A future that an instruction finds unfilled, with an owner, is one that a kill of its owner poisons (02 R58; log 5). -/
def noteOpen (s : State) (vd : Nat) (r : Loc) : State :=
  if recState (rdLoc s r 0) < 2 ∧ recOwner (rdLoc s r 0) ≠ 0 then noteFut s vd r false else s

def bodyFtry (f : RSync) (s : State) (c : Ctx) : Res :=
  withRecs s c f (fun s1 l =>
    match l.filter (fun e => lostRec s1 c e.2) with
    | b :: t =>
      let (x, s2) := dataFault s1 c ((b :: t).map (fun e => (e.1, locPlace e.2)))
      .fault x s2
    | [] =>
      let acq := l.any (fun e => decide (2 ≤ recState (rdLoc s1 e.2 0)))
      let s2 := l.foldl (fun s e => noteOpen (touchRec s c e.2) c.t.vd e.2) s1
      .done (modWarp (if acq then flushL1 s2 c.core else s2) c.k c.i (fun w =>
        l.foldl (fun w e =>
          let (v, code) := ftryValue s1 e.2
          dst32 (dst64 w f.d e.1.lane v) f.b e.1.lane (ftryCode f.b code)) w)))

/-- The distinct records of an instruction in the order of their lowest lanes, with the lanes that name each (R250). -/
def distinctRecs (l : List (Acc × Loc)) : List (Acc × Loc × Word) :=
  l.foldl (fun rs e =>
    if rs.any (fun r => decide (r.2.1 = e.2)) then
      rs.map (fun r => if r.2.1 = e.2 then (r.1, r.2.1, r.2.2 ||| laneMask e.1.lane) else r)
    else rs ++ [(e.1, e.2, laneMask e.1.lane)]) []

/-- The fault of the lanes that name one record. -/
def recFaults (s : State) (cause detail : Nat) (r : Acc × Loc × Word) : FaultInfo :=
  { recFault s cause detail r.1 r.2.1 with lanes := r.2.2 }

/-- What the lanes of the records that stand from the first that stops a lock instruction meet: they are examined, and nothing more is done.
The lowest cause is recorded, with every lane that met it (18 R436, 17 R424). -/
def lockFault (s : State) (c : Ctx) (l : List (Acc × Loc × Word)) (stop : Acc × Loc × Word → Option FaultInfo) : Res :=
  let lost := l.filter (fun r => lostRec s c r.2.1)
  match worstFault ((l.filter (fun r => !lostRec s c r.2.1)).filterMap stop) with
  | some f => .fault f s
  | none =>
    let (f, s1) := dataFault s c (lost.map (fun r => (r.1, locPlace r.2.1)))
    .fault { f with lanes := lost.foldl (fun m r => m ||| r.2.2) 0#32 } s1

/-- FUTURE_POISONED of a lock word, and LOCK_NOT_OWNER (18 R452). -/
def poisonedLock (s : State) (r : Acc × Loc × Word) : Option FaultInfo :=
  let w0 := rdLoc s r.2.1 0
  if recState w0 = 3 then some (recFaults s cPoisoned (recStatus w0 % 256) r) else none
def notOwner (s : State) (c : Ctx) (r : Acc × Loc × Word) : Option FaultInfo :=
  let w0 := rdLoc s r.2.1 0
  if recOwner w0 ≠ c.t.handle then some (recFaults s cLockOwner (recState w0) r) else none

/-- LKACQ (R250): the records not yet held, in order. -/
def lockLoop (c : Ctx) : List (Acc × Loc × Word) → State → Res
  | [], s => .done (modWarp (flushL1 s c.core) c.k c.i (fun w => { w with acq := [] }))
  | r :: t, s =>
    let w0 := rdLoc s r.2.1 0
    let todo := (r :: t).filter (fun x => !elemOf x.2.1 (nowWarp s c).acq)
    if elemOf r.2.1 (nowWarp s c).acq then lockLoop c t s
    else if lostRec s c r.2.1 then lockFault (flushL1 s c.core) c todo (poisonedLock s)
    else match recState w0 with
      | 0 =>
        let s1 := touchRec (wrLoc s r.2.1 0 (recWord0 1 c.t.handle (recStatus w0 + 1))) c r.2.1
        lockLoop c t (modWarp (noteFut s1 c.t.vd r.2.1 true) c.k c.i (fun w => { w with acq := r.2.1 :: w.acq }))
      | 3 => lockFault (flushL1 s c.core) c todo (poisonedLock s)
      | _ => parkCur s c r.2.1 true (addrWord r.1.addr) r.2.2 none
def bodyLkacq (f : RSync) (s : State) (c : Ctx) : Res :=
  withRecs s c f (fun s1 l => if l = [] then .done s1 else lockLoop c (distinctRecs l) s1)

/-- The hand-over of a lock to its first waiter: `rest` are the others' park records (R251). -/
def handOver (s : State) (c : Ctx) (r : Loc) (first : Nat) (rest : List Nat) : State :=
  let pn := partOf c.t.vd
  let w0 := rdLoc s r 0
  match Store.find s.parks (parkKey c.t.die pn first) with
  | none => s
  | some p =>
    let owner := keyHandle p.task
    let s1 := { s with parks := relink (Store.del s.parks (parkKey c.t.die pn first)) c.t.die pn rest }
    let s2 := wrLoc s1 r 0 (recWord0 (if rest = [] then 1 else 2) owner (recStatus w0 + 1))
    let s3 := wrLoc s2 r 1 (match rest with
      | [] => 0
      | h :: _ => parkWord rest.length h)
    refreshTask (modWarp s3 p.task p.warp (fun w => { w with blocked := .ready, acq := r :: w.acq })) p.task

/-- LKREL (R251). -/
def releaseRec (s : State) (c : Ctx) (r : Loc) : State :=
  match recWaiters s c.t.vd r c.t.die, recState (rdLoc s r 0) with
  | first :: rest, 2 => handOver s c r first rest
  | _, _ => dropFut (wrLoc s r 0 (recWord0 0 0 (recStatus (rdLoc s r 0)))) c.t.vd r

def unlockLoop (c : Ctx) : List (Acc × Loc × Word) → State → Res
  | [], s => .done s
  | r :: t, s =>
    if lostRec s c r.2.1 || (notOwner s c r).isSome then lockFault s c (r :: t) (notOwner s c)
    else unlockLoop c t (touchRec (releaseRec s c r.2.1) c r.2.1)
def bodyLkrel (f : RSync) (s : State) (c : Ctx) : Res :=
  withRecs s c f (fun s1 l => unlockLoop c (distinctRecs l) s1)

/-- The operands of a barrier instruction: the lowest active lane's (R255). -/
def barNum (f : RRaw) (c : Ctx) : Nat := (src32 c.w f.a (lane0 c.g)).toNat
def barArg (f : RRaw) (c : Ctx) : Word := src32 c.w f.b (lane0 c.g)

/-- OUT_OF_RANGE of a barrier instruction, and BARRIER_OVERRUN (18 R450, R452). -/
def barRange (c : Ctx) (reason : Nat) : FaultInfo := { cause := cOutOfRange, lanes := laneMask (lane0 c.g), detail := reason }
def barOverrun (c : Ctx) (n why : Nat) : FaultInfo :=
  { cause := cBarrier, lanes := laneMask (lane0 c.g), detail := why + n % 256 * 2 ^ 8, addr := w64 n }

/-- An instruction on an initialised barrier. -/
def withBar (f : RRaw) (s : State) (c : Ctx) (act : Nat → Barrier → Res) : Res :=
  let n := barNum f c
  if c.g = 0 then .warp c.w
  else if c.kern.nbar ≤ n then .fault (barRange c 5) s
  else match Store.find c.t.barriers n with
    | none => .fault (barRange c 6) s
    | some b => act n b

/-- Writes a barrier of the current task. -/
def putBar (s : State) (c : Ctx) (n : Nat) (b : Barrier) : State :=
  let t := nowTask s c
  setTask s c.k { t with barriers := Store.put t.barriers n b }

def bodyBarInit (f : RRaw) (s : State) (c : Ctx) : Res :=
  let n := barNum f c
  let e := (barArg f c).toNat
  let b := Store.get { expect := 0, mask := 0, phase := 0 } c.t.barriers n
  if c.g = 0 then .warp c.w
  else if c.kern.nbar ≤ n then .fault (barRange c 5) s
  else if e = 0 ∨ 32 < e then .fault (barRange c 7) s
  else if b.mask ≠ 0 ∨ barrierWaiters c.t n ≠ [] then .fault (barOverrun c n 1) s
  else .done (putBar s c n { expect := e, mask := 0, phase := 0 })

/-- Wakes the warps that wait on a barrier. -/
def wakeBar (s : State) (c : Ctx) (n : Nat) : State :=
  refreshTask ((barrierWaiters (nowTask s c) n).foldl (fun s e => modWarp s c.k e.1 reready) s) c.k

/-- An arrival of the current warp whose bit is clear (R256). -/
def arrive (s : State) (c : Ctx) (n : Nat) (b : Barrier) : State :=
  let m := b.mask ||| laneMask c.i
  if popCount m = b.expect then wakeBar (putBar s c n { b with mask := 0, phase := b.phase + 1 }) c n
  else putBar s c n { b with mask := m }

def bodyBarArr (f : RRaw) (s : State) (c : Ctx) : Res :=
  withBar f s c (fun n b =>
    if inMask b.mask c.i then .fault (barOverrun c n 0) s
    else .done (modWarp (arrive s c n b) c.k c.i (fun w =>
      writeLanes32 w c.g f.d (fun _ => b.phase.zeroExtend 32))))

/-- A warp begins a barrier wait: it blocks, and the phase is checked for starvation (20 R493). -/
def waitBar (s : State) (c : Ctx) (n : Nat) : State :=
  settleTask (starveBarrier (blockWarp s c.k c.i (.barrier n (lane0 c.g))) c.k n) c.k

def bodyBarWait (f : RRaw) (s : State) (c : Ctx) : Res :=
  withBar f s c (fun n b =>
    if b.phase = (barArg f c).extractLsb' 0 16 then .state (waitBar s c n) else .done s)

def bodyBarSync (f : RRaw) (s : State) (c : Ctx) : Res :=
  withBar f s c (fun n b =>
    match c.w.arrived with
    | some (_, tok) =>
      if b.phase = tok then .state (waitBar s c n) else .done (modWarp s c.k c.i (fun w => { w with arrived := none }))
    | none =>
      if inMask b.mask c.i then .fault (barOverrun c n 0) s
      else
        let s1 := arrive s c n b
        if popCount (b.mask ||| laneMask c.i) = b.expect then .done s1
        else .state (waitBar (modWarp s1 c.k c.i (fun w => { w with arrived := some (n, b.phase) })) c n))

/-! The meanings. -/

def execFence (f : RAtom) (s : State) : Host.Outcome State Fault Refusal := warpInstr (.fence f) s (fun c => bodyFence f s c)
def execFnew (f : RSync) (s : State) : Host.Outcome State Fault Refusal := warpInstr (.fnew f) s (fun c => bodyFnew f s c)
def execFput (f : RSync) (s : State) : Host.Outcome State Fault Refusal := warpInstr (.fput f) s (fun c => bodyFput f s c)
def execFget (f : RSync) (s : State) : Host.Outcome State Fault Refusal := warpInstr (.fget f) s (fun c => bodyFget f s c)
def execFtry (f : RSync) (s : State) : Host.Outcome State Fault Refusal := warpInstr (.ftry f) s (fun c => bodyFtry f s c)
def execLkacq (f : RSync) (s : State) : Host.Outcome State Fault Refusal := warpInstr (.lkacq f) s (fun c => bodyLkacq f s c)
def execLkrel (f : RSync) (s : State) : Host.Outcome State Fault Refusal := warpInstr (.lkrel f) s (fun c => bodyLkrel f s c)
def execBarInit (f : RRaw) (s : State) : Host.Outcome State Fault Refusal := warpInstr (.barInit f) s (fun c => bodyBarInit f s c)
def execBarArr (f : RRaw) (s : State) : Host.Outcome State Fault Refusal := warpInstr (.barArr f) s (fun c => bodyBarArr f s c)
def execBarWait (f : RRaw) (s : State) : Host.Outcome State Fault Refusal := warpInstr (.barWait f) s (fun c => bodyBarWait f s c)
def execBarSync (f : RRaw) (s : State) : Host.Outcome State Fault Refusal := warpInstr (.barSync f) s (fun c => bodyBarSync f s c)

end Sys2Proof.Machine
end

