-- ==== Sys2Proof/Machine/Launch.lean ====
section
/-! DEFINITION. Kernel descriptors, launch records and their acceptance, and the creation of jobs by launches and SPAWN (02 R36 to R57,
09 R252 to R254, 13 R354 to R358, 18 R441, R451, 20 R494 to R498). -/

namespace Sys2Proof.Machine

/-- Field `hi:lo` of a 64-bit word. -/
def fld (w : DWord) (hi lo : Nat) : Nat := bitsOf w.toNat hi lo

/-- Word `j` of a record. -/
def wordAt (ws : List DWord) (j : Nat) : DWord := nthD ws j 0

/-- Whether the word `j` of a kernel descriptor keeps its field ranges and reserved zeros (02 R41). -/
def descWordOk (ws : List DWord) (j : Nat) : Bool :=
  let w := wordAt ws j
  match j with
  | 0 => decide (fld w 63 48 = 0 ∧ fld w 47 40 ≤ 16 ∧ fld w 39 32 ≤ 16 ∧ 1 ≤ fld w 31 24 ∧ fld w 31 24 ≤ 32
      ∧ 1 ≤ fld w 23 16 ∧ fld w 23 16 ≤ 32 ∧ fld w 15 8 ≤ 16 ∧ fld w 7 6 ≠ 3 ∧ fld w 5 4 = 0)
  | 1 => decide (fld w 2 0 = 0 ∧ fld w 63 56 = 0)
  | 2 => decide (fld w 63 40 = 0 ∧ fld w 39 32 ≤ 16 ∧ fld w 31 0 ≤ 786432)
  | 3 => decide (fld w 7 0 = 0 ∧ fld w 63 56 = 0)
  | 4 => decide (fld w 63 32 = 0 ∧ fld w 31 0 % 256 = 0 ∧ fld w 31 0 ≤ 131072)
  | 5 => decide (fld w 7 1 = 0 ∧ fld w 63 56 = 0)
  | 6 => decide (fld w 63 3 = 0 ∧ fld w 2 0 ≤ 4)
  | 8 | 9 | 10 | 11 =>
    if j - 8 < fld (wordAt ws 6) 2 0 then decide (fld w 5 0 = 0 ∧ fld w 63 56 = 0) else decide (w = 0)
  | _ => decide (w = 0)

/-- The lowest word of a descriptor that is out of range (R42). -/
def descFault (ws : List DWord) : Option Nat := (List.range 32).find? (fun j => !descWordOk ws j)

/-- The encoding version of a descriptor, and whether the decoder accepts it. -/
def descEncv (ws : List DWord) : Nat := fld (wordAt ws 0) 3 0
def encvOk (v : Nat) : Bool := decide (1 ≤ v ∧ v ≤ 3)

/-- A kernel as its descriptor gives it (02 R41). -/
def kernelOf (addr : DWord) (ws : List DWord) : Kernel :=
  let w0 := wordAt ws 0
  let w2 := wordAt ws 2
  { addr := addr, ltl := fld w0 47 40, nbar := fld w0 39 32, regs := fld w0 31 24, warps := fld w0 23 16, nargs := fld w0 15 8,
    cappol := fld w0 7 6, encv := descEncv ws, entry := wordAt ws 1, spill := Nat.max 1 (fld w2 39 32), shmem := fld w2 31 0,
    constAddr := wordAt ws 3, constLen := fld (wordAt ws 4) 31 0, trapvec := wordAt ws 5,
    jigs := (List.range (fld (wordAt ws 6) 2 0)).map (fun j => wordAt ws (8 + j)) }

/-- What the device's own access to memory of a VD gives. -/
inductive DevRes where
  | ok (pa : Nat)
  | bad
  /-- On a page request, or none where all tags are taken. -/
  | held (tag : Option Nat)
  | dirty
  deriving DecidableEq, Repr

/-- The 64 KiB range of the IPA at which a translation failed. -/
def xRange : XRes → DWord
  | .pageFault _ _ ipa => w64 (ipa / 2 ^ 16 * 2 ^ 16)
  | .perm _ _ ipa _ => w64 (ipa / 2 ^ 16 * 2 ^ 16)
  | _ => 0

/-- The answer of a device access whose translation fails: requested or refused (19 R459, UNIT 9 of 20 R494). -/
def devAsk (s : State) (vd die va : Nat) (needs : Needs) (x : XRes) : DevRes × State :=
  if serviceFor s vd die x = .request ∧ (getVd s vd).refused ≠ some (xRange x) then
    let (tag, s1) := pageRequest s (lowBay s (partOf vd) die) vd die va needs x 0 9 0
    (.held tag, s1)
  else (.bad, s)

/-- A device access of a VD to a die page: served, held on a request, or refused (19 R459, 20 R494). -/
def devPage (s : State) (vd die va : Nat) (needs : Needs) : DevRes × State :=
  if 2 ^ 56 ≤ va then (.bad, s)
  else match resolve .none vd die va needs serviceFuel s with
    | (.ok 0 d (some pa), s1) => (if d = die then .ok pa else .bad, s1)
    | (.onHold, s1) => (.dirty, s1)
    | (x, s1) => devAsk s1 vd die va needs x

/-- Whether `n` pages of 64 KiB from `va` are die pages with a permission; stops at the first that is not. -/
def devPages (vd die : Nat) (needs : Needs) : Nat → Nat → State → DevRes × State
  | 0, _, s => (.ok 0, s)
  | n + 1, va, s =>
    match devPage s vd die va needs with
    | (.ok _, s1) => devPages vd die needs n (va + 2 ^ 16) s1
    | r => r

/-- Whether every byte of a range lies in die pages with a permission. -/
def devRange (s : State) (vd die va len : Nat) (needs : Needs) : DevRes × State :=
  if len = 0 then (.ok 0, s)
  else devPages vd die needs ((va + len - 1) / 2 ^ 16 - va / 2 ^ 16 + 1) (va / 2 ^ 16 * 2 ^ 16) s

/-- `n` 64-bit words from a physical address. -/
def rdWords (s : State) (pa n : Nat) : List DWord := (List.range n).map (fun j => rd64 s (pa + 8 * j))

/-- The dies of a mask, ascending. -/
def diesOf (m : Nat) : List Nat := (List.range 4).filter (fun d => m.testBit d)

/-- Jobs of a die's job table (13 R361), and of a VD (02 R39). -/
def dieJobs (s : State) (d : Nat) : Nat := s.jobs.countP (fun e => elemOf d e.2.dies)
def vdJobs (s : State) (vd : Nat) : Nat := s.jobs.countP (fun e => decide (e.2.vd = vd))

/-- Whether a die's job table and a VD's numbers have room for `n` more jobs. -/
def tableRoom (s : State) (d n : Nat) : Bool := decide (dieJobs s d + n ≤ 4096)
def numberRoom (s : State) (vd n : Nat) : Bool := decide (vdJobs s vd + n ≤ 16383)

/-- The next job number of a VD: the first free one above the last given, else the lowest free (02 R39; log 8). -/
def freeJob (s : State) (vd : Nat) : Nat :=
  let last := (getVd s vd).jobLast
  match Store.freeKey s.jobs (16383 - last) (jobKey vd (last + 1)), Store.freeKey s.jobs 16383 (jobKey vd 1) with
  | some k, _ => k - jobKey vd 0
  | none, some k => k - jobKey vd 0
  | none, none => 0

/-- The dies of a job, beside its lowest, to which no task falls: their share futures are due at once (13 R357). -/
def idleDies (j : Job) : List Nat := j.dies.filter (fun d => decide (dieLo j (dieRank j d + 1) ≤ dieLo j (dieRank j d)))

/-- Writes the EMPTY futures of a job: at its base on each die, and each task's result future on its own (02 R55, 13 R357). -/
def writeFutures (s : State) (j : Job) : State :=
  let s1 := j.dies.foldl (fun s d =>
    devNewFuture s j.vd d j.base (if elemOf d (idleDies j) then 0 else mkHandle j.num (dieLo j (dieRank j d)))) s
  upFrom (fun i s => devNewFuture s j.vd (dieOfTask j i) (resultVa j i) (mkHandle j.num i)) j.ntask 0 s1

/-- Enters a job in the table and writes its futures; the share of a die without tasks is filled with 0. -/
def createJob (s : State) (j : Job) : State :=
  let j1 := { j with seq := s.seq, shares := (idleDies j).foldl (fun m d => Store.put m d 0) j.shares }
  let s1 := writeFutures (setJob { setVd s j.vd { getVd s j.vd with jobLast := j.num } with seq := s.seq + 1 } j1) j1
  (idleDies j).foldl (fun s d => devFill s j.vd d j.base 0 0) s1

/-- Fields of a launch record (13 R356): 16 words. -/
def recDies (ws : List DWord) : Nat := fld (wordAt ws 1) 51 48
def recNarg (ws : List DWord) : Nat := fld (wordAt ws 1) 44 40
def recPrio (ws : List DWord) : Nat := fld (wordAt ws 1) 33 32
def recNtask (ws : List DWord) : Nat := fld (wordAt ws 1) 31 0

/-- The argument words of a record, which stand from word 4. -/
def recArgs (ws : List DWord) : List Word :=
  (List.range 16).map (fun i => if i % 2 = 0 then lowWord (wordAt ws (4 + i / 2)) else highWord (wordAt ws (4 + i / 2)))

/-- The lowest field of a launch record that is out of range: its offset ÷ 8 (20 R495). -/
def launchField (s : State) (vd : Nat) (ws : List DWord) (nargs : Nat) : Option Nat :=
  let w := wordAt ws 1
  let onDies := match getPart s (partOf vd) with
    | some p => (diesOf (recDies ws)).all (fun d => partOnDie p d)
    | none => false
  if fld w 63 52 ≠ 0 ∨ fld w 47 45 ≠ 0 ∨ fld w 39 34 ≠ 0 ∨ recDies ws = 0 ∨ onDies = false ∨ 16 < recNarg ws
    ∨ recNarg ws < nargs ∨ recNtask ws = 0 then some 1
  else if wordAt ws 3 ≠ 0 then some 3
  else (List.range 4).findSome? (fun j => if wordAt ws (12 + j) ≠ 0 then some (12 + j) else none)

/-- What the checks of a launch record give. -/
inductive Verdict where
  | accept (k : Kernel)
  | refuse (reason field : Nat)
  | version (encv : Nat)
  | hold (tag : Option Nat)
  deriving DecidableEq, Repr

/-- The future ranges of a job's dies: each die's base future, and its tasks' result futures. -/
def futureRanges (base : Nat) (j : Job) : List (Nat × Nat × Nat) :=
  j.dies.flatMap (fun d =>
    let lo := dieLo j (dieRank j d)
    let hi := dieLo j (dieRank j d + 1)
    [(d, base, 16), (d, base + 16 * (lo + 1), 16 * (hi - lo))])

/-- Checks ranges for RD and W; the first that fails or is held decides. -/
def checkRanges (vd : Nat) : List (Nat × Nat × Nat) → State → DevRes × State
  | [], s => (.ok 0, s)
  | (d, a, n) :: t, s =>
    match devRange s vd d a n needRW with
    | (.ok _, s1) => checkRanges vd t s1
    | r => r

/-- Checks a descriptor page on each die; answers its place on the first. -/
def checkDesc (vd va : Nat) : List Nat → State → DevRes × State
  | [], s => (.bad, s)
  | d :: t, s =>
    match devPage s vd d va needR with
    | (.ok pa, s1) =>
      (match t with
       | [] => (.ok pa, s1)
       | _ => match checkDesc vd va t s1 with
         | (.ok _, s2) => (.ok pa, s2)
         | r => r)
    | r => r

/-- A job record as acceptance makes it. -/
def mkJob (vd num : Nat) (k : Kernel) (ntask : Nat) (args : List Word) (dies : List Nat) (prio : Nat) (base : DWord) (gate : Option Loc)
    (parent : Option Nat) : Job :=
  { num := num, vd := vd, kernel := k, ntask := ntask, args := args, dies := dies, prio := prio, base := base, gate := gate,
    gateOpen := gate.isNone, parent := parent, seq := 0, done := [], shares := [] }

/-- The checks of a launch record in the order of their reasons (20 R494, R495). -/
def judge (s : State) (vd : Nat) (ws : List DWord) : Verdict × State :=
  let kdesc := (wordAt ws 0).toNat
  let onPart (d : Nat) : Bool := match getPart s (partOf vd) with
    | some p => partOnDie p d
    | none => false
  let dies := (diesOf (recDies ws)).filter onPart
  let base := (wordAt ws 2).toNat
  let early : Verdict := match launchField s vd ws 0 with
    | some f => .refuse 2 f
    | none => .refuse 3 0
  let desc := if kdesc % 256 ≠ 0 then (.bad, s) else checkDesc vd kdesc dies s
  match desc with
  | (.held tag, s1) => (.hold tag, s1)
  | (.dirty, s1) => (.hold none, s1)
  | (.bad, s1) => (early, s1)
  | (.ok pa, s1) =>
    let dw := rdWords s1 pa 32
    if poisonedRange s1 pa 256 then (early, s1)
    else if !encvOk (descEncv dw) then (.version (descEncv dw), s1)
    else match descFault dw with
      | some j => (.refuse 1 j, s1)
      | none =>
        let k := kernelOf (wordAt ws 0) dw
        match launchField s1 vd ws k.nargs with
        | some f => (.refuse 2 f, s1)
        | none =>
          let j := mkJob vd 0 k (recNtask ws) [] dies 0 (wordAt ws 2) none none
          if base % 16 ≠ 0 then (.refuse 4 0, s1)
          else match checkRanges vd (futureRanges base j) s1 with
            | (.held tag, s2) => (.hold tag, s2)
            | (.dirty, s2) => (.hold none, s2)
            | (.bad, s2) => (.refuse 4 0, s2)
            | (.ok _, s2) => (.accept k, s2)

/-- The record of a refusal, class H, for a VD (20 R494). -/
def postRefusal (s : State) (vd cause detail : Nat) (addr info : DWord) : State :=
  let r : Rec := { cause := cause, unit := 9, detail := detail, vd := vd, gen := (getVd s vd).gen, addr := addr, info := info }
  postVd (logFirex s [partOf vd] r) vd false r

/-- The die whose memory path serves a VD's launch queue: the partition's lowest. -/
def lowDie (s : State) (pn : Nat) : Nat :=
  match getPart s pn with
  | some p => ((List.range 4).find? (fun d => partOnDie p d)).getD 0
  | none => 0

/-- Translates a stage-2 IPA of a launch queue; where the access is performed, A and D are set (03 R94, R95, 14 R383). A place in a far block
of another partition is none (14 R380). -/
def queueWalk (s : State) (vd die ipa : Nat) (needs : Needs) (perform : Bool) : XRes × State :=
  match stage2 s vd die ipa with
  | .error (.invalid st lv x) => (.pageFault st lv x, s)
  | .error (.data pa) => (.data pa, s)
  | .error (.wait r) => (.onHold, demandRange s (partOf vd) r)
  | .ok l =>
    let write := needs.getLsbD 1
    let pa := (leafPa s (partOf vd) (teLoc l.entry) (teDie l.entry) (l.oa + ipa % l.size)).filter (ownsPa s (partOf vd))
    if needs &&& ~~~(tePerms l.entry) ≠ 0 then (.perm 2 l.level ipa (needs &&& ~~~(tePerms l.entry)), s)
    else if write && !teD l.entry && dirtyMustHold (getVd s vd) then (.onHold, s)
    else match pa.bind (unrestoredAt s (partOf vd)) with
    | some r => (.onHold, demandRange s (partOf vd) r)
    | none =>
      if pa.any (poisoned s) && !write then (.data (pa.getD 0), s)
      else if perform then
        let s0 := l.path.foldl (fun s pa => touchSector s pa false) s
        let s1 := wr64 s0 l.pa (if write then l.entry ||| 0xC0 else l.entry ||| 0x40)
        let s2 := if write && !teD l.entry && (getVd s vd).logen then dirtyAppend s1 vd (ipa / l.size * l.size) l.level else s1
        (.ok (teLoc l.entry) (teDie l.entry) pa, s2)
      else (.ok (teLoc l.entry) (teDie l.entry) pa, s)

/-- Looks where a launch queue's IPA goes, with service from the host ring, at most `n` times. -/
def queueLook (vd die ipa : Nat) (needs : Needs) : Nat → State → XRes × State
  | 0, s => queueWalk s vd die ipa needs false
  | n + 1, s =>
    match queueWalk s vd die ipa needs false with
    | (.pageFault st lv x, s1) =>
      if serviceFor s1 vd die (.pageFault st lv x) = .host then queueLook vd die ipa needs n (serveHost s1 vd die x)
      else (.pageFault st lv x, s1)
    | r => r

/-- A 64-bit word of a launch queue. One in memory that is lost is not reached, and its queue gives no record (21 R511). A poisoned one that is read is a fault like any that R459 delivers (17 R421). -/
def queueWord (s : State) (vd ipa : Nat) (needs : Needs) : DevRes × State :=
  let die := lowDie s (partOf vd)
  match queueLook vd die ipa needs serviceFuel s with
  | (.ok _ _ (some pa), s1) => if memUp s1 pa then (.ok pa, (queueWalk s1 vd die ipa needs true).2) else (.dirty, s1)
  | (.onHold, s1) => (.dirty, s1)
  | (x, s1) => devAsk s1 vd die ipa needs x

/-- `n` words of a launch queue; a refused one or a held one ends the read. -/
def queueWords (vd : Nat) : Nat → Nat → State → Except DevRes (List DWord) × State
  | 0, _, s => (.ok [], s)
  | n + 1, ipa, s =>
    match queueWord s vd ipa needR with
    | (.ok pa, s1) =>
      (match queueWords vd n (ipa + 8) s1 with
       | (.ok l, s2) => (.ok (rd64 s1 pa :: l), s2)
       | r => r)
    | (x, s1) => (.error x, s1)

/-- A fault that R459 delivers on the header or a record: reason 6, and the queue waits for the next TAIL write (20 R494). -/
def queueFault (s : State) (vd : Nat) (n kdesc : DWord) : State :=
  let s1 := postRefusal s vd cLaunchRefused 6 n kdesc
  setVd s1 vd { getVd s1 vd with stopped := true, rung := false }

/-- The dispatcher's read is held on a tag, if on any. -/
def holdDev (s : State) (vd : Nat) (tag : Option Nat) : State := setVd s vd { getVd s vd with devHeld := tag }

/-- Writes HEAD := `n` + 1 in the queue's header and in the device's copy and goes on with `f`; a write of HEAD that is held leaves the record
for later, and a refused one is reported (20 R494). -/
def withHead (s : State) (vd : Nat) (n kdesc : DWord) (f : State → State) : State :=
  match queueWord s vd ((getVd s vd).qbase.toNat + 8) needW with
  | (.ok pa, s1) => f (wr64 (setVd s1 vd { getVd s1 vd with qhead := n + 1 }) pa (n + 1))
  | (.held tag, s1) => holdDev s1 vd tag
  | (.dirty, s1) => s1
  | (.bad, s1) => queueFault s1 vd n kdesc

/-- Accepts or refuses the record numbered HEAD of a VD's queue (13 R357, 20 R494). -/
def acceptRecord (s : State) (vd : Nat) (n : DWord) (ws : List DWord) : State :=
  if !numberRoom s vd 1 || (diesOf (recDies ws)).any (fun d => !tableRoom s d 1) then s
  else match judge s vd ws with
    | (.hold tag, s1) => holdDev s1 vd tag
    | (.version e, s1) => withHead s1 vd n (wordAt ws 0) (fun s => postRefusal s vd cVersion e n (wordAt ws 0))
    | (.refuse r f, s1) => withHead s1 vd n (wordAt ws 0) (fun s => postRefusal s vd cLaunchRefused (r + f * 2 ^ 8) n (wordAt ws 0))
    | (.accept k, s1) => withHead s1 vd n (wordAt ws 0) (fun s =>
        createJob s (mkJob vd (freeJob s vd) k (recNtask ws) (recArgs ws) (diesOf (recDies ws)) (recPrio ws) (wordAt ws 2) none none))

/-- Whether a partition is awake, so that its queues are read (13 R358). -/
def partAwake (s : State) (pn : Nat) : Bool :=
  match getPart s pn with
  | some p => decide (p.clamp = .awake)
  | none => false

/-- The dispatcher reads the header of a rung queue and its next record (13 R355, 20 R496). -/
def launchStep (vd : Nat) (s : State) : State :=
  let v := getVd s vd
  if !v.en || !v.rung || v.stopped || !partAwake s (partOf vd) then s
  else match queueWords vd 1 v.qbase.toNat s with
    | (.error (.held tag), s1) => holdDev s1 vd tag
    | (.error .dirty, s1) => s1
    | (.error _, s1) => (queueFault s1 vd v.qhead 0)
    | (.ok hdr, s1) =>
      let tail := wordAt hdr 0
      let head := v.qhead
      if tail.toNat < head.toNat ∨ 2 ^ v.qlog < tail.toNat - head.toNat then
        let s2 := postRefusal s1 vd cLaunchRefused 5 tail 0
        (setVd s2 vd { getVd s2 vd with stopped := true, rung := false })
      else if tail = head then (setVd s1 vd { getVd s1 vd with rung := false })
      else match queueWords vd 16 (v.qbase.toNat + 64 + 128 * (head.toNat % 2 ^ v.qlog)) s1 with
        | (.error (.held tag), s2) => holdDev s2 vd tag
        | (.error .dirty, s2) => s2
        | (.error _, s2) => (queueFault s2 vd head 0)
        | (.ok ws, s2) => (acceptRecord s2 vd head ws)

def execLaunchAccept (vd : Nat) (s : State) : Host.Outcome State Fault Refusal := .next (launchStep vd s)

/-- A VD stops being idle: a clamp proposal of its partition lapses (17 R429). -/
def touchVd (s : State) (vd : Nat) : State :=
  let s1 := setVd s vd { getVd s vd with idleSince := s.timeNs }
  match getPart s1 (partOf vd) with
  | some p => setPart s1 (partOf vd) { p with proposal := none }
  | none => s1

/-- A write of TAIL rings the dispatchers (13 R355); a stopped queue is read again. -/
def ringVd (s : State) (vd : Nat) : State := touchVd (setVd s vd { getVd s vd with rung := true, stopped := false }) vd

/-- What a lane's spawn record and descriptor give (09 R252, R253). -/
inductive SpawnRes where
  | ready (ws : List DWord) (k : Kernel) (gate : Option Loc)
  | fault (f : FaultInfo)
  | held (b : Blocked) (f : FaultInfo)
  deriving DecidableEq, Repr

/-- SPAWN_REFUSED of a lane, and what holds a lane whose pages are requested (20 R497). -/
def spawnRefused (l reason field : Nat) (a : DWord) : FaultInfo :=
  { cause := cSpawnRefused, lanes := laneMask l, detail := reason + field * 2 ^ 8, addr := a }
def spawnHeld (l reason field : Nat) (a : DWord) (r : DevRes) : SpawnRes :=
  match r with
  | .held tag => .held (.page tag.toList (spawnRefused l reason field a)) (spawnRefused l reason field a)
  | .dirty => .held .dirty (spawnRefused l reason field a)
  | _ => .fault (spawnRefused l reason field a)

/-- The lowest field of a spawn record out of range: NTASK, NARG, or a nonzero unlisted byte. -/
def spawnField (ws : List DWord) (nargs : Nat) : Option Nat :=
  let w := wordAt ws 1
  let narg := fld w 39 32
  if fld w 31 0 = 0 ∨ 16 < narg ∨ narg < nargs ∨ fld w 63 40 ≠ 0 then some 1
  else (List.range 4).findSome? (fun j => if wordAt ws (12 + j) ≠ 0 then some (12 + j) else none)

/-- Reason 3 for the gate and the futures of a spawn record whose descriptor is good. -/
def spawnFutures (s : State) (c : Ctx) (l : Nat) (va : DWord) (ws : List DWord) (k : Kernel) : SpawnRes × State :=
  let vd := c.t.vd
  let die := c.t.die
  let g := (wordAt ws 2).toNat
  let gate := (wordAt ws 3).toNat
  if g % 16 ≠ 0 then (.fault (spawnRefused l 3 2 va), s)
  else match devRange s vd die g (16 * (fld (wordAt ws 1) 31 0 + 1)) needRW with
    | (.ok _, s1) =>
      if gate = 0 then (.ready ws k none, s1)
      else if gate % 16 ≠ 0 then (.fault (spawnRefused l 3 3 va), s1)
      else match devPage s1 vd die gate needR with
        | (.ok pa, s2) => (.ready ws k (some (.phys pa)), s2)
        | (r, s2) => (spawnHeld l 3 3 va r, s2)
    | (r, s1) => (spawnHeld l 3 2 va r, s1)

/-- The checks of the record of one lane in the order of their reasons; an unaccepted ENCV is UNSUPPORTED_VERSION (18 R441, R451). -/
def spawnJudge (s : State) (c : Ctx) (l : Nat) (va : DWord) (ws : List DWord) : SpawnRes × State :=
  let vd := c.t.vd
  let kdesc := (wordAt ws 0).toNat
  let early : SpawnRes := match spawnField ws 0 with
    | some f => .fault (spawnRefused l 2 f va)
    | none => .fault (spawnRefused l 3 0 va)
  if kdesc % 256 ≠ 0 then (early, s)
  else match devPage s vd c.t.die kdesc needR with
    | (.bad, s1) => (early, s1)
    | (.ok pa, s1) =>
      let dw := rdWords s1 pa 32
      if poisonedRange s1 pa 256 then (early, s1)
      else if !encvOk (descEncv dw) then
        (.fault { cause := cVersion, lanes := laneMask l, detail := descEncv dw, addr := va }, s1)
      else match descFault dw with
        | some j => (.fault (spawnRefused l 1 j va), s1)
        | none =>
          let k := kernelOf (wordAt ws 0) dw
          match spawnField ws k.nargs with
          | some f => (.fault (spawnRefused l 2 f va), s1)
          | none => spawnFutures s1 c l va ws k
    | (r, s1) => (spawnHeld l 3 0 va r, s1)

/-- A record of `n` bytes as a list of 64-bit words. -/
def splitWords (x : Nat) : Nat → List DWord
  | 0 => []
  | n + 1 => w64 x :: splitWords (x / 2 ^ 64) n

/-- One lane's record, read at issue as a load of the thread. -/
def spawnLane (f : RSync) (c : Ctx) (s : State) (l : Nat) : SpawnRes × State :=
  let a := laneAddr c.w f.space f.a 0 l
  match checkAccess s c f.space 64 2 needR (recordAccs f.space a 64 l) with
  | (.fault x, s1) => (.fault x, s1)
  | (.held (.page tags x), s1) => (.held (.page tags x) x, s1)
  | (.held b, s1) => (.held b { cause := cPageFault, lanes := laneMask l }, s1)
  | (.ok ps, s1) =>
    match lostAccs s1 c 0 ps with
    | [] =>
      let (vals, s2) := readAll s1 c 0 ps
      spawnJudge s2 c l (addrWord a) (vals.flatMap (fun v => splitWords v.2 (16 / vals.length)))
    | bad =>
      let (x, s2) := dataFault s1 c bad
      (.fault x, s2)

/-- Every lane's record. -/
def spawnLanes (f : RSync) (c : Ctx) : List Nat → State → List (Nat × SpawnRes) × State
  | [], s => ([], s)
  | l :: t, s =>
    let (r, s1) := spawnLane f c s l
    let (rs, s2) := spawnLanes f c t s1
    ((l, r) :: rs, s2)

/-- Creates the child of a lane, whose number goes to d (R252). -/
def spawnOne (f : RSync) (c : Ctx) (s : State) (e : Nat × SpawnRes) : State :=
  match e.2 with
  | .ready ws k gate =>
    let num := freeJob s c.t.vd
    let prio := ((taskJob s c.t).map (fun j => j.prio)).getD 0
    let j := mkJob c.t.vd num k (fld (wordAt ws 1) 31 0) (recArgs ws) [c.t.die] prio (wordAt ws 2) gate (some c.k)
    modWarp (createJob s j) c.k c.i (fun w => dst32 w f.d e.1 (w32 num))
  | _ => s

/-- What a lane meets, if it is not ready. -/
def spawnFault : SpawnRes → Option FaultInfo
  | .ready _ _ _ => none
  | .fault f => some f
  | .held _ f => some f

def bodySpawn (f : RSync) (s : State) (c : Ctx) : Res :=
  let (rs, s1) := spawnLanes f c (maskLanes c.g) s
  match worstFault (rs.filterMap (fun e => spawnFault e.2)) with
  | some x =>
    (match rs.findSome? (fun e => match e.2 with
        | .held b y => if y.cause = x.cause then some b else none
        | _ => none) with
     | some b => .state (blockWarp s1 c.k c.i b)
     | none => .fault x s1)
  | none =>
    let n := rs.length
    let a := laneAddr c.w f.space f.a 0 (lane0 c.g)
    if n = 0 then .done s1
    else if !tableRoom s1 c.t.die n then .fault { spawnRefused 0 4 0 (addrWord a) with lanes := c.g } s1
    else if !numberRoom s1 c.t.vd n then .fault { spawnRefused 0 5 0 (addrWord a) with lanes := c.g } s1
    else .done (pollGates (rs.foldl (spawnOne f c) s1))

def execSpawn (f : RSync) (s : State) : Host.Outcome State Fault Refusal := warpInstr (.spawn f) s (fun c => bodySpawn f s c)

/-- A `TEND` begins: every other warp of the task stops, and its lattice warps drain as for pre-emption before the `TEND` goes on (R254). -/
def beginEnd (s : State) (k i : Nat) : State :=
  match getTask s k with
  | some t => (taskLattice s k).foldl (fun s j => preemptWarp s k j .preempt) (setTask s k { t with ending := some i })
  | none => s

/-- TEND ends the task with the value and status of the lowest active lane (R254). -/
def execTend (f : RRaw) (s : State) : Host.Outcome State Fault Refusal :=
  warpInstr (.tend f) s (fun c =>
    if c.g = 0 then .warp c.w
    else if !(taskLattice s c.k).isEmpty then .state (beginEnd s c.k c.i)
    else if endHeld s c.k then .state (blockWarp s c.k c.i .dirty)
    else .state (endTask s c.k (src64 c.w f.a (lane0 c.g)) ((src32 c.w f.b (lane0 c.g)).toNat % 2 ^ 16)))

end Sys2Proof.Machine
end

