-- ==== Sys2Proof/Machine/Copy.lean ====
section
/-! DEFINITION. Copies, gathers and scatters: issue, chunks, completion and stops, and the cache hints of group 0xB (01 R16 to R19, 04
R115 to R117, 09 R257 to R266, 14 R392, 18 R450, R456, 19 R459 to R470, 21 R507 to R511). -/

namespace Sys2Proof.Machine

/-! Paths. -/

/-- Whether a boundary carries traffic: a disabled direction disables the whole boundary (21 R509). -/
def boundUp (s : State) (b : Nat) : Bool :=
  let dflt : LinkState := { failed := [], disabled := false }
  !(Store.get dflt s.bounds (2 * b)).disabled && !(Store.get dflt s.bounds (2 * b + 1)).disabled

/-- Whether two dies can reach one another: by the one boundary of Krydy 2D, or either way round the ring (R16, 21 R509). -/
def diesMeet (s : State) (a b : Nat) : Bool :=
  let lo := Nat.min a b
  let hi := Nat.max a b
  if a = b then true
  else if s.fit.fourDies then
    (List.range 4).all (fun i => decide (i < lo ∨ hi ≤ i) || boundUp s i)
      || (List.range 4).all (fun i => decide (lo ≤ i ∧ i < hi) || boundUp s i)
  else boundUp s 0

/-- Whether a die reaches a Zalna port with a working link (R19, 21 R509, R514). -/
def peerPath (s : State) (die : Nat) : Bool :=
  s.fit.fourDies && (List.range 8).any (fun z =>
    let dflt : LinkState := { failed := [], disabled := false }
    s.fit.zports.getLsbD z && !(Store.get dflt s.zlinks (2 * z)).disabled && !(Store.get dflt s.zlinks (2 * z + 1)).disabled
      && dieUp s (z / 2) && diesMeet s die (z / 2))

/-! Engine accesses. -/

/-- Where a byte of an engine operation lies. -/
inductive EngPlace where
  | phys (pa : Nat)
  | peer
  | shared (off : Nat)
  deriving DecidableEq, Repr

/-- What an engine step meets before it can act: a stop, or a hold. -/
inductive EngBar where
  | stop (cause sub : Nat) (addr : DWord)
  | hold (st : EngState)
  deriving DecidableEq, Repr

/-- What identifies an engine operation to its accesses. -/
structure EngId where
  task : Nat
  core : Nat
  unit : Nat
  deriving DecidableEq, Repr

def EngId.vd (e : EngId) : Nat := keyVd e.task
def EngId.die (e : EngId) : Nat := dieOfCore e.core

/-- The place that a translation gives, or the subcause of 19 R467. -/
def engPlace (s : State) (e : EngId) : XRes → Except (Nat × Nat) EngPlace
  | .ok 0 d (some pa) => if dieUp s d && diesMeet s e.die d then .ok (.phys pa) else .error (cCopyFault, 10)
  | .ok 1 _ (some pa) =>
    let b := farBlockOf pa
    let ch := blockChannel b
    if !s.fit.farm then .error (cCopyFault, 5)
    else if !elemOf b (farBlocks s (partOf e.vd)) then .error (cCopyFault, 4)
    else if Store.get false s.lostFarCh ch || Store.get false s.firex.lostFar b || !dieUp s (channelDie s ch) || !diesMeet s e.die (channelDie s ch) then
      .error (cCopyFault, 10)
    else .ok (.phys pa)
  | .ok 2 _ (some pa) => if dieUp s 0 && diesMeet s e.die 0 then .ok (.phys pa) else .error (cCopyFault, 10)
  | .ok _ _ _ => if peerPath s e.die then .ok .peer else .error (cCopyFault, 7)
  | .pageFault 1 _ _ => .error (cCopyFault, 1)
  | .perm 1 _ _ _ => .error (cCopyFault, 3)
  | .data _ => .error (cDataError, 1)
  | _ => .error (cCopyFault, 2)

/-- The page of host memory at which the host's ATS translation puts a page that a VD's copy names, or none (14 R390, R392; log 65). -/
def atsPage (s : State) (vd page : Nat) : Option Nat := Store.get (some page) s.ats (vd * 2 ^ 52 + page)

/-- A PRI request of a copy engine for a page of host memory, carrying the VD's generation: it joins an outstanding one or takes one of the
VD's 64 tags (14 R390, R392). -/
def priRequest (s : State) (vd die : Nat) (va : DWord) (page : Nat) (needs : Needs) : Option Nat × State :=
  let v := getVd s vd
  let addr := w64 (page * 4096)
  match v.tags.find? (fun t => decide (t.2.ipa = addr) && t.2.pri.isSome) with
  | some (tag, _) => (some tag, s)
  | none =>
    match Store.freeKey v.tags 64 0 with
    | none => (none, s)
    | some tag =>
      let rq : PageReq := { ipa := addr, va := va, die := die, needs := needs, perm := false, posted := false, pri := some v.gen, walks := [] }
      (some tag, setVd s vd { v with tags := Store.put v.tags tag rq })

/-- An operation held on a request, or unposted while no tag is free. -/
def holdOn (va : DWord) : Option Nat → EngBar
  | some tag => .hold (.held tag va)
  | none => .hold .going

/-- The place in host memory that a stage-2 leaf names: through ATS, or by a PRI request (14 R392, 19 R464). -/
def hostPlace (s : State) (e : EngId) (va : DWord) (needs : Needs) (pa : Nat) : Except EngBar EngPlace × State :=
  let a := pa - 2 ^ 64
  match atsPage s e.vd (a / 4096) with
  | some page => (.ok (.phys (hostPa (page * 4096 + a % 4096))), s)
  | none =>
    let (tag, s1) := priRequest s e.vd e.die va (a / 4096) needs
    (.error (holdOn va tag), s1)

/-- One address of an engine operation, through one of its core's TLBs: its place, or what holds or stops the operation (19 R459, R467).
`perform` tells whether the access is performed now (03 R95). -/
def engAddr (s : State) (e : EngId) (sel : TlbSel) (va : DWord) (needs : Needs) (perform : Bool) : Except EngBar EngPlace × State :=
  if va.extractLsb' 56 8 ≠ 0 then (.error (.stop cCopyFault 11 va), s)
  else match if perform then resolve sel e.vd e.die va.toNat needs serviceFuel s else lookFor sel e.vd e.die va.toNat needs serviceFuel s with
    | (.onHold, s1) => (.error (.hold .heldDirty), s1)
    | (x, s1) =>
      if serviceFor s1 e.vd e.die x = .request then
        let (tag, s2) := pageRequest s1 (bayOfCore e.core) e.vd e.die va.toNat needs x 0 e.unit (keyHandle e.task)
        (.error (holdOn va tag), s2)
      else match engPlace s1 e x, x with
        | .ok (.phys pa), .ok 2 _ _ => hostPlace s1 e va needs pa
        | .ok p, _ => (.ok p, s1)
        | .error (c, n), _ => (.error (.stop c n va), s1)

/-- A byte of a space: an address, or an offset of the issuing task's `.shared` space. -/
def engByte (s : State) (e : EngId) (sp : Bool) (a : DWord) (needs : Needs) (perform : Bool) : Except EngBar EngPlace × State :=
  if sp then (.ok (.shared a.toNat), s) else engAddr s e (.copy e.core) a needs perform

/-- The places of a list of byte moves, destination and source; the first that fails ends the list. -/
def engPass (e : EngId) (dsp ssp perform : Bool) : List (DWord × DWord) → State → Except EngBar (List (EngPlace × EngPlace)) × State
  | [], s => (.ok [], s)
  | (d, a) :: t, s =>
    match engByte s e ssp a needR perform with
    | (.error b, s1) => (.error b, s1)
    | (.ok pa, s1) =>
      match engByte s1 e dsp d needW perform with
      | (.error b, s2) => (.error b, s2)
      | (.ok pd, s2) =>
        match engPass e dsp ssp perform t s2 with
        | (.error b, s3) => (.error b, s3)
        | (.ok l, s3) => (.ok ((pd, pa) :: l), s3)

/-- The places of byte moves that are performed together: every one is looked for first, and then their pages are marked (03 R95). -/
def engPlaces (e : EngId) (dsp ssp : Bool) (l : List (DWord × DWord)) (s : State) : Except EngBar (List (EngPlace × EngPlace)) × State :=
  match engPass e dsp ssp false l s with
  | (.error b, s1) => (.error b, s1)
  | (.ok _, s1) => engPass e dsp ssp true l s1

/-- The byte at a place, at memory and never through L1 (R115), and whether its value is lost. A peer's byte is a free value (log 6). -/
def engRead (s : State) (task : Nat) (p : EngPlace) : Byte × Bool × State :=
  match p with
  | .phys pa => (rdByte s.mem pa, poisoned s pa, s)
  | .peer =>
    let (x, s1) := freshFree s
    (x.extractLsb' 0 8, false, s1)
  | .shared o => match getTask s task with
    | some t => (Store.get 0 t.shared o, Store.get false t.lostShared (o / 4), s)
    | none => (0, false, s)

/-- Reads the sources of a list of moves. -/
def engReads (task : Nat) : List (EngPlace × EngPlace) → State → List (EngPlace × Byte × Bool) × State
  | [], s => ([], s)
  | (d, p) :: t, s =>
    let (b, bad, s1) := engRead s task p
    let (l, s2) := engReads task t s1
    ((d, b, bad) :: l, s2)

/-- Writes one byte at a place; a write to a peer leaves the package. -/
def engWrite (task : Nat) (s : State) (w : EngPlace × Byte × Bool) : State :=
  match w.1 with
  | .phys pa => { s with mem := wrByte s.mem pa w.2.1 }
  | .peer => s
  | .shared o => match getTask s task with
    | some t => setTask s task { t with shared := Store.set 0 t.shared o w.2.1 }
    | none => s

/-- The bytes written in a unit of `n` bytes: whether they cover it, and whether one of them is lost. -/
def unitMark (offs : List (Nat × Bool)) (n u : Nat) (old : Bool) : Bool :=
  let here := offs.filter (fun x => decide (x.1 / n = u))
  let covered := (List.range n).all (fun i => here.any (fun x => decide (x.1 % n = i)))
  here.any (fun x => x.2) || (old && !covered)

/-- The units that a list of bytes touches, each once. -/
def unitsOf (offs : List (Nat × Bool)) (n : Nat) : List Nat :=
  offs.foldl (fun l x => if l.head? = some (x.1 / n) ∨ elemOf (x.1 / n) l then l else x.1 / n :: l) []

/-- The marks of the written sectors and `.shared` words: lost sources mark them, a write of the whole unit clears them (17 R433). -/
def engMarks (task : Nat) (ws : List (EngPlace × Byte × Bool)) (s : State) : State :=
  let mem := ws.filterMap (fun w => match w.1 with
    | .phys pa => some (pa, w.2.2)
    | _ => none)
  let sh := ws.filterMap (fun w => match w.1 with
    | .shared o => some (o, w.2.2)
    | _ => none)
  let s1 := (unitsOf mem 16).foldl (fun s u =>
    setPoison (touchSector s (16 * u) true) (16 * u) (unitMark mem 16 u (Store.get false s.poison u))) s
  match getTask s1 task with
  | some t => setTask s1 task { t with lostShared := (unitsOf sh 4).foldl (fun m u =>
      Store.set false m u (unitMark sh 4 u (Store.get false m u))) t.lostShared }
  | none => s1

/-- The slices serve the sectors of the places that an engine reads. -/
def engTouch (l : List EngPlace) (s : State) : State :=
  let offs := l.filterMap (fun p => match p with
    | .phys pa => some (pa, false)
    | _ => none)
  (unitsOf offs 16).foldl (fun s u => touchSector s (16 * u) false) s

/-- Moves bytes between places, each source read before the writes of the list. -/
def engMove (task : Nat) (l : List (EngPlace × EngPlace)) (s : State) : State :=
  let (ws, s1) := engReads task l (engTouch (l.map Prod.snd) s)
  engMarks task ws (ws.foldl (engWrite task) s1)

/-! What an operation moves. -/

/-- Bytes and chunks of a copy (R260, R261). -/
def copyBytes : CopyKind → Nat
  | .block _ _ _ _ x y z _ _ _ _ => x * (y + 1) * (z + 1)
  | .elems _ _ _ _ els => els.length
def chunkCount : CopyKind → Nat
  | .block d a ds ss x y z s1 s2 s3 s4 => (copyBytes (.block d a ds ss x y z s1 s2 s3 s4) + 4095) / 4096
  | .elems _ _ _ _ _ => 1

/-- Destination and source of byte `n` of a copy, in destination order (R260, R261). -/
def blockByte (dst src : DWord) (xlen ycnt : Nat) (systr dystr szstr dzstr : Int) (n : Nat) : DWord × DWord :=
  let x : Nat := n % xlen
  let y : Nat := n / xlen % (ycnt + 1)
  let z : Nat := n / xlen / (ycnt + 1)
  (wrapN 64 (dst.toNat + z * dzstr + y * dystr + x), wrapN 64 (src.toNat + z * szstr + y * systr + x))

/-- The first byte from `b` that starts a unit of `u` bytes of the destination, or does not follow the byte before it. -/
def unitStart (dst : Nat → DWord) (u total : Nat) : Nat → Nat → Nat
  | 0, b => b
  | n + 1, b =>
    if b = 0 ∨ total ≤ b then Nat.min b total
    else if (dst b).toNat % u ≠ 0 ∧ dst b = dst (b - 1) + 1 then unitStart dst u total n (b + 1) else b

/-- The first byte of chunk `n`: every 4,096 bytes (R261), but an aligned unit of the destination that two chunks share goes whole with the
first of them (04 R116). -/
def chunkStart (n : Nat) (k : CopyKind) : Nat :=
  match k with
  | .block dst src dsp _ x y z systr dystr szstr dzstr =>
    unitStart (fun b => (blockByte dst src x y systr dystr szstr dzstr b).1) (if dsp then 16 else 8) (x * (y + 1) * (z + 1)) 16 (4096 * n)
  | .elems _ _ _ _ _ => 0

/-- The byte moves of chunk `n`. -/
def chunkMoves (n : Nat) : CopyKind → List (DWord × DWord)
  | .block dst src dsp ssp x y z systr dystr szstr dzstr =>
    let k : CopyKind := .block dst src dsp ssp x y z systr dystr szstr dzstr
    (List.range (chunkStart (n + 1) k - chunkStart n k)).map
      (fun i => blockByte dst src x y systr dystr szstr dzstr (chunkStart n k + i))
  | .elems _ _ _ _ _ => []

/-- The spaces of an operation: whether the destination, and whether the source, is `.shared`. -/
def dstShared : CopyKind → Bool
  | .block _ _ d _ _ _ _ _ _ _ _ => d
  | .elems _ _ d _ _ => d
def srcShared : CopyKind → Bool
  | .block _ _ _ a _ _ _ _ _ _ _ => a
  | .elems _ _ _ a _ => a

/-- Whether an operation uses the `.shared` space of its task (R265). -/
def compShared : Comp → Bool
  | .shared _ => true
  | _ => false

/-- The byte moves of one element. -/
def elemMoves (width : Nat) (d a : DWord) : List (DWord × DWord) :=
  (List.range width).map (fun i => (d + w64 i, a + w64 i))

/-- The type in which an element of a width adds. -/
def elemTy (width op : Nat) : Ty := if op = 2 then .f32 else if width = 8 then .z64 else .z32

/-- A little-endian number of a list of bytes. -/
def bytesNat : List Byte → Nat
  | [] => 0
  | b :: t => b.toNat + 256 * bytesNat t

/-- One element of `SCATTER.add` or `SCATTER.fadd`: one indivisible action at a die page (R263). A poisoned location stops it, unwritten
(19 R479). -/
def elemAdd (s : State) (e : EngId) (width op : Nat) (d : DWord) (l : List (EngPlace × EngPlace)) : Except EngBar State :=
  let onDie := l.all (fun x => match x.1 with
    | .phys pa => decide (pa < 2 ^ 40)
    | _ => false)
  if !onDie then .error (.stop cCopyFault 9 d)
  else if l.any (fun x => match x.1 with
      | .phys pa => poisoned s pa
      | _ => false) then .error (.stop cDataError 1 d)
  else
    let (old, s1) := engReads e.task (l.map (fun x => (x.1, x.1))) s
    let (add, s2) := engReads e.task l s1
    let v := atomNew (if op = 2 then .fadd else .add) (elemTy width op) (bytesNat (old.map (fun w => w.2.1)))
      (bytesNat (add.map (fun w => w.2.1))) 0
    let ws := (add.zip (List.range width)).map (fun (w, i) => (w.1, BitVec.ofNat 8 (v / 256 ^ i), w.2.2))
    .ok (engMarks e.task ws (ws.foldl (engWrite e.task) s2))

/-- One element: its places first, then its move. -/
def elemStep (s : State) (e : EngId) (k : CopyKind) (width op : Nat) (d a : DWord) : Except EngBar Unit × State :=
  match engPlaces e (dstShared k) (srcShared k) (elemMoves width d a) s with
  | (.error b, s1) => (.error b, s1)
  | (.ok l, s1) =>
    if op = 0 then (.ok (), engMove e.task l s1)
    else match elemAdd s1 e width op d l with
      | .error b => (.error b, s1)
      | .ok s2 => (.ok (), s2)

/-- The elements not yet performed, in lane order; the mask of those performed, and what ends the run. -/
def elemRun (e : EngId) (k : CopyKind) (width op : Nat) : List (Nat × DWord × DWord) → Nat → State → Nat × Option EngBar × State
  | [], m, s => (m, none, s)
  | (l, d, a) :: t, m, s =>
    if m.testBit l then elemRun e k width op t m s
    else match elemStep s e k width op d a with
      | (.ok _, s1) => elemRun e k width op t (m + 2 ^ l) s1
      | (.error b, s1) => (m, some b, s1)

/-! Completion and stops. -/

/-- A record of an engine operation (19 R466, R432). -/
def engRec (s : State) (e : EngId) (warp : Nat) (pc : DWord) (cause detail : Nat) (addr info : DWord) : Rec :=
  { cause := cause, unit := e.unit, detail := detail, pc := pc, addr := addr, info := info, vd := e.vd, task := keyHandle e.task,
    gen := (getVd s e.vd).gen, core := e.core, warp := warp }

/-- The completion future's place, as an access of the operation (19 R459, R467): its record must lie in a die page. -/
def compPlace (s : State) (e : EngId) : Comp → Except EngBar (Option Loc) × State
  | .none => (.ok none, s)
  | .shared off =>
    if (getTask s e.task).any (fun t => lostSharedRange t off 16) then (.error (.stop cDataError 1 (w64 off)), s)
    else (.ok (some (.shared e.task off)), s)
  | .die va =>
    match engAddr s e (.copy e.core) va needRW true with
    | (.error (.stop c n a), s1) => (.error (.stop (if c = cDataError then c else cCopyFault) (if c = cDataError then n else 8) a), s1)
    | (.error b, s1) => (.error b, s1)
    | (.ok (.phys pa), s1) =>
      if 2 ^ 40 ≤ pa then (.error (.stop cCopyFault 8 va), s1)
      else if poisonedRange s1 pa 16 then (.error (.stop cDataError 1 va), s1)
      else (.ok (some (.phys pa)), s1)
    | (.ok _, s1) => (.error (.stop cCopyFault 8 va), s1)

/-- The address of a completion future as a record names it. -/
def compAddr : Comp → DWord
  | .none => 0
  | .die va => va
  | .shared off => w64 off

/-- The completion fill (R262, 19 R470): a FULL future keeps its value, and the engine posts FUTURE_DOUBLE_PUT. -/
def compFill (s : State) (e : EngId) (warp : Nat) (pc : DWord) (c : Comp) (value : DWord) : Except EngBar Unit × State :=
  match compPlace s e c with
  | (.error b, s1) => (.error b, s1)
  | (.ok none, s1) => (.ok (), s1)
  | (.ok (some l), s1) =>
    match fillRec s1 e.vd (locDie s1 l) l value 0 with
    | (.double, s2) =>
      (.ok (), postVd s2 e.vd false (engRec s2 e warp pc cDoublePut 0 (compAddr c) (recOwner (rdLoc s2 l 0))))
    | (_, s2) => (.ok (), s2)

/-- What follows an engine operation that has ended: its entry is free, waiting warps look again, and its task's allocation may go. -/
def engEnd (s : State) (task : Nat) : State := pollGates (sweepEnded (wakeCopies s) task)

def setCopy (s : State) (core entry : Nat) (o : CopyOp) : State :=
  setCore s core { getCore s core with copies := Store.put (getCore s core).copies entry o }
def delCopy (s : State) (core entry : Nat) : State :=
  setCore s core { getCore s core with copies := Store.del (getCore s core).copies entry }

/-- Stops or holds a copy (19 R459, R466). -/
def copyBar (s : State) (core entry : Nat) (o : CopyOp) (b : EngBar) : State :=
  match b with
  | .hold st => setCopy s core entry { o with st := st }
  | .stop c n a =>
    let e : EngId := { task := o.task, core := core, unit := 6 }
    setCopy (postVd s e.vd false (engRec s e o.warp o.pc c (n + entry * 2 ^ 8) a (w64 o.progress))) core entry
      { o with st := .stopped c n }

/-- The completion of a copy whose chunks are all performed. -/
def copyFinish (s : State) (core entry : Nat) (o : CopyOp) : State :=
  let e : EngId := { task := o.task, core := core, unit := 6 }
  match compFill s e o.warp o.pc o.comp (w64 (copyBytes o.kind)) with
  | (.error b, s1) => copyBar s1 core entry o b
  | (.ok _, s1) => engEnd (delCopy s1 core entry) o.task

/-- The mask of all elements. -/
def elemMask (els : List (Nat × DWord × DWord)) : Nat := els.foldl (fun m x => m + 2 ^ x.1) 0

/-- Whether every chunk, or every element, is performed. -/
def copyMoved (o : CopyOp) : Bool :=
  match o.kind with
  | .elems _ _ _ _ els => decide (o.progress = elemMask els)
  | k => decide (chunkCount k ≤ o.progress)

/-- Performs the next chunk of a copy (R261, R263); after the last the future is filled. -/
def copyStep (s : State) (core entry : Nat) (o : CopyOp) : State :=
  let e : EngId := { task := o.task, core := core, unit := 6 }
  let next (o : CopyOp) (s : State) : State := if copyMoved o then copyFinish s core entry o else setCopy s core entry o
  if copyMoved o then copyFinish s core entry o
  else match o.kind with
    | .elems width op ds ss els =>
      (match elemRun e (.elems width op ds ss els) width op els o.progress s with
       | (m, some b, s1) => copyBar s1 core entry { o with progress := m } b
       | (m, none, s1) => next { o with progress := m } s1)
    | k =>
      match engPlaces e (dstShared k) (srcShared k) (chunkMoves o.progress k) s with
      | (.error b, s1) => copyBar s1 core entry o b
      | (.ok l, s1) => next { o with progress := o.progress + 1 } (engMove o.task l s1)

/-- Whether a VD's work runs: its partition is awake, and it holds the time slice with no switch in progress (13 R371, 14 R396). -/
def vdRuns (s : State) (vd : Nat) : Bool :=
  match getPart s (partOf vd) with
  | some p => decide (p.cur = some vd ∧ p.switchTo = none ∧ p.clamp = .awake)
  | none => false

/-- Whether an operation that uses its task's `.shared` space finds it on a core (R265). -/
def opSeated (s : State) (task : Nat) (shared : Bool) : Bool :=
  !shared || (match getTask s task with
    | some t => t.core.isSome
    | none => false)

/-- One chunk of a copy entry of a core. -/
def execCopyChunk (core entry : Nat) (s : State) : Host.Outcome State Fault Refusal :=
  match Store.find (getCore s core).copies entry with
  | none => .next s
  | some o =>
    let shared := dstShared o.kind || srcShared o.kind || compShared o.comp
    if o.st = .going ∧ vdRuns s (keyVd o.task) = true ∧ opSeated s o.task shared = true then .next (copyStep s core entry o)
    else .next s

/-! Issue. -/

/-- The space of XSP and the completion future of FSP (R257, R258). -/
def xspSpace (f : RCopy) : Space := if f.xsp = 1 then .shared else .die
def compOf (f : RCopy) (w : Warp) (l : Nat) : Comp :=
  match f.fsp.toNat with
  | 0 => .die (src64 w f.b l)
  | 1 => .shared (src32 w f.b l).toNat
  | _ => .none

/-- The form checks of the completion future's address (18 R448, R456). -/
def compForm (f : RCopy) (c : Ctx) (l : Nat) : Option FaultInfo :=
  match compOf f c.w l with
  | .none => none
  | .die va => formFault c.kern .die 16 3 { lane := l, addr := (va.toNat : Int), n := 16 }
  | .shared off => formFault c.kern .shared 16 3 { lane := l, addr := (off : Int), n := 16 }

/-- The kind of copy that a descriptor describes: `n` is 0 for COPY, 1 for COPY2, 2 for COPY3 (R259). -/
def descKind (ws : List DWord) (n : Nat) : CopyKind :=
  let s32 (w : DWord) (lo : Nat) : Int := if n = 0 then 0 else (w.extractLsb' lo 32).toInt
  let s64 (w : DWord) : Int := if n = 2 then w.toInt else 0
  .block (wordAt ws 0) (wordAt ws 1) (decide (fld (wordAt ws 6) 1 0 = 1)) (decide (fld (wordAt ws 6) 3 2 = 1))
    (fld (wordAt ws 2) 31 0) (if n = 0 then 0 else fld (wordAt ws 2) 47 32) (if n = 2 then fld (wordAt ws 2) 63 48 else 0)
    (s32 (wordAt ws 3) 0) (s32 (wordAt ws 3) 32) (s64 (wordAt ws 4)) (s64 (wordAt ws 5))

/-- Whether the `.shared` bytes of a base, a row length and two strides with their counts stay in SHMEM, on multiples of 4 (R259). -/
def sharedSide (shmem : Nat) (base : DWord) (xlen ycnt zcnt : Nat) (ystr zstr : Int) : Bool :=
  let ends (n : Nat) (x : Int) : Int × Int := if x < 0 then (n * x, 0) else (0, n * x)
  let (ylo, yhi) := ends ycnt ystr
  let (zlo, zhi) := ends zcnt zstr
  decide (base.toNat % 4 = 0 ∧ (0 : Int) ≤ base.toNat + ylo + zlo ∧ (base.toNat : Int) + yhi + zhi + xlen ≤ shmem)

/-- Whether field `j` of a descriptor is in range (18 R450). -/
def copyFieldOk (shmem : Nat) (ws : List DWord) (n j : Nat) : Bool :=
  let w := wordAt ws j
  match descKind ws n, j with
  | .block d _ ds _ x y z _ dystr _ dzstr, 0 => !ds || sharedSide shmem d x y z dystr dzstr
  | .block _ a _ ss x y z systr _ szstr _, 1 => !ss || sharedSide shmem a x y z systr szstr
  | .block _ _ ds ss x _ _ _ _ _ _, 2 =>
    decide (x ≠ 0 ∧ (n ≠ 0 ∨ fld w 47 32 = 0) ∧ (n = 2 ∨ fld w 63 48 = 0)) && (!(ds || ss) || decide (x % 4 = 0))
  | .block _ _ ds ss _ _ _ systr dystr _ _, 3 =>
    if n = 0 then decide (w = 0) else (!ss || decide (systr % 4 = 0)) && (!ds || decide (dystr % 4 = 0))
  | .block _ _ _ ss _ _ _ _ _ szstr _, 4 => if n = 2 then !ss || decide (szstr % 4 = 0) else decide (w = 0)
  | .block _ _ ds _ _ _ _ _ _ _ dzstr, 5 => if n = 2 then !ds || decide (dzstr % 4 = 0) else decide (w = 0)
  | _, 6 => decide (fld w 1 0 ≤ 1 ∧ fld w 3 2 ≤ 1 ∧ fld w 63 4 = 0)
  | _, _ => decide (w = 0)

/-- Enters an operation in an issue entry. -/
def issueCopy (s : State) (c : Ctx) (entry : Nat) (k : CopyKind) (cp : Comp) : State :=
  let o : CopyOp := { task := c.k, warp := c.i, pc := c.w.pc, kind := k, comp := cp, progress := 0, st := .going, seq := s.seq }
  setCopy { s with seq := s.seq + 1 } c.core entry o

/-- The free entry of lowest number, of 16 (R264). -/
def freeCopy (s : State) (c : Ctx) : Option Nat := Store.freeKey (getCore s c.core).copies 16 0

/-- COPY, COPY2 and COPY3 (R258 to R260). -/
def bodyCopy (n : Nat) (f : RCopy) (s : State) (c : Ctx) : Res :=
  if c.g = 0 then .warp c.w
  else
    let l := lane0 c.g
    let a : Acc := { lane := l, addr := laneAddr c.w (xspSpace f) f.a 0 l, n := 64 }
    match worstFault ((formFault c.kern (xspSpace f) 64 2 a).toList ++ (compForm f c l).toList) with
    | some x => .fault x s
    | none =>
      match freeCopy s c with
      | none => .state (blockWarp s c.k c.i .copies)
      | some entry =>
        withAccess s c (xspSpace f) 64 2 needR 0 true [a] (fun s1 ps =>
          let (vals, s2) := readAll s1 c 0 ps
          let ws := vals.flatMap (fun v => splitWords v.2 8)
          match (List.range 8).find? (fun j => !copyFieldOk c.kern.shmem ws n j) with
          | some j => .fault { cause := cOutOfRange, lanes := laneMask l, detail := 9 + j * 2 ^ 8, addr := addrWord a.addr } s2
          | none => .done (issueCopy s2 c entry (descKind ws n) (compOf f c.w l)))

/-- GATHER and SCATTER (R263): `sc` for SCATTER, whose destination is the pair. 18 R448 asks for alignment of the operand of XSP alone, and
the far elements move at any address (DESIGN CHOICE, log 74). -/
def bodyElems (sc : Bool) (f : RCopy) (s : State) (c : Ctx) : Res :=
  if c.g = 0 then .warp c.w
  else
    let width := accBytes f.ty
    let x := if sc then f.a else f.d
    let y := if sc then f.d else f.a
    let accs : List Acc := (maskLanes c.g).map (fun l => { lane := l, addr := laneAddr c.w (xspSpace f) x 0 l, n := width })
    let forms := accs.filterMap (fun a =>
      if xspSpace f = .die ∧ a.addr % (width : Int) = 0 then none else formFault c.kern (xspSpace f) width 0 a)
    match worstFault (forms ++ (compForm f c (lane0 c.g)).toList) with
    | some z => .fault z s
    | none =>
      match freeCopy s c with
      | none => .state (blockWarp s c.k c.i .copies)
      | some entry =>
        let sh := decide (xspSpace f = .shared)
        let els := accs.map (fun a =>
          let p := addrWord (Acc.addr a)
          let q := src64 c.w y a.lane
          if sc then (a.lane, q, p) else (a.lane, p, q))
        .done (issueCopy s c entry (.elems width (if sc then f.ops.toNat else 0) (!sc && sh) (sc && sh) els) (compOf f c.w (lane0 c.g)))

/-! Cache hints. -/

/-- The range of a hint: its first address and the number of bytes, at most 2 MiB (R266). -/
def hintRange (f : RRaw) (c : Ctx) : Nat × Nat :=
  let l := lane0 c.g
  ((src64 c.w f.a l).toNat, Nat.min (src32 c.w f.b l).toNat (2 ^ 21))

/-- The pages of 64 KiB of a range. -/
def hintPages (a n : Nat) : List Nat :=
  if n = 0 then [] else (List.range ((a + n - 1) / 2 ^ 16 - a / 2 ^ 16 + 1)).map (fun i => (a / 2 ^ 16 + i) * 2 ^ 16)


/-- Discards the L1 lines of 64 bytes that a physical address lies in (03 R87). -/
def dropLine (s : State) (core pa : Nat) : State :=
  let c := getCore s core
  setCore s core { c with l1 := c.l1.filter (fun e => decide (e.1 / 4 ≠ pa / 64)) }

/-- The place of an address in die memory of the issuing die, for a hint, which performs no access. -/
def hintPlace (s : State) (c : Ctx) (va : Nat) : Option Nat :=
  if 2 ^ 56 ≤ va then none
  else match (translate s (.die c.core) c.t.vd c.t.die va 0 false).1 with
    | .ok 0 d (some pa) => if d = c.t.die then some pa else none
    | _ => none

/-- PREFETCH loads the translations of the pages of a range. -/
def prefetchPages (s : State) (c : Ctx) (a n : Nat) : State :=
  (hintPages a n).foldl (fun s p => if 2 ^ 56 ≤ p then s else hintFill s c.core c.t.vd c.t.die p) s

/-- CINV on one line of a range. -/
def cinvLine (c : Ctx) (s : State) (va : Nat) : State :=
  match hintPlace s c va with
  | some pa => dropLine s c.core pa
  | none => s

/-- CWB on one line of a range: its slice writes the dirty sectors back. -/
def cwbLine (c : Ctx) (s : State) (va : Nat) : State :=
  match hintPlace s c va with
  | some pa => cleanLines s (fun a => decide (a = pa / 64 * 64))
  | none => s

/-- PREFETCH on one line of a range: its slice holds the line. -/
def prefetchLine (c : Ctx) (s : State) (va : Nat) : State :=
  match hintPlace s c va with
  | some pa => touchL2 s (pa / 64 * 64) 64 false
  | none => s

/-- The lines of 64 bytes of a range. -/
def hintLines (a n : Nat) : List Nat :=
  if n = 0 then [] else (List.range ((a + n - 1) / 64 - a / 64 + 1)).map (fun i => (a / 64 + i) * 64)

/-! The meanings. -/

def execCopy (f : RCopy) (s : State) : Host.Outcome State Fault Refusal := warpInstr (.copy f) s (fun c => bodyCopy 0 f s c)
def execCopy2 (f : RCopy) (s : State) : Host.Outcome State Fault Refusal := warpInstr (.copy2 f) s (fun c => bodyCopy 1 f s c)
def execCopy3 (f : RCopy) (s : State) : Host.Outcome State Fault Refusal := warpInstr (.copy3 f) s (fun c => bodyCopy 2 f s c)
def execGather (f : RCopy) (s : State) : Host.Outcome State Fault Refusal := warpInstr (.gather f) s (fun c => bodyElems false f s c)
def execScatter (f : RCopy) (s : State) : Host.Outcome State Fault Refusal := warpInstr (.scatter f) s (fun c => bodyElems true f s c)
def execPrefetch (f : RRaw) (s : State) : Host.Outcome State Fault Refusal :=
  warpInstr (.prefetch f) s (fun c =>
    if c.g = 0 then .warp c.w
    else .done ((hintLines (hintRange f c).1 (hintRange f c).2).foldl (prefetchLine c) (prefetchPages s c (hintRange f c).1 (hintRange f c).2)))
def execCwb (f : RRaw) (s : State) : Host.Outcome State Fault Refusal :=
  warpInstr (.cwb f) s (fun c =>
    if c.g = 0 then .warp c.w
    else .done ((hintLines (hintRange f c).1 (hintRange f c).2).foldl (cwbLine c) s))
def execCinv (f : RRaw) (s : State) : Host.Outcome State Fault Refusal :=
  warpInstr (.cinv f) s (fun c =>
    if c.g = 0 then .warp c.w
    else .done ((hintLines (hintRange f c).1 (hintRange f c).2).foldl (cinvLine c) s))

end Sys2Proof.Machine
end

