-- ==== Sys2Proof/Machine/Fetch.lean ====
section
/-! DEFINITION. Fetching an instruction word through the `.die` translation of its warp (03 R94, R96, 18 R436, R447, R448, 19 R459). -/

namespace Sys2Proof.Machine

/-- What a fetch gives: the word, a hold on page requests, or a fault of stage 1. -/
inductive FetchRes where
  | word (x : DWord)
  | held (b : Blocked)
  | fault (f : FaultInfo)
  deriving DecidableEq, Repr

/-- The physical address of a word that a warp fetches, or why it has none. An address of 2^56 or more has no stage-1 entry (log 16). -/
def fetchPlace (s : State) (core : Nat) (t : Task) (active : Word) (va : DWord) : Except FetchRes Nat × State :=
  let f (cause detail : Nat) : FaultInfo := { cause := cause, lanes := active, detail := detail, addr := va }
  if 2 ^ 56 ≤ va.toNat then (.error (.fault (f cPageFault 0x10)), s)
  else match resolve (.die core) t.vd t.die va.toNat needX serviceFuel s with
    | (.ok 0 d (some pa), s1) => if d = t.die then (.ok pa, s1) else (.error (.fault (f cFarAccess (farDetail 0 d true))), s1)
    | (.ok loc d _, s1) => (.error (.fault (f cFarAccess (farDetail loc d true))), s1)
    | (.onHold, s1) => (.error (.held .dirty), s1)
    | (x, s1) =>
      let g := f (xCause x) (xDetail true false x)
      if serviceFor s1 t.vd t.die x = .request then
        match pageRequest s1 (bayOfCore core) t.vd t.die va.toNat needX x active 0 t.handle with
        | (some tag, s2) => (.error (.held (.page [tag] g)), s2)
        | (none, s2) => (.error (.held (.page [] g)), s2)
      else (.error (.fault g), s1)

/-- Fetches the word at an address for warp `i` of a task: a word whose sector is lost is a DATA_ERROR of its active lanes (17 R433). -/
def fetchWord (s : State) (core k i : Nat) (t : Task) (w : Warp) (va : DWord) : FetchRes × State :=
  match fetchPlace s core t w.active va with
  | (.error r, s1) => (r, s1)
  | (.ok pa, s1) =>
    if poisonedRange s1 pa 8 then
      let (x, s2) := freshFree s1
      let f : FaultInfo := { cause := cDataError, lanes := w.active, addr := va, info := x }
      (.fault f, reportOnce s2 (pa / 16) (mkRec s2 k i t w f))
    else (.word (rd64 s1 pa), s1)

/-- A fetched word that no rule assigns raises ILLEGAL_ENCODING with its reason and field, and has no other effect (18 R439). -/
def execUnassignedWordFetch (reason field : Nat) (s : State) : Host.Outcome State Fault Refusal :=
  match curCtx s (.unassignedWordFetch reason field) with
  | none => .fault .noWarp
  | some c =>
    .next (takeFault s c.k c.i { cause := cIllegal, lanes := c.w.active, detail := field % 2 ^ 8 * 2 ^ 8 + reason % 2 ^ 8, addr := c.w.pc })

/-! Constant images (02 R45, 03 R85). -/

/-- What loading an image gives: its bytes, a hold, or a fault. -/
inductive ConstRes where
  | bytes (l : List Host.Cell)
  | held (b : Blocked)
  | fault (f : FaultInfo)
  deriving DecidableEq, Repr

/-- Reads an image in pieces of 256 bytes, as `.die` loads of its task. A lost piece is a DATA_ERROR. -/
def constPieces (core : Nat) (t : Task) (active : Word) (base : Nat) (mk : FaultInfo → Rec) : List Nat → State → ConstRes × State
  | [], s => (.bytes [], s)
  | j :: rest, s =>
    let va := base + 256 * j
    let f (cause detail : Nat) (a : Nat) : FaultInfo := { cause := cause, lanes := active, detail := detail, addr := w64 a, noHandler := true }
    match resolve (.die core) t.vd t.die va needR serviceFuel s with
    | (.ok 0 d (some pa), s1) =>
      if d ≠ t.die then (.fault (f cFarAccess (farDetail 0 d false) va), s1)
      else if poisonedRange s1 pa 256 then
        let first := ((List.range 16).find? (fun i => poisoned s1 (pa + 16 * i))).getD 0
        let (x, s2) := freshFree s1
        let g := { f cDataError 0 (va + 16 * first) with info := x }
        (.fault g, reportOnce s2 (pa / 16 + first) (mk g))
      else match constPieces core t active base mk rest s1 with
        | (.bytes l, s2) => (.bytes (constPiece s1.mem pa (256 * j) ++ l), s2)
        | r => r
    | (.ok loc d _, s1) => (.fault (f cFarAccess (farDetail loc d false) va), s1)
    | (.onHold, s1) => (.held .dirty, s1)
    | (x, s1) =>
      let g := f (xCause x) (xDetail false false x) va
      if serviceFor s1 t.vd t.die x = .request then
        match pageRequest s1 (bayOfCore core) t.vd t.die va needR x active 0 t.handle with
        | (some tag, s2) => (.held (.page [tag] g), s2)
        | (none, s2) => (.held (.page [] g), s2)
      else (.fault g, s1)

/-- Loads the constant image that could not be read when its task was placed, before the task's next instruction: `none` where it stands there
now. A fault has the kernel's entry as its PC and no handler takes it (02 R45). -/
def loadConst (s : State) (core k i : Nat) (t : Task) (w : Warp) (kn : Kernel) : Option State × State :=
  if hasConst s core t.vd kn then (none, s)
  else
    let mk (f : FaultInfo) : Rec := mkRec s k i t { w with pc := kn.entry } f
    match constPieces core t w.active kn.constAddr.toNat mk (List.range (kn.constLen / 256)) s with
    | (.bytes l, s1) =>
      (none, addImage s1 core t.vd kn l)
    | (.held b, s1) => (some (blockWarp s1 k i b), s1)
    | (.fault f, s1) => (some (toQueue s1 t (mk f)), s1)

end Sys2Proof.Machine
end

