-- ==== Sys2Proof/Machine/Matrix.lean ====
section
/-! DEFINITION. The matrix array: MMA, MMAS, LDM, STM and TRN of group 0xC (05 R137 to R143, 10 R269 to R283, 18 R453, R454). -/

namespace Sys2Proof.Machine

/-- The format of a matrix element: a floating format, or an integer of a width and sign (R275). -/
inductive MFmt where
  | fl (F : Fmt)
  | int (bits : Nat) (sgn : Bool)
  deriving DecidableEq, Repr

/-- The formats of A and B that FMT selects (R275). -/
def mmaFmtA (fmt : Nat) : MFmt :=
  match fmt with
  | 0 => .fl bf16 | 1 => .fl fp16 | 2 | 3 => .fl f8a | 4 | 5 => .fl f8b | 6 | 8 => .int 8 true | 7 | 9 => .int 8 false
  | 10 => .fl f4 | 11 => .int 4 true | 12 => .int 4 false | _ => .fl fp64
def mmaFmtB (fmt : Nat) : MFmt :=
  match fmt with
  | 0 => .fl bf16 | 1 => .fl fp16 | 2 | 4 => .fl f8a | 3 | 5 => .fl f8b | 6 | 9 => .int 8 true | 7 | 8 => .int 8 false
  | 10 => .fl f4 | 11 => .int 4 true | 12 => .int 4 false | _ => .fl fp64

def MFmt.width : MFmt → Nat
  | .fl F => F.width
  | .int b _ => b

/-- An element code as a floating value, and as an integer. -/
def MFmt.value : MFmt → Nat → FVal
  | .fl F, x => F.decode x
  | .int _ _, _ => .nan
def MFmt.intValue : MFmt → Nat → Int
  | .int b sgn, x => if sgn && x.testBit (b - 1) then (x : Int) - 2 ^ b else x
  | .fl _, _ => 0

/-- Rows of the fragment layout, groups, and the result columns of a group (R270). -/
def fragR (fmt : Nat) : Nat := if fmt = 13 then 8 else 16
def fragG (fmt : Nat) : Nat := if fmt = 13 then 4 else 2
def fragN (fmt : Nat) : Nat := if fmt = 13 then 2 else 8

/-- The register block of `n` registers from `x` in every lane, each as one little-endian bit string (R270). -/
def fragment (w : Warp) (o : Opnd) (n : Nat) : List Nat := laneList.map (fun l => srcNat w o l 0 n)

/-- Element `e` of width `z` of a lane's string. -/
def fragElem (blk : List Nat) (z l e : Nat) : Nat := nthD blk l 0 / 2 ^ (z * e) % 2 ^ z

/-- An operand moved up by `n` registers. -/
def opndUp (o : Opnd) (n : Nat) : Opnd :=
  match o with
  | .v r => .v (r + BitVec.ofNat 8 n)
  | o => o

/-- What MMA and MMAS read: the blocks of A, B and C, the scale strings and, for MMAS, the bitmaps (R272, R277). -/
structure MmaIn where
  a : List Nat
  b : List Nat
  c : List Nat
  sa : List Nat
  sb : List Nat
  map : List Nat
  deriving DecidableEq, Repr

/-- Registers of the bitmap string (R277). -/
def mapRegs (sparse : Bool) (f : RMma) : Nat := if sparse then fmtLaneLen sparse f.fmt / 32 else 0

def mmaRead (sparse : Bool) (f : RMma) (w : Warp) : MmaIn :=
  let n := mmaElemRegs sparse f
  let m := mapRegs sparse f
  { a := fragment w f.a n, b := fragment w f.b n, c := fragment w f.c (mmaCRegs f),
    sa := fragment w (opndUp f.a (n + m)) (scaleRegs sparse f), sb := fragment w (opndUp f.b n) (scaleRegs sparse f),
    map := fragment w (opndUp f.a n) m }

/-- The block counter that an instruction starts from (R273). -/
def mmaKb0 (f : RMma) (w : Warp) : Nat := if f.kz then 0 else w.kbc.toNat

/-- Scale words of a lane for one operand, and the K-block index of word `j` of lane `l` (R272, R273). -/
def scaleWords (sparse : Bool) (f : RMma) : Nat := if fmtScaled f.fmt then fmtLaneLen sparse f.fmt / mmaBlk f else 0
def blockIndex (sparse : Bool) (f : RMma) (w : Warp) (l j : Nat) : Nat :=
  (mmaKb0 f w + l / fragR f.fmt.toNat * scaleWords sparse f + j) % 128

/-- The failing words of a lane: operand, word and expected index, A before B (05 R139, 18 R453). -/
def badScales (sparse : Bool) (f : RMma) (w : Warp) (x : MmaIn) (l : Nat) : List (Nat × Nat × Nat) :=
  [(0, x.sa), (1, x.sb)].flatMap (fun (o, blk) => (List.range (scaleWords sparse f)).filterMap (fun j =>
    let e := blockIndex sparse f w l j
    if btagOf (fragElem blk 16 l j) = e then none else some (o, j, e)))

/-- SCALE_TAG (18 R453). -/
def scaleFault (sparse : Bool) (f : RMma) (w : Warp) (x : MmaIn) : Option FaultInfo :=
  let m := maskOf (fun l => badScales sparse f w x l ≠ [])
  match badScales sparse f w x (lane0 m) with
  | [] => none
  | (o, j, e) :: _ => some { cause := cScaleTag, lanes := m, detail := e + o * 2 ^ 7 + j * 2 ^ 8 }

/-- Present elements of the 64-element group `q` of a row (R277). -/
def rowPresent (L : Nat) (map : List Nat) (r q : Nat) : Nat :=
  (List.range 64).countP (fun i =>
    let e := 64 * q + i
    (nthD map (r + 16 * (e / L)) 0).testBit (e % L))

/-- Groups of a row with more than 32 present elements. -/
def crowded (L : Nat) (map : List Nat) (r : Nat) : Nat :=
  (List.range (2 * L / 64)).countP (fun q => decide (32 < rowPresent L map r q))

/-- SPARSE_META (18 R454). -/
def sparseFault (f : RMma) (x : MmaIn) : Option FaultInfo :=
  let L := fmtLaneLen true f.fmt
  match (List.range 16).find? (fun r => decide (3 ≤ crowded L x.map r)) with
  | some r => some { cause := cSparse, lanes := laneMask r ||| laneMask (r + 16), detail := r + crowded L x.map r * 2 ^ 4 }
  | none => none

/-- The sum of R140 and R141: terms are truncated to multiples of 2^(emax − win) and the exact sum is rounded once. -/
def mmaSum (F : Fmt) (win : Nat) (ts : List FVal) : Nat :=
  let pos := elemOf (.inf false) ts
  let neg := elemOf (.inf true) ts
  let fins := ts.filterMap (fun t => match t with
    | .fin n m e => some (n, m, e)
    | _ => none)
  let live := fins.filter (fun t => decide (t.2.1 ≠ 0))
  if ts.any FVal.isNan || (pos && neg) then F.nan
  else if pos then F.inf false
  else if neg then F.inf true
  else match live with
    | [] => F.zero (fins.all (fun t => t.1))
    | (_, m, e) :: rest =>
      let emax := rest.foldl (fun x t => max x ((t.2.1.log2 : Int) + t.2.2)) ((m.log2 : Int) + e)
      let u := emax - win
      let sum := live.foldl (fun (x : Int) t => x + signed t.1 (t.2.1 * 2 ^ (t.2.2 - u).toNat / 2 ^ (u - t.2.2).toNat)) 0
      if sum = 0 then F.zero false else F.ofVal .rn (.fin (decide (sum < 0)) sum.natAbs u)

/-- Lane and element of A`[i][k]` or B`[k][i]`: `L` elements a lane (R270). -/
def fragLane (fmt L i k : Nat) : Nat := i + fragR fmt * (k / L)

/-- Whether A`[i][k]` is present (R277). -/
def present (sparse : Bool) (fmt L : Nat) (x : MmaIn) (i k : Nat) : Bool :=
  !sparse || (nthD x.map (fragLane fmt L i k) 0).testBit (k % L)

/-- A floating element, scaled where its format carries scales (05 R138). -/
def scaledElem (f : RMma) (F : MFmt) (blk sc : List Nat) (L i k : Nat) : FVal :=
  let l := fragLane f.fmt.toNat L i k
  let v := F.value (fragElem blk F.width l (k % L))
  if fmtScaled f.fmt then v.scaled (fragElem sc 16 l (k % L / mmaBlk f)) else v

/-- The format and width of D. -/
def mmaDst (f : RMma) : Fmt :=
  match f.dtype.toNat with
  | 1 => fp16
  | 2 => bf16
  | _ => if f.fmt.toNat = 13 then fp64 else fp32

/-- Element (i, j) of D (R276, 05 R140 to R143). -/
def mmaElem (sparse : Bool) (f : RMma) (x : MmaIn) (i j : Nat) : Nat :=
  let fmt := f.fmt.toNat
  let L := fmtLaneLen sparse f.fmt
  let ks := (List.range (L * fragG fmt)).filter (present sparse fmt L x i)
  let FA := mmaFmtA fmt
  let FB := mmaFmtB fmt
  let cl := i + fragR fmt * (j / fragN fmt)
  let D := mmaDst f
  if fmtInt f.fmt then
    let sum := ks.foldl (fun (n : Int) k =>
      n + FA.intValue (fragElem x.a FA.width (fragLane fmt L i k) (k % L)) * FB.intValue (fragElem x.b FB.width (fragLane fmt L j k) (k % L)))
      (w32 (fragElem x.c 32 cl (j % fragN fmt))).toInt
    (wrapN 32 (narrowInt .s32 f.sat sum)).toNat
  else
    mmaSum D (if fmt = 13 then 106 else 48)
      (D.decode (fragElem x.c D.width cl (j % fragN fmt)) :: ks.map (fun k =>
        (scaledElem f FA x.a x.sa L i k).mul (scaledElem f FB x.b x.sb L j k)))

/-- The elements of D that a lane holds (R270). -/
def mmaLane (sparse : Bool) (f : RMma) (x : MmaIn) (l : Nat) : List Nat :=
  let fmt := f.fmt.toNat
  (List.range (fragN fmt)).map (fun e => mmaElem sparse f x (l % fragR fmt) (l / fragR fmt * fragN fmt + e))

/-- The checks of MXE: the enabled classes of a result, for the matrix array and the GAE (R279, 08 R228). -/
def mxeMask (w : Warp) : Nat := if w.fpmode.getLsbD 2 then w.fpmode.toNat % 4 else 0

/-- Writes a bit string to a block of `n` registers of every lane. -/
def putBlocks (w : Warp) (d : Opnd) (n : Nat) (f : Nat → Nat) : Warp := laneList.foldl (fun w l => dstNat w d l 0 n (f l)) w

/-- MMA and MMAS (R274 to R279). -/
def bodyMma (sparse : Bool) (f : RMma) (s : State) (c : Ctx) : Res :=
  let x := mmaRead sparse f c.w
  match worstFault ((scaleFault sparse f c.w x).toList ++ (if sparse then sparseFault f x else none).toList) with
  | some fl => .fault fl s
  | none =>
    let D := mmaDst f
    let out := laneList.map (mmaLane sparse f x)
    let sel (l : Nat) : Nat := if fmtInt f.fmt then 0 else listSel D (nthD out l []) &&& mxeMask c.w
    match nonfiniteFault 0xFFFFFFFF sel with
    | some fl => .fault fl s
    | none =>
      let w := putBlocks c.w f.d (mmaCRegs f) (fun l => packElems D.width (nthD out l []))
      let kbc := if fmtScaled f.fmt then
          BitVec.ofNat 7 (mmaKb0 f c.w + fmtLaneLen sparse f.fmt * fragG f.fmt.toNat / mmaBlk f) else c.w.kbc
      .warp { w with kbc := kbc, mmas := c.w.mmas + 1 }

/-! LDM and STM. -/

/-- The element width of TR in bits, or none for a plain transfer (R280). -/
def ldmT (f : RLdm) : Option Nat :=
  match f.tr.toNat with
  | 1 => some 16 | 2 => some 8 | 3 => some 64 | _ => none

/-- Bytes of a lane's transfer. -/
def ldmW (f : RLdm) : Nat := 16 * 2 ^ f.wid.toNat

/-- The accesses of one lane, with the byte of its string at which each begins (R281); a plain transfer goes by units of 16 bytes. -/
def ldmLane (f : RLdm) (w : Warp) (l : Nat) : List (Acc × Nat) :=
  let R := if f.geo then 8 else 16
  let r := l % R
  let g := l / R
  let stride := (src32 w f.b 0).toInt
  let at' (off : Int) : Int := laneAddr w f.space f.a off 0
  match ldmT f with
  | none => (List.range (ldmW f / 16)).map (fun j =>
      ({ lane := l, addr := at' (r * stride + (g * ldmW f + 16 * j : Nat)), n := 16 }, 16 * j))
  | some t =>
    let n := 8 * ldmW f / t
    (List.range n).map (fun e =>
      ({ lane := l, addr := at' ((g * n + e : Nat) * stride + (r * t / 8 : Nat)), n := t / 8 }, e * (t / 8)))

def ldmAll (f : RLdm) (w : Warp) : List (Acc × Nat) := laneList.flatMap (ldmLane f w)

/-- The alignment of the addresses (18 R448). -/
def ldmAlign (f : RLdm) : Nat :=
  match ldmT f with
  | none => 16
  | some t => t / 8

/-- The string of a lane from the values read at its places. -/
def ldmString (vals : List (Nat × Nat)) (pos : List Nat) (l : Nat) : Nat :=
  (vals.zip pos).foldl (fun n e => if e.1.1 = l then n + e.1.2 * 2 ^ (8 * e.2) else n) 0

def bodyLdm (f : RLdm) (s : State) (c : Ctx) : Res :=
  let all := ldmAll f c.w
  withAccess s c f.space (ldmAlign f) 0 needR f.scope.toNat true (all.map Prod.fst) (fun s1 ps =>
    let (vals, s2) := readAll s1 c f.scope.toNat ps
    .done (modWarp (acquireAt s2 c f.space (annAcq f.ann) f.scope.toNat) c.k c.i (fun w =>
      putBlocks w f.d (ldmW f / 4) (ldmString vals (all.map Prod.snd)))))

def bodyStm (f : RLdm) (s : State) (c : Ctx) : Res :=
  let all := ldmAll f c.w
  withAccess s c f.space (ldmAlign f) 0 needW f.scope.toNat false (all.map Prod.fst) (fun s1 ps =>
    .done ((ps.zip (all.map Prod.snd)).foldl (fun s e =>
      let x := srcNat c.w f.d e.1.1.lane 0 (ldmW f / 4)
      writePlace s c e.1.1.n e.1.1.lane (x / 2 ^ (8 * e.2) % 2 ^ (8 * e.1.1.n)) e.1.2) s1))

/-! TRN. -/

/-- Element `e` of the block that a lane receives (R283): X for the first group and Y for the second. -/
def trnElem (f : RArith) (xs ys : List Nat) (l e : Nat) : Nat :=
  let src := if l / 16 = 0 then xs else ys
  let (row, col) := if f.sub = 0 then (l % 16, e) else (e, l % 16)
  let x := fragElem src 32 (row + 16 * (col / 8)) (col % 8)
  (resWord (fmtOf bf16 f.ty) f.ftz ((fmtOf bf16 f.ty).ofVal f.rm (opVal fp32 f.ftz (w64 x)))).toNat

def bodyTrn (f : RArith) (s : State) (c : Ctx) : Res :=
  let xs := fragment c.w f.a 8
  let ys := fragment c.w f.b 8
  let out := laneList.map (fun l => (List.range 16).map (trnElem f xs ys l))
  match nonfiniteFault 0xFFFFFFFF (fun l => listSel (fmtOf bf16 f.ty) (nthD out l []) &&& mxeMask c.w) with
  | some x => .fault x s
  | none => .warp (putBlocks c.w f.d 8 (fun l => packElems 16 (nthD out l [])))

/-! The meanings. -/

def execMma (f : RMma) (s : State) : Host.Outcome State Fault Refusal := warpInstr (.mma f) s (fun c => bodyMma false f s c)
def execMmas (f : RMma) (s : State) : Host.Outcome State Fault Refusal := warpInstr (.mmas f) s (fun c => bodyMma true f s c)
def execLdm (f : RLdm) (s : State) : Host.Outcome State Fault Refusal := warpInstr (.ldm f) s (fun c => bodyLdm f s c)
def execStm (f : RLdm) (s : State) : Host.Outcome State Fault Refusal := warpInstr (.stm f) s (fun c => bodyStm f s c)
def execTrn (f : RArith) (s : State) : Host.Outcome State Fault Refusal := warpInstr (.trn f) s (fun c => bodyTrn f s c)

end Sys2Proof.Machine
end

