-- ==== Sys2Proof/Machine/Gae.lean ====
section
/-! DEFINITION. The gather-accumulate engine: group 0xD, its queue and its rows, and the host's control of stopped operations (05 R145 to
R150, 10 R284 to R293, 18 R450, R455, 19 R459 to R471). -/

namespace Sys2Proof.Machine

/-! The context (R284). -/

def gaeNcol (x : GaeCtx) : Nat := bitsOf x.cfg.toNat 15 0
def gaeCblen (x : GaeCtx) : Nat := bitsOf x.cfg.toNat 23 16
def gaeNact (x : GaeCtx) : Nat := bitsOf x.cfg.toNat 25 24
def gaeAz (x : GaeCtx) : Nat := if x.cfg.getLsbD 26 then 2 else 4
def gaeCz (x : GaeCtx) : Nat := if x.cfg.getLsbD 27 then 2 else 4

/-- An FP32 code of a value of `z` bytes: BF16 widens exactly (05 R145). -/
def widen32 (z x : Nat) : Nat := if z = 2 then x * 2 ^ 16 else x

/-- GASET (R284, 18 R450 reason 11). -/
def bodyGaset (f : RRaw) (s : State) (c : Ctx) : Res :=
  if c.g = 0 then .warp c.w
  else
    let l := lane0 c.g
    let x : GaeCtx := { a := src32 c.w f.a l, b := src32 c.w f.b l, cfg := src32 c.w f.c l }
    let mis (v : Word) : Option FaultInfo :=
      if v.toNat % 16 = 0 then none
      else some { cause := cMisaligned, lanes := laneMask l, detail := 4, addr := v.zeroExtend 64 }
    match (mis x.a).or (mis x.b) with
    | some y => .fault y s
    | none =>
      if bitsOf x.cfg.toNat 31 28 ≠ 0 ∨ c.kern.shmem < x.a.toNat + (gaeNcol x + 1) * (gaeNact x + 1) * gaeAz x
          ∨ c.kern.constLen < x.b.toNat + (gaeCblen x + 1) * gaeCz x then
        .fault { cause := cOutOfRange, lanes := laneMask l, detail := 11 } s
      else .warp { c.w with gctx := some x }

/-- The codebook of a context in a constant image: FP32 codes, and whether each is lost (R285). -/
def gaeBook (s : State) (c : Ctx) (x : GaeCtx) : List (Nat × Bool) :=
  (List.range (gaeCblen x + 1)).map (fun i =>
    let o := x.b.toNat + i * gaeCz x
    match constImg s c with
    | some im => (widen32 (gaeCz x) (rdConst im.bytes o (gaeCz x)),
        (List.range (gaeCz x)).any (fun j => Store.get false im.lost ((o + j) / 4)))
    | none => (0, false))

/-! Reading a row (05 R147, R148, 18 R455). -/

/-- What ends a row: a bar of the reader, or a malformed stream: reason and the word's address. -/
inductive RowErr (ε : Type) where
  | bar (e : ε)
  | bad (reason : Nat) (addr : DWord)

/-- A step of the row reader, and its sequencing. -/
abbrev RowM (ε α : Type) := State → Except (RowErr ε) α × State
def rowPure {ε α : Type} (x : α) : RowM ε α := fun s => (.ok x, s)
def rowBad {ε α : Type} (reason : Nat) (a : DWord) : RowM ε α := fun s => (.error (.bad reason (w64 (a.toNat / 4 * 4))), s)
def rowBind {ε α β : Type} (m : RowM ε α) (f : α → RowM ε β) : RowM ε β := fun s =>
  match m s with
  | (.ok x, s1) => f x s1
  | (.error e, s1) => (.error e, s1)

/-- A byte and a 16-bit number of the stream, by the reader of aligned words. -/
def rowByte {ε : Type} (rd : DWord → RowM ε Nat) (a : DWord) : RowM ε Nat :=
  rowBind (rd (w64 (a.toNat / 4 * 4))) (fun x => rowPure (x / 2 ^ (8 * (a.toNat % 4)) % 256))
def rowU16 {ε : Type} (rd : DWord → RowM ε Nat) (a : DWord) : RowM ε Nat :=
  rowBind (rowByte rd a) (fun lo => rowBind (rowByte rd (a + 1)) (fun hi => rowPure (lo + 256 * hi)))

/-- Positions of a bunch, newest first: `n` remain, and `prev` is the one before (R148). -/
def rowPositions {ε : Type} (rd : DWord → RowM ε Nat) (ncol : Nat) : Nat → DWord → Option Nat → List Nat → RowM ε (List Nat × DWord)
  | 0, a, _, acc => rowPure (acc.reverse, a)
  | n + 1, a, prev, acc =>
    let take (pos : Nat) (at' nxt : DWord) : RowM ε (List Nat × DWord) :=
      if ncol < pos then rowBad 3 at'
      else match prev with
        | some p => if pos ≤ p then rowBad 5 at' else rowPositions rd ncol n nxt (some pos) (pos :: acc)
        | none => rowPositions rd ncol n nxt (some pos) (pos :: acc)
    match prev with
    | none => rowBind (rowU16 rd a) (fun p => take p a (a + 2))
    | some p => rowBind (rowByte rd a) (fun t =>
        if t = 0 then rowBind (rowU16 rd (a + 1)) (fun q => take q (a + 1) (a + 3)) else take (p + t) a (a + 1))

/-- Padding bytes to the next word boundary. -/
def rowPad {ε : Type} (rd : DWord → RowM ε Nat) : Nat → DWord → RowM ε DWord
  | 0, a => rowPure a
  | n + 1, a =>
    if a.toNat % 4 = 0 then rowPure a
    else rowBind (rowByte rd a) (fun b => if b = 0 then rowPad rd n (a + 1) else rowBad 6 a)

/-- Bunches of a row: codebook index and positions. -/
def rowBunches {ε : Type} (rd : DWord → RowM ε Nat) (x : GaeCtx) : Nat → DWord → List (Nat × List Nat) →
    RowM ε (List (Nat × List Nat) × DWord)
  | 0, a, acc => rowPure (acc.reverse, a)
  | n + 1, a, acc => rowBind (rd a) (fun w =>
      let idx := bitsOf w 29 22
      if bitsOf w 31 30 ≠ 2 ∨ bitsOf w 9 0 ≠ 0 then rowBad 2 a
      else if gaeCblen x < idx then rowBad 4 a
      else rowBind (rowPositions rd (gaeNcol x) (bitsOf w 21 10) (a + 4) none []) (fun (ps, b) =>
        rowBind (rowPad rd 3 b) (fun e => rowBunches rd x n e ((idx, ps) :: acc))))

/-- A row: its index, its bunches and the address after it. -/
def rowRead {ε : Type} (rd : DWord → RowM ε Nat) (x : GaeCtx) (a : DWord) : RowM ε (Nat × List (Nat × List Nat) × DWord) :=
  rowBind (rd a) (fun h =>
    if bitsOf h 31 28 ≠ 14 then rowBad 1 a
    else rowBind (rowBunches rd x (bitsOf h 27 22 + 1) (a + 4) []) (fun (bs, e) => rowPure (bitsOf h 21 0, bs, e)))

/-! Row values (05 R145). -/

/-- The sum of a bunch's activations, rounded once. -/
def bunchSum (xs : List Nat) : Nat :=
  let vs := xs.map fp32.decode
  let zero := vs.all (fun v => match v with
    | .fin _ m _ => decide (m = 0)
    | _ => false)
  if zero then 0 else mmaSum fp32 51 vs

/-- The result of one activation column: `act` gives the FP32 code of a position, `cb` that of a codebook entry. -/
def rowValue (act cb : Nat → Nat) (bs : List (Nat × List Nat)) : Nat :=
  bs.foldl (fun res b =>
    if b.2 = [] then res
    else
      let q := fp32.ofVal .rn ((fp32.decode (bunchSum (b.2.map act))).mul (fp32.decode (cb b.1)))
      fp32.ofVal .rn ((fp32.decode res).add .rn (fp32.decode q))) 0

/-- The `.shared` offset of the activation of a position in a column (R285). -/
def actOff (x : GaeCtx) (p col : Nat) : Nat := x.a.toNat + (p * (gaeNact x + 1) + col) * gaeAz x

/-- The results of all columns of a row, or none where an activation or codebook entry that it uses is lost (17 R433). -/
def rowValues (t : Task) (x : GaeCtx) (book : List (Nat × Bool)) (bs : List (Nat × List Nat)) : Option (List Nat) :=
  let cols := List.range (gaeNact x + 1)
  let lost := bs.any (fun b => decide (b.2 ≠ []) && (nthD book b.1 (0, false)).2
    || b.2.any (fun p => cols.any (fun col => lostSharedRange t (actOff x p col) (gaeAz x))))
  if lost then none
  else some (cols.map (fun col => rowValue (fun p => widen32 (gaeAz x) (rdShared t (actOff x p col) (gaeAz x)))
    (fun i => (nthD book i (0, false)).1) bs))

/-! The queue. -/

def setGae (s : State) (core q : Nat) (o : GaeOp) : State :=
  setCore s core { getCore s core with gaeq := Store.put (getCore s core).gaeq q o }
def delGae (s : State) (core q : Nat) : State :=
  setCore s core { getCore s core with gaeq := Store.del (getCore s core).gaeq q }
def freeGae (s : State) (core : Nat) : Option Nat := Store.freeKey (getCore s core).gaeq 32 0

/-- The missing context (18 R450 reason 10). -/
def noCtx (m : Word) : FaultInfo := { cause := cOutOfRange, lanes := m, detail := 10 }

/-- Counts rows that the engine has completed for a task (11 R312). -/
def countRows (s : State) (k n : Nat) : State :=
  match getTask s k with
  | some t => setTask s k { t with gaeRows := t.gaeRows + w64 n }
  | none => s

/-! GAROW. -/

/-- What bars a lane's row. -/
inductive LaneBar where
  | fault (f : FaultInfo)
  | held (b : Blocked)

/-- A stream word of a lane: a relaxed load of the lane at scope `.warp` (R286). -/
def laneWord (c : Ctx) (l : Nat) (a : DWord) : RowM LaneBar Nat := fun s =>
  let acc : Acc := { lane := l, addr := (a.toNat : Int), n := 4 }
  match checkAccess s c .die 4 0 needR [acc] with
  | (.fault f, s1) => (.error (.bar (.fault f)), s1)
  | (.held b, s1) => (.error (.bar (.held b)), s1)
  | (.ok ps, s1) =>
    match ps with
    | (_, p) :: _ =>
      if lostPlace s1 c 0 4 l p then
        let (f, s2) := dataFault s1 c [(acc, p)]
        (.error (.bar (.fault f)), s2)
      else
        let (x, s2) := readPlace s1 c 0 4 l p
        (.ok x, s2)
    | [] => (.ok 0, s1)

/-- One lane's row: the results of its columns, or the fault or hold that it meets. -/
def laneRow (c : Ctx) (x : GaeCtx) (book : List (Nat × Bool)) (l : Nat) (a : DWord) (s : State) : Except LaneBar (List Nat) × State :=
  match rowRead (laneWord c l) x a s with
  | (.error (.bar b), s1) => (.error b, s1)
  | (.error (.bad r ad), s1) => (.error (.fault { cause := cBunch, lanes := laneMask l, detail := r, addr := ad }), s1)
  | (.ok (_, bs, _), s1) =>
    match rowValues (nowTask s1 c) x book bs with
    | some vs => (.ok vs, s1)
    | none =>
      let (x, s2) := freshFree s1
      (.error (.fault { cause := cDataError, lanes := laneMask l, addr := a, info := x }), s2)

/-- The faults and holds of the lanes of a GAROW that are not yet run. -/
def laneBars (c : Ctx) (x : GaeCtx) (book : List (Nat × Bool)) : List (Nat × DWord) → State → List LaneBar × State
  | [], s => ([], s)
  | (l, a) :: t, s =>
    match laneRow c x book l a s with
    | (.ok _, s1) => laneBars c x book t s1
    | (.error b, s1) =>
      let (bs, s2) := laneBars c x book t s1
      (b :: bs, s2)

/-- Forgets the results that a GAROW has formed. -/
def clearGae (s : State) (c : Ctx) : State := modWarp s c.k c.i (fun w => { w with gaeOut := [] })

/-- A GAROW whose lane meets a bar leaves the queue: it holds and runs again, or raises the lowest cause of its lanes (R455, 17 R424). -/
def garowBar (s : State) (c : Ctx) (core q : Nat) (bars : List LaneBar) : State :=
  let s1 := wakeCopies (clearGae (delGae s core q) c)
  match bars.findSome? (fun b => match b with
      | .held x => some x
      | .fault _ => none) with
  | some b => blockWarp s1 c.k c.i b
  | none =>
    match worstFault (bars.filterMap (fun b => match b with
        | .fault f => some f
        | .held _ => none)) with
    | some f => takeFault (modWarp s1 c.k c.i reready) c.k c.i f
    | none => modWarp s1 c.k c.i reready

/-- The results of a lane from those gathered for the warp. -/
def gaeLane (w : Warp) (x : GaeCtx) (l : Nat) : List Nat :=
  (List.range (gaeNact x + 1)).map (fun col => (Store.get 0 w.gaeOut (32 * col + l)).toNat)

/-- Writes the results of a GAROW whose rows have all completed, unless an enabled check selects one (R279, R286). -/
def garowDone (s : State) (c : Ctx) (core q : Nat) (x : GaeCtx) (d : Nat) (m : Word) : State :=
  let w := nowWarp s c
  let s1 := wakeCopies (delGae s core q)
  match nonfiniteFault m (fun l => listSel fp32 (gaeLane w x l) &&& mxeMask w) with
  | some f => takeFault (modWarp (clearGae s1 c) c.k c.i reready) c.k c.i f
  | none =>
    modWarp (countRows s1 c.k (popCount m)) c.k c.i (fun w =>
      retire { eachLane m (fun v l => putWords v (.v (BitVec.ofNat 8 d)) l ((gaeLane w x l).map w32)) w with
        gaeOut := [], blocked := .ready })

/-- The warp of an entry with what its instructions read. -/
def warpCtx (s : State) (k i : Nat) : Option Ctx :=
  match getTask s k with
  | none => none
  | some t =>
    match getWarp t i, taskKernel s t, t.core with
    | some w, some kn, some core => some { k := k, i := i, t := t, w := w, kern := kn, core := core, g := w.active }
    | _, _, _ => none

/-- The lanes that an entry's GAROW acts on: those run, whose results stand, and those remaining. -/
def rowMask (lanes : List (Nat × DWord)) : Word := lanes.foldl (fun m e => m ||| laneMask e.1) 0

/-- Runs the next row of a GAROW. `all` are its lanes. -/
def garowStep (s : State) (core q : Nat) (o : GaeOp) (d : Nat) (lanes : List (Nat × DWord)) : State :=
  match warpCtx s o.task o.warp with
  | none => engEnd (delGae s core q) o.task
  | some c =>
    match lanes.drop o.progress with
    | [] => garowDone s c core q o.ctx d (rowMask lanes)
    | (l, a) :: rest =>
      match laneRow c o.ctx o.book l a s with
      | (.error b, s1) =>
        let (bs, s2) := laneBars c o.ctx o.book rest s1
        garowBar s2 c core q (b :: bs)
      | (.ok vs, s1) =>
        let put (m : List (Nat × Word)) (e : Nat × Nat) : List (Nat × Word) := Store.set 0 m (32 * e.2 + l) (w32 e.1)
        let s2 := modWarp s1 c.k c.i (fun w => { w with gaeOut := (vs.zip (List.range vs.length)).foldl put w.gaeOut })
        if rest = [] then garowDone s2 c core q o.ctx d (rowMask lanes)
        else setGae s2 core q { o with progress := o.progress + 1 }

/-- GAROW (R286): it takes an entry, and its warp waits until the results are written. -/
def bodyGarow (f : RRaw) (s : State) (c : Ctx) : Res :=
  if c.g = 0 then .warp c.w
  else
    let accs : List Acc := (maskLanes c.g).map (fun l => { lane := l, addr := laneAddr c.w .die f.a 0 l, n := 4 })
    let forms := accs.filterMap (formFault c.kern .die 16 0)
    match c.w.gctx with
    | none => .fault ((worstFault (forms ++ [noCtx c.g])).getD (noCtx c.g)) s
    | some x =>
      withAccess s c .die 16 0 needR 0 false accs (fun s1 _ =>
        match freeGae s1 c.core with
        | none => .state (blockWarp s1 c.k c.i .copies)
        | some q =>
          let d : Nat := match f.d with
            | .v r => r.toNat
            | _ => 0
          let rows : List (Nat × DWord) := accs.map (fun a => (a.lane, addrWord a.addr))
          let o : GaeOp :=
            { task := c.k, warp := c.i, pc := c.w.pc, ctx := x, book := gaeBook s1 c x, shmem := c.kern.shmem, kind := .row d rows,
              comp := .none, next := 0, progress := 0, st := .going, seq := s1.seq }
          .state (blockWarp (setGae { s1 with seq := s1.seq + 1 } c.core q o) c.k c.i .gae))

/-! GARUN. -/

/-- A page of a run: it must be a die page of the issuing die (19 R467 subcause 9). -/
def gaeAddr (s : State) (e : EngId) (va : DWord) (needs : Needs) : Except EngBar Nat × State :=
  match engAddr s e (.die e.core) va needs true with
  | (.ok (.phys pa), s1) => (if paDie pa = some e.die then .ok pa else .error (.stop cCopyFault 9 va), s1)
  | (.ok _, s1) => (.error (.stop cCopyFault 9 va), s1)
  | (.error (.stop c n a), s1) => (.error (.stop c (if c = cCopyFault ∧ elemOf n [4, 5, 7, 10] then 9 else n) a), s1)
  | (.error b, s1) => (.error b, s1)

/-- A stream word of a run, read at the slice; lost data stops the run (19 R479). -/
def runWord (e : EngId) (a : DWord) : RowM EngBar Nat := fun s =>
  match gaeAddr s e a needR with
  | (.error b, s1) => (.error (.bar b), s1)
  | (.ok pa, s1) => if poisonedRange s1 pa 4 then (.error (.bar (.stop cDataError 1 a)), s1) else (.ok (rdBytes s1.mem pa 4), touchL2 s1 pa 4 false)

/-- The places of the output words of a row (R288, 19 R467 subcauses 9, 11, 12). -/
def runOuts (e : EngId) (osp : Bool) (shmem : Nat) : List DWord → State → Except EngBar (List EngPlace) × State
  | [], s => (.ok [], s)
  | a :: t, s =>
    let one : Except EngBar EngPlace × State :=
      if osp then (if shmem < a.toNat + 4 then .error (.stop cCopyFault 12 a) else .ok (.shared a.toNat), s)
      else match gaeAddr s e a needW with
        | (.ok pa, s1) => (.ok (.phys pa), s1)
        | (.error b, s1) => (.error b, s1)
    match one with
    | (.error b, s1) => (.error b, s1)
    | (.ok p, s1) =>
      match runOuts e osp shmem t s1 with
      | (.error b, s2) => (.error b, s2)
      | (.ok l, s2) => (.ok (p :: l), s2)

/-- Writes an FP32 result at a place. -/
def runWrite (task : Nat) (s : State) (p : EngPlace) (v : Nat) : State :=
  let at' (i : Nat) : EngPlace := match p with
    | .phys pa => .phys (pa + i)
    | .shared o => .shared (o + i)
    | .peer => .peer
  let ws := (List.range 4).map (fun i => (at' i, BitVec.ofNat 8 (v / 256 ^ i), false))
  engMarks task ws (ws.foldl (engWrite task) s)

/-- Stops or holds a run. -/
def gaeBar (s : State) (core q : Nat) (o : GaeOp) (b : EngBar) : State :=
  match b with
  | .hold st => setGae s core q { o with st := st }
  | .stop c n a =>
    let e : EngId := { task := o.task, core := core, unit := 4 }
    setGae (postVd s e.vd false (engRec s e o.warp o.pc c (n + (16 + q) * 2 ^ 8) a (w64 o.progress))) core q
      { o with st := .stopped c n }

/-- The completion of a run (R288). -/
def gaeFinish (s : State) (core q : Nat) (o : GaeOp) : State :=
  let e : EngId := { task := o.task, core := core, unit := 4 }
  match compFill s e o.warp o.pc o.comp (w64 o.progress) with
  | (.error b, s1) => gaeBar s1 core q o b
  | (.ok _, s1) => engEnd (delGae s1 core q) o.task

/-- The next row of a run. -/
def runStep (s : State) (core q : Nat) (o : GaeOp) (nrow : Nat) (osp : Bool) (out : DWord) (ostr : Nat) : State :=
  let e : EngId := { task := o.task, core := core, unit := 4 }
  if nrow ≤ o.progress then gaeFinish s core q o
  else match rowRead (runWord e) o.ctx o.next s with
    | (.error (.bar b), s1) => gaeBar s1 core q o b
    | (.error (.bad r a), s1) => gaeBar s1 core q o (.stop cBunch r a)
    | (.ok (x, bs, nxt), s1) =>
      match (getTask s1 o.task).bind (fun t => rowValues t o.ctx o.book bs) with
      | none => gaeBar s1 core q o (.stop cDataError 1 o.next)
      | some vs =>
        let addr (col : Nat) : DWord := out + w64 (x * ostr + 4 * col)
        match runOuts e osp o.shmem ((List.range vs.length).map addr) s1 with
        | (.error b, s2) => gaeBar s2 core q o b
        | (.ok ps, s2) =>
          let s3 := countRows ((ps.zip vs).foldl (fun s w => runWrite o.task s w.1 w.2) s2) o.task 1
          let o1 := { o with next := nxt, progress := o.progress + 1 }
          if nrow ≤ o1.progress then gaeFinish s3 core q o1 else setGae s3 core q o1

/-- Whether the fields of a run record are in range (R287, 18 R450 reason 9). -/
def runOk (shmem : Nat) (ws : List DWord) : Bool :=
  let w1 := wordAt ws 1
  let osp := w1.getLsbD 32
  decide (fld (wordAt ws 0) 3 0 = 0 ∧ fld (wordAt ws 0) 63 56 = 0 ∧ fld w1 31 0 ≠ 0 ∧ fld w1 63 33 = 0
    ∧ fld (wordAt ws 2) 1 0 = 0 ∧ fld (wordAt ws 3) 1 0 = 0 ∧ fld (wordAt ws 3) 63 32 = 0)
  && (!osp || decide ((wordAt ws 2).toNat < shmem))

/-- Enters a run in a queue entry. -/
def issueRun (s : State) (c : Ctx) (q : Nat) (x : GaeCtx) (ws : List DWord) (cp : Comp) : State :=
  let w1 := wordAt ws 1
  let o : GaeOp :=
    { task := c.k, warp := c.i, pc := c.w.pc, ctx := x, book := gaeBook s c x, shmem := c.kern.shmem,
      kind := .run (fld w1 31 0) (w1.getLsbD 32) (wordAt ws 2) (fld (wordAt ws 3) 31 0), comp := cp, next := wordAt ws 0,
      progress := 0, st := .going, seq := s.seq }
  setGae { s with seq := s.seq + 1 } c.core q o

/-- GARUN (R287): the record is read at issue. -/
def bodyGarun (f : RCopy) (s : State) (c : Ctx) : Res :=
  if c.g = 0 then .warp c.w
  else
    let l := lane0 c.g
    let a := laneAddr c.w (xspSpace f) f.a 0 l
    let accs : List Acc := recordAccs (xspSpace f) a 16 l
    let forms := accs.filterMap (formFault c.kern (xspSpace f) 16 2) ++ (compForm f c l).toList
    match c.w.gctx with
    | none => .fault ((worstFault (forms ++ [noCtx (laneMask l)])).getD (noCtx (laneMask l))) s
    | some x =>
      match worstFault forms with
      | some y => .fault y s
      | none =>
        match freeGae s c.core with
        | none => .state (blockWarp s c.k c.i .copies)
        | some q =>
          withAccess s c (xspSpace f) 16 2 needR 0 true accs (fun s1 ps =>
            let (vals, s2) := readAll s1 c 0 ps
            let ws := vals.flatMap (fun v => splitWords v.2 (4 / vals.length))
            if runOk c.kern.shmem ws then .done (issueRun s2 c q x ws (compOf f c.w l))
            else .fault { cause := cOutOfRange, lanes := laneMask l, detail := 9, addr := addrWord a } s2)

/-! Service. -/

/-- Whether an entry can run its next row. A `GAROW` goes on while its VD is being switched out: it stops at its completion (13 R371). -/
def gaeReady (s : State) (o : GaeOp) : Bool :=
  let runs := match getPart s (partOf (keyVd o.task)), o.kind with
    | some _, .run _ _ _ _ => vdRuns s (keyVd o.task)
    | some p, _ => decide (p.cur = some (keyVd o.task) ∧ p.clamp = .awake)
    | none, _ => false
  decide (o.st = .going) && runs && opSeated s o.task true

/-! Stopped operations (19 R468, R469). -/

/-- Whether ENGCTL names a stopped operation of a VD on a core of its partition. -/
def engStopped (s : State) (vd core entry : Nat) : Bool :=
  let onPart := match getPart s (partOf vd) with
    | some p => decide (core < coreCount s) && hasBay p (bayOfCore core)
    | none => false
  let st : Option (Nat × EngState) :=
    if entry < 16 then (Store.find (getCore s core).copies entry).map (fun o => (o.task, o.st))
    else (Store.find (getCore s core).gaeq (entry - 16)).map (fun o => (o.task, o.st))
  onPart && (match st with
    | some (task, .stopped _ _) => decide (keyVd task = vd)
    | _ => false)

/-- Resumes a stopped operation: its chunk, row or fill runs again. -/
def engResume (s : State) (core entry : Nat) : State :=
  let c := getCore s core
  if entry < 16 then setCore s core { c with copies := Store.modify c.copies entry (fun o => { o with st := .going }) }
  else setCore s core { c with gaeq := Store.modify c.gaeq (entry - 16) (fun o => { o with st := .going }) }

/-- Aborts a stopped operation: its future is POISONED with the recorded cause, and its entry frees. -/
def engAbort (s : State) (core entry : Nat) : State :=
  let c := getCore s core
  if entry < 16 then
    match Store.find c.copies entry with
    | some o => (match o.st with
      | .stopped cause _ => engEnd (poisonComp (delCopy s core entry) o.task o.comp cause) o.task
      | _ => s)
    | none => s
  else
    match Store.find c.gaeq (entry - 16) with
    | some o => (match o.st with
      | .stopped cause _ => engEnd (poisonComp (delGae s core (entry - 16)) o.task o.comp cause) o.task
      | _ => s)
    | none => s

/-- A write of ENGCTL: it acts at once while the VD runs, else when the VD next runs (19 R468). -/
def engCtl (s : State) (vd gen core entry : Nat) (resume : Bool) : State :=
  let v := getVd s vd
  if gen ≠ v.gen.toNat ∨ engStopped s vd core entry = false then s
  else if vdRuns s vd then (if resume then engResume s core entry else engAbort s core entry)
  else setVd s vd { v with engRec := v.engRec ++ [(core, entry, resume)] }

/-- The recorded ENGCTL writes of a VD, applied in order as it runs again. -/
def applyEngRec (s : State) (vd : Nat) : State :=
  let v := getVd s vd
  v.engRec.foldl (fun s e =>
    if engStopped s vd e.1 e.2.1 then (if e.2.2 then engResume s e.1 e.2.1 else engAbort s e.1 e.2.1) else s)
    (setVd s vd { v with engRec := [] })

def execEngctlResume (vd gen core entry : Nat) (s : State) : Host.Outcome State Fault Refusal :=
  .next (engCtl s vd gen core entry true)
def execEngctlAbort (vd gen core entry : Nat) (s : State) : Host.Outcome State Fault Refusal :=
  .next (engCtl s vd gen core entry false)

/-! The other meanings. -/

/-- GAQ (R292). -/
def gaqValue (f : RArith) (s : State) (c : Ctx) : DWord :=
  let q := (getCore s c.core).gaeq
  match f.sub.toNat with
  | 0 => w64 (32 - q.length)
  | 1 => w64 (q.countP (fun e => decide (e.2.task = c.k)))
  | _ => match c.w.gctx with
    | some x => x.cfg.zeroExtend 64
    | none => 0

def execGaset (f : RRaw) (s : State) : Host.Outcome State Fault Refusal := warpInstr (.gaset f) s (fun c => bodyGaset f s c)
def execGarow (f : RRaw) (s : State) : Host.Outcome State Fault Refusal := warpInstr (.garow f) s (fun c => bodyGarow f s c)
def execGarun (f : RCopy) (s : State) : Host.Outcome State Fault Refusal := warpInstr (.garun f) s (fun c => bodyGarun f s c)
def execGaq (f : RArith) (s : State) : Host.Outcome State Fault Refusal :=
  warpInstr (.gaq f) s (fun c => .warp (writeLanes c 1 f.d (fun _ => gaqValue f s c)))

end Sys2Proof.Machine
end

