-- ==== Sys2Proof/Machine/System.lean ====
section
/-! DEFINITION. System instructions: group 0xE without the jig images (11 R295 to R305, R309 to R312, 14 R383). -/

namespace Sys2Proof.Machine

/-- The capability word of a partition (01 R32, R33). -/
def capWord (s : State) (pn : Nat) : DWord :=
  let dies := if s.fit.fourDies then 15 else 3
  let far := if s.fit.farm then (farBlocks s pn).length else 0
  w64 (s.fit.zports.toNat * 2 ^ 44 + far * 2 ^ 34 + dies * 2 ^ 30 + 48 * 2 ^ 24 + 3 * 2 ^ 20 + 1 * 2 ^ 16 + boolNat s.fit.wzero * 2 ^ 7
    + boolNat s.fit.farm * 2 ^ 6 + boolNat (decide (s.fit.zports ≠ 0)) * 2 ^ 5 + boolNat s.fit.gae * 2 ^ 4 + 2 ^ 3)

/-- Contexts of a core that no image uses and that lie in no fenced cell (R311). -/
def freeContexts (c : Core) : Nat :=
  let used := c.slots.flatMap (fun e => e.2.nodes.map Prod.fst)
  (List.range 512).countP (fun n => !elemOf n used && !c.badcell.getLsbD (cellOf n))

/-- The core status word (R311). -/
def coreStatus (c : Core) : DWord :=
  w64 (freeContexts c * 2 ^ 16 + popCount c.badcell * 2 ^ 8
    + ((List.range 4).filter (fun i => (Store.find c.slots i).isSome)).foldl (fun n i => n + 2 ^ i) 0)

/-- The values of CAPQ (R311). -/
def capqValue (s : State) (c : Ctx) (sel : Nat) : DWord :=
  match sel with
  | 0 => capWord s (partOf c.t.vd)
  | 1 => coreStatus (getCore s c.core)
  | 2 => (getCore s c.core).badcell
  | _ => match getPart s (partOf c.t.vd) with
    | some p => p.bays
    | none => 0

/-- The performance counters (R312); the `PMCR` that reads counter 0 has issued itself (log 58). -/
def pmcrValue (c : Ctx) (sel : Nat) : DWord :=
  match sel with
  | 0 => c.w.issued + 1
  | 1 => c.w.iters
  | 2 => c.w.mmas
  | 3 => c.t.adoptions
  | 4 => c.t.waitClocks
  | _ => c.t.gaeRows

/-- Sets a counter of a warp, and of its task, to zero; counter 0 stands at zero when the `PMCR` has completed. -/
def pmcrClear (w : Warp) (sel : Nat) : Warp :=
  match sel with
  | 0 => { w with issued := -1 }
  | 1 => { w with iters := 0 }
  | 2 => { w with mmas := 0 }
  | _ => w
def pmcrClearTask (t : Task) (sel : Nat) : Task :=
  match sel with
  | 3 => { t with adoptions := 0 }
  | 4 => { t with waitClocks := 0 }
  | 5 => { t with gaeRows := 0 }
  | _ => t

def bodyPmcr (clr : Bool) (f : RRaw) (s : State) (c : Ctx) : Res :=
  let sel := selOf f
  let w := writeLanes c 2 f.d (fun _ => pmcrValue c sel)
  if !clr || decide (c.g = 0) then .warp w
  else
    let s1 := setTask s c.k (pmcrClearTask c.t sel)
    .done (setWarp s1 c.k c.i (pmcrClear w sel))

/-! Invalidations (R304). -/

/-- The stage-1 and the stage-2 control registers as they read. -/
def invBusy (v : Vd) (stage2 : Bool) : Bool := v.invq.any (fun x => x.stage2 == stage2)
def invCtlValue (v : Vd) (stage2 : Bool) : Word :=
  w32 (boolNat (invBusy v stage2) * 2 ^ 31 + boolNat stage2 * 2 ^ 2 + (if stage2 then v.invsize2 else v.invsize))

/-- A write of an invalidation control register: SIZE is kept, and START begins an invalidation or queues it. -/
def writeInvCtl (s : State) (vd : Nat) (stage2 : Bool) (x : Word) : State :=
  let v := getVd s vd
  let size := bitsOf x.toNat 1 0
  let v1 := if stage2 then { v with invsize2 := size } else { v with invsize := size }
  let iv : Inval := { stage2 := stage2, va := if stage2 then v.invva2 else v.invva, size := size, root := v.s1root }
  setVd s vd (if x.getLsbD 3 then { v1 with invq := v1.invq ++ [iv] } else v1)

/-! Control registers (R303). -/

def crValue (s : State) (c : Ctx) (sel : Nat) : DWord :=
  let v := getVd s c.t.vd
  match sel with
  | 0x000 => w64 (c.w.trapCause.toNat * 2 ^ 8 + boolNat c.w.handler)
  | 0x001 => w64 (frameBase c.kern)
  | 0x002 => vecBase c.kern
  | 0x008 => c.t.capthr.zeroExtend 64
  | 0x010 => (getCore s c.core).badcell
  | 0x020 => v.s1root
  | 0x022 => v.invva
  | _ => (invCtlValue v false).zeroExtend 64

def crWrite (s : State) (c : Ctx) (sel : Nat) (x : DWord) : State :=
  match sel with
  | 0x008 => setTask s c.k { c.t with capthr := lowWord x }
  | 0x022 => setVd s c.t.vd { getVd s c.t.vd with invva := x }
  | 0x023 => writeInvCtl s c.t.vd false (lowWord x)
  | _ => s

def bodySrwWrite (f : RRaw) (s : State) (c : Ctx) : Res :=
  if c.g = 0 then .warp c.w
  else .done (crWrite s c (selOf f) (srcN c.w (if crWide (selOf f) then 2 else 1) f.a (lane0 c.g)))

/-! Hints, the live-tag limit and drains (R305, R309, R310). -/

/-- The hints of a task after a CAPT: at most 8, one for each loop, the oldest replaced. -/
def putHint (hs : List Hint) (branch : DWord) (action : Nat) : List Hint :=
  let rest := hs.filter (fun h => decide (h.branch ≠ branch))
  let h : Hint := { branch := branch, force := decide (action = 1) }
  if action = 2 then rest
  else if hs.any (fun h => decide (h.branch = branch)) then hs.map (fun x => if x.branch = branch then h else x)
  else (if 8 ≤ hs.length then hs.drop 1 else hs) ++ [h]

def bodyCapt (f : IForm) (s : State) (c : Ctx) : Res :=
  if c.g = 0 then .warp c.w
  else
    let dist := bitsOf f.imm.toNat 31 16
    .done (setTask s c.k { c.t with hints := putHint c.t.hints (c.w.pc + w64 (8 * dist)) (bitsOf f.imm.toNat 1 0) })

def bodyLive (f : RRaw) (s : State) (c : Ctx) : Res :=
  if c.g = 0 then .warp c.w
  else
    let n := (src32 c.w f.a (lane0 c.g)).toNat % 32
    if 16 < n then .fault { cause := cOutOfRange, lanes := laneMask (lane0 c.g), detail := 12 } s
    else
      let w := writeLanes c 1 f.d (fun _ => w64 c.t.ltlimit)
      .done (setWarp (setTask s c.k { c.t with ltlimit := if n = 0 then ltlOf c.kern else n }) c.k c.i w)

/-- The warps of a core that run in a slot; of one task only, unless `free`. -/
def slotWarps (s : State) (core slot : Nat) (task : Nat) (free : Bool) : List (Nat × Nat) :=
  s.tasks.flatMap (fun e =>
    if e.2.core = some core ∧ (free = true ∨ e.1 = task) then
      (List.range e.2.warps.length).filterMap (fun i => match (getWarp e.2 i).bind (fun w => w.lat) with
        | some r => if r.slot = slot then some (e.1, i) else none
        | none => none)
    else [])

/-- Whether a warp of a slot still drains. -/
def stillDrains (s : State) (core slot task : Nat) (free : Bool) : Bool :=
  (slotWarps s core slot task free).any (fun e => match getRun s e.1 e.2 with
    | some r => free || r.drain.isSome
    | none => false)

/-- Frees an image slot of a core; what drains from it left for a drain section goes with it. -/
def freeSlot (s : State) (core slot : Nat) : State :=
  let forget (w : Warp) : Warp := if w.drained.map (fun d => d.slot) = some slot then { w with drained := none } else w
  let s1 := { s with tasks := s.tasks.map (fun e => if e.2.core = some core then (e.1, { e.2 with warps := e.2.warps.map forget }) else e) }
  setCore s1 core { getCore s1 core with slots := Store.del (getCore s1 core).slots slot }

/-- Completes the DRAIN instructions of a core whose drains have ended (R309). -/
def wakeDrains (s : State) (core : Nat) : State :=
  s.tasks.foldl (fun s e =>
    if e.2.core = some core then
      (List.range e.2.warps.length).foldl (fun s i => match (getTask s e.1).bind (fun t => getWarp t i) with
        | some w => (match w.blocked with
          | .drain slot free =>
            if stillDrains s core slot e.1 free then s
            else modWarp (if free then freeSlot s core slot else s) e.1 i (fun w => retire { w with blocked := .ready })
          | _ => s)
        | none => s) s
    else s) s

def bodyDrain (free : Bool) (f : RArith) (s : State) (c : Ctx) : Res :=
  if c.g = 0 then .warp c.w
  else
    let slot := (src32 c.w f.a (lane0 c.g)).toNat % 4
    let ws := slotWarps s c.core slot c.k free
    let core := getCore s c.core
    let s1 := if free then setCore s c.core { core with slots := Store.modify core.slots slot (fun im => { im with withdrawn := true }) } else s
    let s2 := ws.foldl (fun s e => preemptWarp s e.1 e.2 .preempt) s1
    .state (wakeDrains (blockWarp s2 c.k c.i (.drain slot free)) c.core)

/-! The meanings. -/

/-- TRAP and BKPT raise their cause for the active lanes (R300). -/
def bodyTrap (cause : Nat) (addr : DWord) (s : State) (c : Ctx) : Res :=
  if c.g = 0 then .warp c.w else .fault { cause := cause, lanes := c.g, addr := addr } s

def execTrap (f : IForm) (s : State) : Host.Outcome State Fault Refusal :=
  warpInstr (.trap f) s (fun c => bodyTrap cSoftTrap (f.imm.zeroExtend 64) s c)
def execBkpt (f : RRaw) (s : State) : Host.Outcome State Fault Refusal :=
  warpInstr (.bkpt f) s (fun c => bodyTrap cBkpt 0 s c)
/-- ERET (R301): a frame word whose value is lost is a DATA_ERROR of the lanes that read it (17 R433). -/
def bodyEret (s : State) (c : Ctx) : Res :=
  if c.g = 0 then .warp c.w
  else
    let m := maskOf (fun l => inMask c.g l && (reloaded c.kern (lane0 c.g) l).any (Store.get false c.w.lostSpill))
    let s1 := useFrame s c.core c.k c.i c.kern false
    if m = 0 then .state (modWarp s1 c.k c.i (fun w => retireJump (leaveTrap c.kern (lane0 c.g) w)))
    else .fault { cause := cDataError, lanes := m } s1

def execEret (f : RRaw) (s : State) : Host.Outcome State Fault Refusal :=
  warpInstr (.eret f) s (fun c => bodyEret s c)
def execSrwRead (f : RRaw) (s : State) : Host.Outcome State Fault Refusal :=
  warpInstr (.srwRead f) s (fun c =>
    .warp (writeLanes c (if crWide (selOf f) then 2 else 1) f.d (fun _ => crValue s c (selOf f))))
def execSrwWrite (f : RRaw) (s : State) : Host.Outcome State Fault Refusal :=
  warpInstr (.srwWrite f) s (fun c => bodySrwWrite f s c)
def execCapt (f : IForm) (s : State) : Host.Outcome State Fault Refusal := warpInstr (.capt f) s (fun c => bodyCapt f s c)
def execLive (f : RRaw) (s : State) : Host.Outcome State Fault Refusal := warpInstr (.live f) s (fun c => bodyLive f s c)
def execDrain (f : RArith) (s : State) : Host.Outcome State Fault Refusal := warpInstr (.drain f) s (fun c => bodyDrain false f s c)
def execDrainFree (f : RArith) (s : State) : Host.Outcome State Fault Refusal :=
  warpInstr (.drainFree f) s (fun c => bodyDrain true f s c)
def execCapq (f : RRaw) (s : State) : Host.Outcome State Fault Refusal :=
  warpInstr (.capq f) s (fun c => .warp (writeLanes c 2 f.d (fun _ => capqValue s c (selOf f))))
def execPmcr (f : RRaw) (s : State) : Host.Outcome State Fault Refusal :=
  warpInstr (.pmcr f) s (fun c => bodyPmcr false f s c)
def execPmcrClr (f : RRaw) (s : State) : Host.Outcome State Fault Refusal :=
  warpInstr (.pmcrClr f) s (fun c => bodyPmcr true f s c)

end Sys2Proof.Machine
end

