-- ==== Sys2Proof/Machine/Fire.lean ====
section
/-! DEFINITION. The firing of a lattice context: readiness and choice, the operations of group 0xF, and the instructions of the other
groups in T form (06 R161 to R163, 07 R208, 08 R235, 09 R267, 10 R293, 11 R313 to R320, 12 R325 to R335, R345). -/

namespace Sys2Proof.Machine

/-- A firing that may start: its place, its warp and run, its tag, and the tokens that it consumes. -/
structure Firing where
  core : Nat
  node : Nat
  ws : Nat
  k : Nat
  i : Nat
  run : LatRun
  im : Image
  t : TForm
  tag : Tag
  level : Nat
  toks : List Token
  deriving DecidableEq, Repr

/-! Program order (04 R112, 10 R273, R286, 12 R336). -/

/-- Whether a token belongs to an iteration or to an instance inside it. -/
def within (t : Token) (tag : Tag) (level : Nat) : Bool := decide (level ≤ t.level) && decide (tagOut (t.level - level) t.tag = tag)

/-- Whether an inner instance has closed with every value of it gathered (11 R318, 12 R335): its `WADV` contexts have seen an empty
token, every `TAGPSH` has sent into it, and no token, load or row of it is left. -/
def instDone (s : State) (core ws : Nat) (im : Image) (r : LatRun) (level : Nat) (par : Tag) : Bool :=
  match instOf r (level + 1) par with
  | none => false
  | some li =>
    li.closed && (pushNodes im level).all (fun n => elemOf n li.pushed)
    && !(coreTokens (getCore s core) ws).any (fun t => !t.mark && decide (level < t.level) && within t par level)
    && !r.iters.any (fun it => decide (level < it.level ∧ tagOut (it.level - level) it.tag = par) && it.toks.any (fun t => !t.done && isLoad t.word))

/-- The contexts of a level that act in program order, memory operations, `GAROW` and `MMA`: those before its inner loops, and those
after. -/
def levelNodes (im : Image) (level : Nat) : List Nat × List Nat :=
  let mem := (im.seqs.filter (fun e => decide (e.2.2 = level))).map (fun e => (e.1, 2 * e.2.1 + 1, decide (e.2.1 < innerSeq im level)))
  let row := (im.rows.filter (fun e => decide (Store.get 0 im.levels e.1 = level))).map (fun e => (e.1, 2 * e.2, rowBefore im level e.1))
  let all := sortBy (fun (e : Nat × Nat × Bool) => e.2.1 * 512 + e.1) (mem ++ row)
  ((all.filter (fun e => e.2.2)).map Prod.fst, (all.filter (fun e => !e.2.2)).map Prod.fst)

/-- The contexts of a level's instance in program order, each with its iteration; `none` stands where an inner loop has more to come. -/
def progLevel (s : State) (core ws : Nat) (im : Image) (r : LatRun) : Nat → Nat → Tag → List (Option (Iter × Nat))
  | 0, _, _ => [none]
  | fuel + 1, level, par =>
    let own := levelNodes im level
    let has := im.seqs.any (fun e => decide (level < e.2.2)) || im.rows.any (fun e => decide (level < Store.get 0 im.levels e.1))
    (r.iters.filter (fun it => decide (it.level = level ∧ parentOf level it.tag = par))).flatMap (fun it =>
      own.1.map (fun n => some (it, n))
      ++ (if has then progLevel s core ws im r fuel (level + 1) it.tag ++ (if instDone s core ws im r level it.tag then [] else [none]) else [])
      ++ own.2.map (fun n => some (it, n)))

/-- What a warp's lattice iterations do in program order. -/
def progOrder (s : State) (core ws : Nat) (im : Image) (r : LatRun) : List (Option (Iter × Nat)) :=
  progLevel s core ws im r 4 0 { wslot := ws, islot := r.slot, o := 0, m := 0, i := 0 }

/-- Whether a context is an `MMA` of a scaled format, which reads and advances KBC (10 R273). -/
def countsBlocks (im : Image) (node : Nat) : Bool :=
  match (Store.find im.nodes node).bind tBase with
  | some (.mma f) => fmtScaled f.fmt
  | _ => false

/-- KBC as the `MMA` of an iteration finds it: as the latest one before it in program order left it; none where one before it is still to
fire. `k` is KBC so far. -/
def kbcAt (im : Image) (tag : Tag) (level node : Nat) : BitVec 7 → List (Option (Iter × Nat)) → Option (BitVec 7)
  | k, [] => some k
  | _, none :: _ => none
  | k, some (it, n) :: rest =>
    if it.tag = tag ∧ it.level = level ∧ n = node then some k
    else if countsBlocks im n then (match it.fired.find? (fun e => decide (e.1 = n)) with
      | some e => kbcAt im tag level node (e.2.2.getD k) rest
      | none => none)
    else kbcAt im tag level node k rest

/-- KBC and the counter of `MMA` instructions after the given contexts of an iteration have fired (11 R312). -/
def takeFired (it : Iter) (nodes : List Nat) (w : Warp) : Warp :=
  (nodes.filterMap (fun n => it.fired.find? (fun e => decide (e.1 = n)))).foldl (fun w e =>
    { w with kbc := e.2.2.getD w.kbc, mmas := w.mmas + BitVec.ofNat 64 e.2.1 }) w

/-- An iteration whose fired `MMA` contexts before its inner loops have been taken. -/
def firedTaken (im : Image) (it : Iter) : Iter :=
  { it with fired := it.fired.map (fun e => if rowBefore im it.level e.1 then (e.1, 0, none) else e) }

/-! Readiness. -/

/-- The first `n` tokens of a slot, or none where fewer have arrived. -/
def slotToks (mine : List Token) (sl n : Nat) : Option (List Token) :=
  let l := (mine.filter (fun x => decide (tokSlot x = sl))).take n
  if l.length = n then some l else none

/-- The registers of the sequences that an MMA context takes: A, B, and C where ARITY counts it (10 R293). -/
def mmaSeqs (t : TForm) : List (Nat × Nat) :=
  match tBase t with
  | some (.mma f) => [(0, mmaARegs false f), (1, mmaBRegs false f), (2, mmaCRegs f)].take t.arity.toNat
  | _ => []

/-- The tokens that a context takes of one tag's, in arrival order; none where it is not ready (12 R331, 11 R313, R315). A context that
needs no slot takes the first token sent to it (log 11). -/
def takeToks (t : TForm) (mine : List Token) : Option (List Token) :=
  let all (l : List (Nat × Nat)) : Option (List Token) :=
    l.foldl (fun acc e => match acc, slotToks mine e.1 e.2 with
      | some a, some b => some (a ++ b)
      | _, _ => none) (some [])
  let first : Option (List Token) := if mine.isEmpty then none else some (mine.take 1)
  match t.op.toNat with
  | 0x3C7 => all [(0, 1)]
  | 0x3C1 => if tSub t = 1 then first else all [(0, 1), (1, 1)]
  | 0x300 => if mmaSeqs t = [] then first else all (mmaSeqs t)
  | _ => if needSlots t = [] then first else all ((needSlots t).map (fun sl => (sl, 1)))

/-- The tags of the tokens at a context, with their levels. -/
def tagsAt (c : Core) (node : Nat) : List (Tag × Nat) :=
  (((tokensAt c node).filter (fun e => !e.2.mark)).map (fun e => (e.2.tag, e.2.level))).dedup

/-- Whether an access of a run is still held on a page request (19 R459, 20 R480). -/
def heldNow (s : State) (k : Nat) (r : LatRun) : Bool :=
  r.held.any (fun e => (Store.find (getVd s (keyVd k)).tags e.1).isSome)

/-- The firings that a context may start: its targets' buffers have room, a `GAROW` finds a free entry (10 R290), and an `MMA` of a scaled
format comes in its turn. -/
def firingsAt (s : State) (core node : Nat) : List Firing :=
  let c := getCore s core
  (tagsAt c node).filterMap (fun (tag, level) =>
    match warpAtSlot s core tag.wslot, imageAt s core tag.islot with
    | some (k, i), some im =>
      match getRun s k i, Store.find im.nodes node with
      | some r, some t =>
        let mine := ((tokensAt c node).filter (fun e => !e.2.mark && decide (e.2.tag = tag ∧ e.2.level = level))).map Prod.snd
        let turn := if countsBlocks im node then (kbcAt im tag level node 0 (progOrder s core tag.wslot im r)).isSome else true
        if (t.op = 0x341 && (freeGae s core).isNone) || !turn || !buffersFree s core node t then none
        else (takeToks t mine).map (fun ts =>
          { core := core, node := node, ws := tag.wslot, k := k, i := i, run := r, im := im, t := t, tag := tag, level := level, toks := ts })
      | _, _ => none
    | _, _ => none)

/-- The place of a firing in the order of R331: the senior iteration, then the oldest admission, stamps counting modulo 2^32, then the arrival of its last token. -/
def firingRank (s : State) (f : Firing) : Nat :=
  let senior := f.toks.any (fun t => isSenior s f.core t)
  let age := match iterAt f.run f.level f.tag with
    | some it => ((getCore s f.core).admStamp - BitVec.ofNat 32 it.stamp).toNat
    | none => 0
  let last := f.toks.foldl (fun n t => Nat.max n t.arr) 0
  (if senior then 0 else 2 ^ 128) + (2 ^ 32 - age) * 2 ^ 64 + last

/-- The firing that a cell starts (12 R331). -/
def cellPick (s : State) (core cell : Nat) : Option Firing :=
  minBy (firingRank s) ((List.range 8).flatMap (fun x => firingsAt s core (nodeOf cell x)))

/-! The order queue's view of a firing. -/

/-- Whether a drain discards what an iteration does (12 R338). -/
def ignored (r : LatRun) (tag : Tag) (level : Nat) : Bool :=
  match r.drain with
  | some (_, n, lv) => atOrAfter r n lv tag level
  | none => false

/-- Opens an iteration that a tag names without a `WADV`'s admission, where it is not live (log 11). -/
def ensureIter (s : State) (f : Firing) : State := openIter s f.core f.k f.i f.level f.tag

/-- Changes the iteration of a firing, unless a drain discards it. -/
def onIter (s : State) (f : Firing) (g : Iter → Iter) : State :=
  if ignored f.run f.tag f.level then s
  else modRun (ensureIter s f) f.k f.i (fun r => modIter r f.level f.tag g)

/-- The sequence number of a memory context (06 R168, 12 R350). -/
def seqOf (im : Image) (node : Nat) : Nat :=
  match im.seqs.find? (fun e => decide (e.1 = node)) with
  | some e => e.2.1
  | none => 32

/-- A drain to the iteration of a firing, as for a fault that it meets (20 R480). -/
def faultDrain (s : State) (f : Firing) : State :=
  if ignored f.run f.tag f.level then s else startDrain s f.k f.i f.core .fault f.tag f.level

/-! Values. -/

/-- The token of a slot. -/
def slotTok (f : Firing) (sl : Nat) : Option Token := f.toks.find? (fun t => decide (tokSlot t = sl))

/-- The mask of a firing: the lanes of every token that it takes (11 R313). -/
def fireMask (f : Firing) : Word := f.toks.foldl (fun m t => m &&& t.mask) 0xFFFFFFFF

/-- The value of the first token of a firing. -/
def firstVal (f : Firing) : Val :=
  match f.toks with
  | t :: _ => valOfTok t
  | [] => mkVal false 0 (fun _ => 0)

/-- The lane value of a slot, where ARITY counts it. -/
def slotLane (f : Firing) (sl l : Nat) : Option DWord := (slotTok f sl).map (fun t => nthD t.data l 0)

/-- The value that a T-form immediate supplies for operand b (06 R161): as bits of an FP64 or FP32 value in the groups of floating
arithmetic, and sign-extended elsewhere. `PACK` and `UNPACK` take it as integers, and the packed halves of
`PKADD`, `PKMUL` and `PKFMA` and the scale of `CVTN` and `CVTW` as the bits of an FP32 value (DESIGN CHOICE, log 12). -/
def immValue (t : TForm) : DWord :=
  let op := t.op.toNat
  if elemOf op [0x180, 0x181, 0x182, 0x183] then t.imm.zeroExtend 64 <<< 41
  else if 5 ≤ op / 64 ∧ op / 64 ≤ 7 ∧ op ≠ 0x1C3 ∧ op ≠ 0x1C4 then t.imm.zeroExtend 64 <<< 9
  else t.imm.signExtend 64

/-- The value of an operand slot in a lane: its token, the immediate for b, or zero (12 R345). -/
def operandLane (f : Firing) (sl l : Nat) : DWord :=
  match slotLane f sl l with
  | some x => x
  | none => if sl = 1 ∧ f.t.immv then immValue f.t else 0

/-! Running an instruction on tokens: its operands stand in registers of a warp made for the firing. -/

/-- The registers that hold the operands of a firing: d at 96, a at 0, b at 32, c at 64. -/
def fireOpnd (n : Nat) : Opnd := .v (BitVec.ofNat 8 n)

/-- Writes an operand's lanes into a register pair. -/
def putOperand (reg : Nat) (x : Nat → DWord) (w : Warp) : Warp :=
  laneList.foldl (fun w l => setV (setV w reg l (lowWord (x l))) (reg + 1) l (highWord (x l))) w

/-- The warp of a firing: the operands in registers, the mask as its lanes, and the mode word of the warp (07 R208). -/
def fireWarp (f : Firing) (w : Warp) : Warp :=
  let w0 := { w with
    regs := [], preds := [], kregs := [], lostRegs := [], active := fireMask f, launch := fireMask f, stack := [], blocked := .ready,
    lat := none, rebuilt := none, handler := true }
  putOperand 64 (operandLane f 2) (putOperand 32 (operandLane f 1) (putOperand 0 (operandLane f 0) w0))

/-- The state in which a firing's instruction runs; every register number is within its kernel's. -/
def fireState (s : State) (f : Firing) : State :=
  match getTask s f.k with
  | none => s
  | some t =>
    let s1 := match taskJob s t with
      | some j => setJob s { j with kernel := { j.kernel with regs := 32 } }
      | none => s
    { modWarp s1 f.k f.i (fireWarp f) with cur := some { task := f.k, warp := f.i } }

/-- The operand c of `SETP`, `FSETP` and `DSETP`, which reads as true where ARITY does not count it (12 R345). -/
def setC (f : Firing) : Opnd := if (slotTok f 2).isSome then fireOpnd 64 else .p 7

/-- An arithmetic word with the operands of a firing: those that its instruction has. -/
def fireArith (a b c : Bool) (x : RArith) : RArith :=
  { x with d := fireOpnd 96, a := if a then fireOpnd 0 else .v 0, b := if b then fireOpnd 32 else .v 0, c := if c then fireOpnd 64 else .v 0 }
def fireRaw (b c : Bool) (x : RRaw) : RRaw :=
  { x with d := fireOpnd 96, a := fireOpnd 0, b := if b then fireOpnd 32 else .v 0, c := if c then fireOpnd 64 else .v 0 }

/-- Runs the instruction of a T-form word of groups 0x0, 0x1 and 0x2 on its operands (07 R208). -/
def runInt (f : Firing) (s : State) : Instr → Option (Host.Outcome State Fault Refusal)
  | .add x => some (execAdd (fireArith true true false x) s)
  | .sub x => some (execSub (fireArith true true false x) s)
  | .addc x => some (execAddc (fireArith true true true x) s)
  | .subb x => some (execSubb (fireArith true true true x) s)
  | .mul x => some (execMul (fireArith true true false x) s)
  | .mulh x => some (execMulh (fireArith true true false x) s)
  | .mad x => some (execMad (fireArith true true true x) s)
  | .madw x => some (execMadw (fireArith true true true x) s)
  | .div x => some (execDiv (fireArith true true false x) s)
  | .rem x => some (execRem (fireArith true true false x) s)
  | .min x => some (execMin (fireArith true true false x) s)
  | .max x => some (execMax (fireArith true true false x) s)
  | .abs x => some (execAbs (fireArith true false false x) s)
  | .neg x => some (execNeg (fireArith true false false x) s)
  | .sad x => some (execSad (fireArith true true true x) s)
  | .and x => some (execAnd (fireArith true true false x) s)
  | .or x => some (execOr (fireArith true true false x) s)
  | .xor x => some (execXor (fireArith true true false x) s)
  | .not x => some (execNot (fireArith true false false x) s)
  | .andn x => some (execAndn (fireArith true true false x) s)
  | .blut x => some (execBlut (fireRaw true true x) s)
  | .shl x => some (execShl (fireArith true true false x) s)
  | .shr x => some (execShr (fireArith true true false x) s)
  | .sra x => some (execSra (fireArith true true false x) s)
  | .rot x => some (execRot (fireArith true true false x) s)
  | .fshl x => some (execFshl (fireArith true true true x) s)
  | .bfx x => some (execBfx (fireArith true true false x) s)
  | .bfi x => some (execBfi (fireArith true true true x) s)
  | .popc x => some (execPopc (fireArith true false false x) s)
  | .clz x => some (execClz (fireArith true false false x) s)
  | .ctz x => some (execCtz (fireArith true false false x) s)
  | .brev x => some (execBrev (fireArith true false false x) s)
  | .bpick x => some (execBpick (fireRaw true false x) s)
  | .setp x => some (execSetp { fireArith true true true x with c := setC f } s)
  | .sel x => some (execSel (fireArith true true true x) s)
  | .plop x => some (execPlop (fireRaw true true x) s)
  | .mov x => some (execMov (fireArith true false false x) s)
  | .movk x => some (execMovk { fireArith true false false x with d := .k 0 } s)
  | .cvti x => some (execCvti (fireArith true false false x) s)
  | .lea x => some (execLea (fireArith true true false x) s)
  | _ => none

/-- Runs the instruction of a T-form word of groups 0x5, 0x6 and 0x7 on its operands (08 R235). -/
def runFloat (f : Firing) (s : State) : Instr → Option (Host.Outcome State Fault Refusal)
  | .fadd x => some (execFadd (fireArith true true false x) s)
  | .fsub x => some (execFsub (fireArith true true false x) s)
  | .fmul x => some (execFmul (fireArith true true false x) s)
  | .ffma x => some (execFfma (fireArith true true true x) s)
  | .fmin x => some (execFmin (fireArith true true false x) s)
  | .fmax x => some (execFmax (fireArith true true false x) s)
  | .fsetp x => some (execFsetp { fireArith true true true x with c := setC f } s)
  | .fsel x => some (execFsel (fireArith true true true x) s)
  | .frcp x => some (execFrcp (fireArith true false false x) s)
  | .frsq x => some (execFrsq (fireArith true false false x) s)
  | .fsqrt x => some (execFsqrt (fireArith true false false x) s)
  | .fdiv x => some (execFdiv (fireArith true true false x) s)
  | .frnd x => some (execFrnd (fireArith true false false x) s)
  | .fclass x => some (execFclass (fireArith true false false x) s)
  | .fscale x => some (execFscale (fireArith true true false x) s)
  | .frexp x => some (execFrexp (fireArith true false false x) s)
  | .pkadd x => some (execPkadd (fireArith true true false x) s)
  | .pkmul x => some (execPkmul (fireArith true true false x) s)
  | .pkfma x => some (execPkfma (fireArith true true true x) s)
  | .fchkTest x => some (execFchkTest (fireArith true false false x) s)
  | .fchkTrap x => some (execFchkTrap { fireArith true false false x with d := .v 0 } s)
  | .fpmode x => some (execFpmodeGet { fireArith false false false x with sub := 1 } s)
  | .fpmodeGet x => some (execFpmodeGet (fireArith false false false x) s)
  | .dadd x => some (execDadd (fireArith true true false x) s)
  | .dmul x => some (execDmul (fireArith true true false x) s)
  | .dfma x => some (execDfma (fireArith true true true x) s)
  | .dsetp x => some (execDsetp { fireArith true true true x with c := setC f } s)
  | .fex2 x => some (execFex2 (fireArith true false false x) s)
  | .flg2 x => some (execFlg2 (fireArith true false false x) s)
  | .fsin x => some (execFsin (fireArith true false false x) s)
  | .fcos x => some (execFcos (fireArith true false false x) s)
  | .cvt x => some (execCvt (fireArith true false false x) s)
  | .cvtn x => some (execCvtn { x with d := fireOpnd 96, a := fireOpnd 0, b := fireOpnd 32, c := .v 0 } s)
  | .cvtw x => some (execCvtw { x with d := fireOpnd 96, a := fireOpnd 0, b := fireOpnd 32, c := .v 0 } s)
  | .pack x => some (execPack (fireArith true true (decide (2 ≤ x.sub.toNat)) x) s)
  | .unpack x => some (execUnpack (fireArith true (decide (2 ≤ x.sub.toNat)) false x) s)
  | _ => none

/-- Registers of a firing's result. -/
def fireRegs (i : Instr) : Nat :=
  match (operandUses i).head? with
  | some u => match u.cls with
    | .dst n => n
    | _ => 1
  | none => 1

/-- The low bits of a `CVTN` or `CVTW` result that element 0 fills (08 R235). -/
def elem0Bits : Instr → Option Nat
  | .cvtn x => some (32 / narrowK x.fmt)
  | .cvtw x => if x.ty = .bf16x2 then some 16 else none
  | _ => none

/-- The result of a firing's instruction in a lane, from the warp that ran it. -/
def fireResult (i : Instr) (w : Warp) (l : Nat) : DWord :=
  let x := match i with
    | .movk _ => (getK w 0).zeroExtend 64
    | _ => if fireRegs i = 2 then pairOf (getV w 96 l) (getV w 97 l) else (getV w 96 l).zeroExtend 64
  match elem0Bits i with
  | some n => w64 (x.toNat % 2 ^ n)
  | none => x

/-- A firing whose slot a holds what its instruction reads of it: a word for `CVTN`, element 0 for `CVTW` (08 R235). -/
def trimFiring (i : Instr) (f : Firing) : Firing :=
  let cut (n : Nat) : Firing :=
    { f with toks := f.toks.map (fun t => if tokSlot t = 0 then { t with data := t.data.map (fun x => w64 (x.toNat % 2 ^ n)) } else t) }
  match i with
  | .cvtn _ => cut 32
  | .cvtw x => cut (32 / narrowK x.fmt)
  | _ => f

/-- The result of an arithmetic firing; none where it meets a cause of stage 5 or 6 (20 R480). -/
def fireArithmetic (s : State) (f : Firing) (i : Instr) : Option Val :=
  let s0 := fireState s (trimFiring i f)
  let pc := ((getTask s f.k).bind (fun t => getWarp t f.i)).map (fun w => w.pc)
  match (runInt f s0 i).or (runFloat f s0 i) with
  | some (.next s1) =>
    match (getTask s1 f.k).bind (fun t => getWarp t f.i) with
    | some w =>
      if pc.map (fun p => p + 8) = some w.pc then some (mkVal (decide (fireRegs i = 2)) (fireMask f) (fireResult i w)) else none
    | none => none
  | _ => none

/-- The value of `MOVI`: its immediate in every lane (07 R193). -/
def fireMovi (f : Firing) : Val := mkVal false (fireMask f) (fun l => (lowWord (operandLane f 1 l)).zeroExtend 64)

/-! `TMV`, `MMA` and `GAROW`. -/

/-- Weight width and byte offset of a `TMV` step (08 R235). -/
def tmvFire (f : Firing) : Bool × (Nat → Nat) :=
  if f.t.immv then (f.t.imm.getLsbD 22, fun _ => (f.t.imm.extractLsb' 0 17).toNat)
  else match tBase f.t with
    | some (.tmv x) => (decide (x.wty = .bf16), fun l => (lowWord (operandLane f 1 l)).toNat)
    | _ => (false, fun l => (lowWord (operandLane f 1 l)).toNat)

/-- One step of the chain of R144 in each lane; none where an access or a check fails. The step's weight is read at a multiple of its own
width, of which the rules say nothing for one step (DESIGN CHOICE, log 12). -/
def fireTmv (s : State) (f : Firing) (c : Ctx) : Option Val :=
  let (bf, off) := tmvFire f
  let z := if bf then 2 else 4
  let accs : List Acc := (maskLanes (fireMask f)).map (fun l => { lane := l, addr := off l, n := z })
  match checkAccess s c .const z 0 needR accs with
  | (.ok ps, s1) =>
    if (lostAccs s1 c 0 ps).isEmpty then
      let bytes := ((constImg s1 c).map (fun x => x.bytes)).getD []
      let acc (l : Nat) : Nat := if (slotTok f 2).isSome then (lowWord (operandLane f 2 l)).toNat else 0x80000000
      let out (l : Nat) : Nat :=
        tmvStep (acc l) (weightVal bf (rdConst bytes (off l) z)) (fp32.decode (lowWord (operandLane f 0 l)).toNat)
      match nonfiniteFault (fireMask f) (fun l => fp32.selBits (out l) &&& (c.w.fpmode.toNat % 4)) with
      | some _ => none
      | none => some (mkVal false (fireMask f) (fun l => w64 (out l)))
    else none
  | _ => none

/-- The tokens of a sequence in registers, one after another (10 R293). -/
def putSeq (reg : Nat) (l : List Token) (w : Warp) : Warp :=
  (l.zip (List.range l.length)).foldl (fun w e => putOperandWord (reg + e.2) (fun l => lowWord (nthD e.1.data l 0)) w) w
where
  putOperandWord (reg : Nat) (x : Nat → Word) (w : Warp) : Warp := laneList.foldl (fun w l => setV w reg l (x l)) w

/-- An `MMA` firing: the sequence of D and KBC after it, or none where it faults. -/
def fireMma (s : State) (f : Firing) (c : Ctx) : Option (List Val × BitVec 7) :=
  match tBase f.t with
  | some (.mma x) =>
    let sq (sl : Nat) : List Token := f.toks.filter (fun t => decide (tokSlot t = sl))
    let k := (kbcAt f.im f.tag f.level f.node c.w.kbc (progOrder s f.core f.ws f.im f.run)).getD c.w.kbc
    let w := putSeq 64 (sq 2) (putSeq 32 (sq 1) (putSeq 0 (sq 0) { c.w with regs := [], kbc := k }))
    let y := { x with d := fireOpnd 96, a := fireOpnd 0, b := fireOpnd 32, c := if (sq 2).isEmpty then .vz else fireOpnd 64 }
    match bodyMma false y s { c with w := w } with
    | .warp v => some ((List.range (mmaCRegs x)).map (fun j => mkVal false (fireMask f) (fun l => (getV v (96 + j) l).zeroExtend 64)), v.kbc)
    | _ => none
  | _ => none

/-! After a firing. -/

/-- Whether a drain's boundary lies in the instance of a gathered token: the token is then carried state (12 R338). -/
def drainHolds (r : LatRun) (level : Nat) (par : Tag) : Bool :=
  match r.drain with
  | some (_, n, lv) => encloses n lv par level
  | none => false

/-- Forwards the gathered tokens of instances that have closed (12 R335). -/
def forwardPops (s : State) (core ws : Nat) : State :=
  match warpAtSlot s core ws with
  | none => s
  | some (k, i) =>
    match getRun s k i with
    | none => s
    | some r =>
      match imageAt s core r.slot with
      | none => s
      | some im =>
        r.gathered.foldl (fun s g =>
          match getRun s k i, Store.find im.nodes g.1 with
          | some r1, some t =>
            if instDone s core ws im r1 g.2.1 g.2.2.1 && !drainHolds r1 g.2.1 g.2.2.1 then
              let s1 := modRun s k i (fun r =>
                { r with gathered := r.gathered.filter (fun e => !decide (e = g)), popped := r.popped ++ [g] })
              let tag := if t.top = 4 then { g.2.2.1 with i := g.2.2.1.i + 1 } else g.2.2.1
              let s2 := if t.top = 4 then openIter s1 core k i g.2.1 tag else s1
              sendBoth s2 core g.1 t tag g.2.1 { w64 := g.2.2.2.w64, mask := g.2.2.2.mask, data := g.2.2.2.data }
            else s
          | _, _ => s) s

/-- A warp of a task has left the lattice of a core: drains that wait for it end, and a task that is being pre-empted may be evicted. -/
def leftLattice (s : State) (core k : Nat) : State := afterLattice (wakeDrains s core) k

/-- What follows any change of a warp's tokens: closed instances forward, and a warp with nothing left exits (12 R335, R339). -/
def settleLat (s : State) (core ws : Nat) : State :=
  let s1 := maybeExit (forwardPops s core ws) core ws
  match warpAtSlot s1 core ws with
  | some (k, i) => if (getRun s1 k i).isNone then leftLattice s1 core k else s1
  | none => s1

/-- Takes the tokens of a firing from the store; any firing restarts the warp's watchdog (20 R491). -/
def consume (s : State) (f : Firing) : State :=
  let c := getCore s f.core
  modRun (setCore s f.core { c with store := c.store.filter (fun e => !f.toks.any (fun t => decide (t.arr = e.2.arr))) }) f.k f.i
    (fun r => { r with watchdog := 0 })

/-- A context that fires for the current step: its cell must pick it (12 R331). `act` sends what it sends. -/
def fireContext (t : TForm) (s : State) (act : Firing → State → State) : Host.Outcome State Fault Refusal :=
  match s.latCur with
  | none => .fault .noWarp
  | some cc =>
    match cellPick s cc.core (cellOf cc.node) with
    | none => .next s
    | some f =>
      if f.node = cc.node ∧ f.t = t then
        .next (settleLat (forwardMark (act f (consume s f)) f.core f.ws f.node false) f.core f.ws)
      else .next s

/-! Group 0xF. -/

/-- A value restricted to lanes. -/
def valIn (v : Val) (m : Word) : Val := { v with mask := v.mask &&& m }

/-- The mask of a firing's lanes whose value in a slot is nonzero; a slot that ARITY does not count reads as zero (12 R345). -/
def nonzeroLanes (f : Firing) (sl : Nat) : Word :=
  match slotTok f sl with
  | some b => maskOf (fun l => inMask b.mask l && decide (nthD b.data l 0 ≠ 0))
  | none => 0

/-- The value of slot a: its token, or zero in the lanes of the firing. -/
def slotA (f : Firing) : Val :=
  match slotTok f 0 with
  | some a => valOfTok a
  | none => mkVal false (fireMask f) (fun _ => 0)

/-- `STEER` (11 R314). -/
def actSteer (f : Firing) (s : State) : State :=
  let p := nonzeroLanes f 1
  let v := slotA f
  sendTarget (sendTarget s f.core f.node f.t.t1 f.tag f.level (valIn v p) false) f.core f.node f.t.t2 f.tag f.level (valIn v (~~~p)) false

/-- `MERGE.join` and `MERGE.first` (11 R315). -/
def actMerge (f : Firing) (s : State) : State :=
  let (tag, lv) := topApply f.t.top.toNat f.tag f.level
  match slotTok f 0, slotTok f 1 with
  | some a, some b =>
    sendBoth s f.core f.node f.t tag lv
      { w64 := a.w64 || b.w64, mask := a.mask ||| b.mask, data := laneList.map (fun l => if inMask a.mask l then nthD a.data l 0 else nthD b.data l 0) }
  | _, _ => sendBoth s f.core f.node f.t tag lv (firstVal f)

/-- `FAN` (11 R316). -/
def actFan (f : Firing) (s : State) : State :=
  let (tag, lv) := topApply f.t.top.toNat f.tag f.level
  sendBoth s f.core f.node f.t tag lv (firstVal f)

/-- `INJ` (11 R320): a register or a pair, in the lanes of the entry mask. A lost value is not sent on: the front end re-executes (17 R421). -/
def actInj (f : Firing) (s : State) : State :=
  match (getTask s f.k).bind (fun t => getWarp t f.i) with
  | none => s
  | some w =>
    let reg := (f.t.imm.extractLsb' 0 8).toNat
    let pair := f.t.imm.getLsbD 8
    let x (l : Nat) : DWord := if pair then pairOf (getV w reg l) (getV w (reg + 1) l) else (getV w reg l).zeroExtend 64
    let lost := (maskLanes (fireMask f)).any (fun l => (List.range (if pair then 2 else 1)).any (fun j =>
      Store.get false w.lostRegs (32 * (reg + j) + l)))
    if lost then faultDrain s f else sendBoth s f.core f.node f.t f.tag f.level (mkVal pair (fireMask f) x)

/-- `WADV` (11 R317, 12 R335, R338): an empty token closes the instance; under a drain the boundary's token is caught and later ones are
dropped; else the result waits at the gate. -/
def actWadv (f : Firing) (s : State) : State :=
  let (tag, lv) := topApply f.t.top.toNat f.tag f.level
  let gl := f.level - gateOut f.t.top.toNat
  let gtag := tagOut (f.level - gl) tag
  let v := firstVal f
  if v.mask = 0 then modRun s f.k f.i (fun r => modInst r gl (parentOf gl gtag) (fun li => { li with closed := true }))
  else
    match f.run.drain with
    | some (_, n, l) =>
      if atOrAfter f.run n l tag lv || decide (carriedTo f.im f.node tag lv = (n, l)) then
        modRun s f.k f.i (fun r => catchTok f.im r f.node tag lv v)
      else wait s tag lv v
    | none => wait s tag lv v
where
  wait (s : State) (tag : Tag) (lv : Nat) (v : Val) : State :=
    let c := getCore s f.core
    let t : Token :=
      { dest := .slot f.node 0, tag := tag, level := lv, mask := v.mask, w64 := v.w64, data := v.data, mark := false, arr := s.seq,
        src := cellOf f.node }
    setCore { s with seq := s.seq + 1 } f.core { c with gate := c.gate ++ [(s.seq, t)] }

/-- The `WADV` contexts that feed the merges that a `TAGPSH` feeds: they carry the same value (12 R322, log 13). -/
def sameCarried (im : Image) (t : TForm) : List Nat :=
  let dests (x : TForm) : List Nat := [x.t1, x.t2].filterMap (fun y => if y.slot.toNat < 3 then some (nodeOf y.cell.toNat y.ctx.toNat) else none)
  (im.nodes.filter (fun e => decide (e.2.op = 0x3C2) && (dests e.2).any (fun d => elemOf d (dests t)))).map Prod.fst

/-- `TAGPSH` (11 R318): opens the inner instance and sends the token at its level. -/
def actPush (f : Firing) (s : State) : State :=
  let (tag, lv) := topApply 2 f.tag f.level
  let v := firstVal f
  let s1 := if ignored f.run f.tag f.level then s else openIter s f.core f.k f.i lv tag
  let s2 := modRun s1 f.k f.i (fun r =>
    let r1 := modInst r lv f.tag (fun li => { li with pushed := f.node :: li.pushed })
    modIter r1 lv tag (fun it => { it with heads := it.heads ++ (sameCarried f.im f.t).map (fun n => (n, liveOf n 0 v)) }))
  sendBoth s2 f.core f.node f.t tag lv v

/-- Adds a token to what a `TAGPOP` has gathered: each lane's value is that of the iteration in which it left (12 R335). -/
def gather (l : List (Nat × Nat × Tag × LiveOut)) (node level : Nat) (par : Tag) (v : Val) : List (Nat × Nat × Tag × LiveOut) :=
  let isIt (g : Nat × Nat × Tag × LiveOut) : Bool := decide (g.1 = node ∧ g.2.1 = level ∧ g.2.2.1 = par)
  match l.find? isIt with
  | some g =>
    let o := g.2.2.2
    let n : LiveOut := { node := node, port := 0, w64 := o.w64 || v.w64, mask := o.mask ||| v.mask,
                         data := laneList.map (fun x => if inMask v.mask x then v.lane x else nthD o.data x 0) }
    l.map (fun e => if isIt e then (node, level, par, n) else e)
  | none => l ++ [(node, level, par, liveOf node 0 v)]

/-- `TAGPOP` (11 R318, 12 R335). -/
def actPop (f : Firing) (s : State) : State :=
  if ignored f.run f.tag f.level then s
  else modRun s f.k f.i (fun r => { r with gathered := gather r.gathered f.node (f.level - 1) (tagPop f.tag) (firstVal f) })

/-- `BEXIT` (11 R319, 12 R322, R337): its exit for the lanes whose value is nonzero; a side exit starts a drain. The events of an
iteration stand in the order of the exit list, which is that of the program (12 R340, log 35). -/
def actBexit (f : Firing) (s : State) : State :=
  let v := firstVal f
  let m := maskOf (fun l => inMask v.mask l && decide (v.lane l ≠ 0))
  let n := tSub f.t
  let x := nthD f.im.exits n 0
  if m = 0 ∨ ignored f.run f.tag f.level then s
  else if !f.im.expl && decide (exitKind x = 2) then startDrain s f.k f.i f.core .sideExit f.tag f.level
  else
    let e : ExitEv := { lanes := m, exit := n, level := if f.im.expl then f.level else exitLevel x, tag := f.tag }
    onIter s f (fun it => { it with exits := insertBy (fun (x : ExitEv) => x.exit) e it.exits })

/-! The other groups. -/

/-- The memory token of a firing. -/
def memTokOf (s : State) (f : Firing) (seq : Nat) : MemTok :=
  { seq := seq, word := f.t, node := f.node, mask := fireMask f, addr := laneList.map (operandLane f 0), data := laneList.map (operandLane f 1),
    done := decide (fireMask f = 0), free := s.freeIx }

/-- Whether a drain discards a token of a firing: one of the boundary or later, or one of an iteration around it that stands after the
inner loop (12 R338). -/
def lateTok (f : Firing) (t : MemTok) : Bool :=
  ignored f.run f.tag f.level || (match f.run.drain with
    | some (_, b, l) => encloses b l f.tag f.level && !beforeInner f.im f.level t
    | none => false)

/-- Enters a token in its iteration, unless a drain discards it. -/
def addTok (s : State) (f : Firing) (t : MemTok) : State :=
  if lateTok f t then s
  else onIter { s with freeIx := s.freeIx + 32 } f (fun it => { it with toks := it.toks ++ [t] })

/-- A memory token reaches the order queue; one without lanes counts as received and makes no access (12 R336). -/
def actMem (f : Firing) (s : State) : State :=
  let s1 := addTok s f (memTokOf s f (seqOf f.im f.node))
  if fireMask f = 0 ∧ f.t.op = 0x200 then
    let (tag, lv) := topApply f.t.top.toNat f.tag f.level
    sendBoth s1 f.core f.node f.t tag lv (mkVal false 0 (fun _ => 0))
  else s1

/-- Sends the results of a `GAROW`: column 0 to its first target, and column 1 to its second where the context has one (10 R293). -/
def sendRow (s : State) (core node : Nat) (t : TForm) (tag : Tag) (level nact : Nat) (m : Word) (outs : List (Nat × List Nat)) : State :=
  let (tag1, lv) := topApply t.top.toNat tag level
  let v (col : Nat) : Val :=
    mkVal false m (fun l => w64 (nthD (((outs.find? (fun e => decide (e.1 = l))).map Prod.snd).getD []) col 0))
  let s1 := sendTarget s core node t.t1 tag1 lv (v 0) false
  if nact = 0 then s1 else sendTarget s1 core node t.t2 tag1 lv (v 1) false

/-- Sends the result of a firing, or drains to its iteration where it faults. -/
def sendOr (f : Firing) (v : Option Val) (s : State) : State :=
  match v with
  | some v =>
    let (tag, lv) := topApply f.t.top.toNat f.tag f.level
    sendBoth s f.core f.node f.t tag lv v
  | none => faultDrain s f

/-- `GAROW` (10 R286, R290, R293): it takes an entry of the GAE queue, where its rows run in its threads' program order; one without lanes
sends empty results. -/
def actGarow (f : Firing) (s : State) : State :=
  match warpCtx s f.k f.i with
  | none => s
  | some c =>
    let m := fireMask f
    let t := memTokOf s f (rowPos f.im f.node)
    if m = 0 then sendRow (addTok s f t) f.core f.node f.t f.tag f.level ((c.w.gctx.map gaeNact).getD 0) 0 []
    else
      let rows : List (Nat × DWord) := (maskLanes m).map (fun l => (l, operandLane f 0 l))
      let accs : List Acc := rows.map (fun r => { lane := r.1, addr := r.2.toNat, n := 4 })
      match c.w.gctx, freeGae s f.core with
      | some x, some q =>
        if !(accs.filterMap (formFault c.kern .die 16 0)).isEmpty then faultDrain s f
        else if lateTok f t then s
        else
          let o : GaeOp :=
            { task := f.k, warp := f.i, pc := c.w.pc, ctx := x, book := gaeBook s c x, shmem := c.kern.shmem,
              kind := .lrow f.node f.level f.tag rows [], comp := .none, next := 0, progress := 0, st := .going, seq := s.seq }
          addTok (setGae { s with seq := s.seq + 1 } f.core q o) f t
      | _, _ => faultDrain s f

/-- `MMA` sends D as a sequence to its first target; its iteration holds KBC after it and its count until it commits (10 R293, 11 R312). -/
def actMma (f : Firing) (s : State) : State :=
  match warpCtx s f.k f.i with
  | none => s
  | some c =>
    match fireMma s f c with
    | none => faultDrain s f
    | some (vs, kbc) =>
      let (tag, lv) := topApply f.t.top.toNat f.tag f.level
      let k := if countsBlocks f.im f.node ∧ fireMask f ≠ 0 then some kbc else none
      let s1 := onIter s f (fun it => { it with fired := it.fired ++ [(f.node, if fireMask f = 0 then 0 else 1, k)] })
      vs.foldl (fun s v => sendTarget s f.core f.node f.t.t1 tag lv v false) s1

/-- A firing of a context of groups 0x0 to 0xD. -/
def actGeneral (f : Firing) (s : State) : State :=
  match tBase f.t with
  | some (.ld _) | some (.st _) | some (.fence _) | some (.garun _)
  | some (.redAdd _) | some (.redMin _) | some (.redMax _) | some (.redAnd _) | some (.redOr _) | some (.redXor _)
  | some (.redFadd _) | some (.redFmin _) | some (.redFmax _) => actMem f s
  | some (.mma _) => actMma f s
  | some (.garow _) => actGarow f s
  | some (.movi _) => sendOr f (some (fireMovi f)) s
  | some (.tmv _) => sendOr f ((warpCtx s f.k f.i).bind (fireTmv s f)) s
  | some i => sendOr f (fireArithmetic s f i) s
  | none => s

/-! The meanings. -/

def execSteer (t : TForm) (s : State) : Host.Outcome State Fault Refusal := fireContext t s actSteer
def execMerge (t : TForm) (s : State) : Host.Outcome State Fault Refusal := fireContext t s actMerge
def execWadv (t : TForm) (s : State) : Host.Outcome State Fault Refusal := fireContext t s actWadv
def execFan (t : TForm) (s : State) : Host.Outcome State Fault Refusal := fireContext t s actFan
def execTagpsh (t : TForm) (s : State) : Host.Outcome State Fault Refusal := fireContext t s actPush
def execTagpop (t : TForm) (s : State) : Host.Outcome State Fault Refusal := fireContext t s actPop
def execBexit (t : TForm) (s : State) : Host.Outcome State Fault Refusal := fireContext t s actBexit
def execInj (t : TForm) (s : State) : Host.Outcome State Fault Refusal := fireContext t s actInj
def execContextFiring (t : TForm) (s : State) : Host.Outcome State Fault Refusal := fireContext t s actGeneral

end Sys2Proof.Machine
end

