-- ==== Sys2Proof/Machine/Queue.lean ====
section
/-! DEFINITION. Token arrival, admission, the order queue, drains and the block watchdog (04 R112 to R114, 12 R330 to R340, 20 R480 to R483,
R488, R490, R491). -/

namespace Sys2Proof.Machine

/-! Withdrawn images (20 R488). -/

/-- Whether a warp of a core runs in a slot, or a token of the slot's image is left. -/
def slotBusy (s : State) (core slot : Nat) : Bool :=
  let c := getCore s core
  !(slotWarps s core slot 0 true).isEmpty
  || ((c.flight.map Prod.snd) ++ (c.store.map Prod.snd) ++ (c.gate.map Prod.snd)).any (fun t => decide (t.tag.islot = slot))

/-- A loop of a task is not asked for again: its placement has failed, or its image was withdrawn (12 R324). -/
def barLoop (s : State) (task : Nat) (branch : DWord) : State :=
  match getTask s task with
  | some t => if elemOf branch t.noCapture then s else setTask s task { t with noCapture := t.noCapture ++ [branch] }
  | none => s

/-- Withdraws an image: no warp enters it again, its loop counts as a failed placement, its block is barred, and its slot is freed once
nothing uses it. -/
def withdraw (s : State) (core slot : Nat) : State :=
  match imageAt s core slot with
  | none => s
  | some im =>
    let c := getCore s core
    let head := nthD im.heads 0 0
    let s1 := setCore s core { c with
      slots := Store.put c.slots slot { im with withdrawn := true }
      barred := if im.expl then c.barred ++ [(im.vd, im.kdesc, head)] else c.barred }
    let loops := c.monitor.filter (fun m => decide (m.head = head ∧ keyVd m.task = im.vd) && !im.expl)
    let s2 := (im.captured.toList ++ loops.map (fun m => (m.task, m.branch))).foldl (fun s e => barLoop s e.1 e.2) s1
    if slotBusy s2 core slot then s2 else freeSlot s2 core slot

/-- Frees the withdrawn slots of a core that nothing uses any longer, unless a `DRAIN.free` is about to. -/
def freeWithdrawn (s : State) (core : Nat) : State :=
  ((getCore s core).slots.filter (fun e => e.2.withdrawn && !slotBusy s core e.1)).foldl (fun s e => freeSlot s core e.1) s

/-- A record of a cause that a lattice warp raises at the place where it resumes, with its boundary (20 R490, R491). -/
def latticeFault (s : State) (k i slot : Nat) (tag : Tag) (f : FaultInfo) : State :=
  match (getTask s k).bind (fun t => getWarp t i) with
  | none => s
  | some w =>
    takeFault (modWarp s k i (fun w => { w with rebuilt := some (slot, tag, w.pc, w.pc + 8) })) k i { f with lanes := w.active }

/-- The lattice warps of a core. -/
def latticeWarps (s : State) (core : Nat) : List (Nat × Nat) :=
  s.tasks.flatMap (fun e => if e.2.core = some core then
      (List.range e.2.warps.length).filterMap (fun i => if ((getWarp e.2 i).bind (fun w => w.lat)).isSome then some (e.1, i) else none)
    else [])

/-! Arrival (12 R332, R333). -/

/-- A senior token that finds the overflow table full: every lattice warp of the core is purged, the image is withdrawn, and the senior
warp's task takes the record (20 R490). -/
def overflowFull (s : State) (core : Nat) (t : Token) : State :=
  match warpAtSlot s core t.tag.wslot with
  | none => s
  | some (k, i) =>
    match (getRun s k i).bind oldestIter with
    | none => s
    | some n =>
      let held := (getCore s core).store.filter (fun e => decide (e.1 = .overflow ∧ e.2.tag = n.tag ∧ e.2.level = n.level))
      let cell := match t.dest with
        | .slot node _ => cellOf node
        | .south _ _ => 0
      let ws := latticeWarps s core
      let s1 := ws.foldl (fun s e => purgeWarp s e.1 e.2 (decide (e = (k, i)))) s
      let s2 := latticeFault (withdraw s1 core t.tag.islot) k i t.tag.islot n.tag { cause := cOverflowTable, detail := cell, info := w64 held.length }
      (ws.map Prod.fst).dedup.foldl (fun s k => leftLattice s core k) s2

/-- A live-out token reaches its south port: its iteration holds it until it commits (12 R328, R336). -/
def arriveSouth (s : State) (core : Nat) (t : Token) (n sender : Nat) : State :=
  match warpAtSlot s core t.tag.wslot with
  | none => s
  | some (k, i) =>
    match getRun s k i with
    | none => s
    | some r =>
      if t.mask = 0 ∨ ignored r t.tag t.level then s
      else modRun (openIter s core k i t.level t.tag) k i (fun r =>
        modIter r t.level t.tag (fun it => { it with outs := it.outs ++ [liveOf sender n (valOfTok t)] }))

/-- Whether a drain drops a token that arrives at a context. -/
def droppedAt (s : State) (core node : Nat) (t : Token) : Bool :=
  match (warpAtSlot s core t.tag.wslot).bind (fun e => getRun s e.1 e.2), imageAt s core t.tag.islot with
  | some r, some im => (match r.drain with
    | some (_, n, level) => !t.mark && dropped im r n level node t
    | none => false)
  | _, _ => false

/-- Holds an arrived token. One that completes its context's operands takes no entry, and brings those in the overflow table back
(12 R332, R333). -/
def holdTok (s : State) (core : Nat) (p : HoldPlace) (t : Token) : State :=
  let c := getCore s core
  let same (x : Token) : Bool := decide (destNode x.dest = destNode t.dest ∧ x.tag = t.tag ∧ x.level = t.level)
  let back (e : HoldPlace × Token) : HoldPlace × Token := if e.1 = .overflow ∧ same e.2 then (.matched, e.2) else e
  let st := if completes s core t then c.store.map back else c.store
  setCore s core { c with store := st ++ [(p, t)] }

/-- A token in flight reaches its destination, after those that the same cell sent there before it (12 R327). -/
def execTokenArrival (core n : Nat) (s : State) : Host.Outcome State Fault Refusal :=
  let c := getCore s core
  match Store.find c.flight n with
  | none => .next s
  | some t0 =>
    if !firstOfPath s core n t0 then .next s
    else
      let t : Token := { t0 with arr := s.seq }
      let s1 := setCore { s with seq := s.seq + 1 } core { c with flight := c.flight.filter (fun e => decide (e.1 ≠ n)) }
      match t.dest with
      | .south p sender => .next (settleLat (if t.mark then s1 else arriveSouth s1 core t p sender) core t.tag.wslot)
      | .slot node _ =>
        if droppedAt s core node t then .next (settleLat s1 core t.tag.wslot)
        else match holdPlace s1 core t with
          | none => if isSenior s core t then .next (overflowFull s1 core t) else .next s
          | some p =>
            let s2 := holdTok s1 core p t
            if t.mark then .next (settleLat (forwardMark s2 core t.tag.wslot node false) core t.tag.wslot) else .next s2

/-! Admission (11 R317, 12 R330). -/

/-- Whether a `WADV` may send a token of an iteration: the iteration is live, or it is the next of its instance, lies within its warp's
live-tag limit and no token of the warp holds new iterations back (12 R330, R333). -/
def admits (lt : Nat) (held : Bool) (r : LatRun) (level : Nat) (tag : Tag) : Bool :=
  (iterAt r level tag).isSome || (!held && match instOf r level (parentOf level tag) with
    | none => true
    | some li => decide (BitVec.ofNat 16 li.admitted = tag.i) && decide (li.admitted - li.committed < lt))

/-- Sends one admitted token from the gate of a `WADV`, and keeps its head copy (20 R481). -/
def admitTok (s : State) (core node k i : Nat) (t : TForm) (x : Token) (key : Nat) : State :=
  let c := getCore s core
  let g := gateOut t.top.toNat
  let gl := x.level - g
  let gtag := tagOut g x.tag
  let s1 := setCore s core { c with gate := c.gate.filter (fun e => decide (e.1 ≠ key)) }
  let s2 := openIter s1 core k i gl gtag
  let s3 := if g = 0 then s2 else openIter s2 core k i x.level x.tag
  let s4 := modRun s3 k i (fun r => modIter r gl gtag (fun it => { it with heads := it.heads ++ [(node, liveOf node 0 (valOfTok x))] }))
  let s5 := sendBoth s4 core node t x.tag x.level (valOfTok x)
  setCore s5 core (claimSenior (getCore s5 core) x.tag.wslot)

/-- A `WADV` context admits the first of its waiting tokens that may go. -/
def execWadvAdmit (core : Nat) (x : CtxId) (s : State) : Host.Outcome State Fault Refusal :=
  let node := nodeOf x.cell x.ctx
  let c := getCore s core
  let ready : Option (Nat × Token × Nat × Nat × TForm) := firstSome (fun (e : Nat × Token) =>
    match e.2.dest, warpAtSlot s core e.2.tag.wslot, imageAt s core e.2.tag.islot with
    | .slot n _, some (k, i), some im =>
      match getTask s k, getRun s k i, Store.find im.nodes n with
      | some t, some r, some w =>
        let g := gateOut w.top.toNat
        if n = node ∧ admits (ltEff s core t) (heldBack c e.2.tag.wslot) r (e.2.level - g) (tagOut g e.2.tag) = true then
          some (e.1, e.2, k, i, w)
        else none
      | _, _, _ => none
    | _, _, _ => none) c.gate
  match ready with
  | none => .next s
  | some (key, t, k, i, w) => .next (settleLat (admitTok s core node k i w t key) core t.tag.wslot)

/-! Program order (04 R112, R114, 10 R286, 12 R336). -/

/-- The tokens that stand before the first that is missing. -/
def received (im : Image) : List (Option (Iter × Nat)) → List (Iter × MemTok)
  | some (it, n) :: t =>
    if (Store.find im.nodes n).any (fun x => decide (x.op = 0x300)) then received im t
    else match it.toks.find? (fun x => decide (x.node = n)) with
      | some x => (it, x) :: received im t
      | none => []
  | _ => []

/-- The reduction of a T-form word. -/
def redOp : Instr → Option (AtomOp × RAtom)
  | .redAdd f => some (.add, f) | .redMin f => some (.min, f) | .redMax f => some (.max, f)
  | .redAnd f => some (.and, f) | .redOr f => some (.or, f) | .redXor f => some (.xor, f)
  | .redFadd f => some (.fadd, f) | .redFmin f => some (.fmin, f) | .redFmax f => some (.fmax, f)
  | _ => none

/-- Whether one iteration is another, or encloses it. -/
def holdsIter (a b : Iter) : Bool := decide (a.level ≤ b.level) && decide (tagOut (b.level - a.level) b.tag = a.tag)

/-- A fence that orders what follows its iteration after the iteration's writes, `.sc`, or after its operations, `.dev` and `.sys`: it
completes once its iteration has committed (04 R114, R117). -/
def strongFence (t : MemTok) : Bool :=
  match tBase t.word with
  | some (.fence f) => decide (t.mask ≠ 0 ∧ (f.ann = .relaxed ∨ 3 ≤ f.scope.toNat))
  | _ => false

/-- The space of a reduction. -/
def redSpace (t : MemTok) : Option Space :=
  match (tBase t.word).bind redOp with
  | some (_, f) => some f.space
  | none => none

/-- The space that a load or a `GAROW` reads. -/
def loadSpace (t : MemTok) : Option Space :=
  match tBase t.word with
  | some (.ld f) => some f.space
  | some (.garow _) => some .die
  | _ => none

/-- Whether a load waits for an earlier token: for a strong fence's iteration, or for that of one of its lanes' reductions, whose value in
memory only its commit settles (log 36). -/
def waitsFor (e : Iter × MemTok) (b : Iter × MemTok) : Bool :=
  !holdsIter b.1 e.1 && (strongFence b.2
    || (!b.2.done && decide (b.2.mask &&& e.2.mask ≠ 0) && decide (redSpace b.2 = loadSpace e.2) && (redSpace b.2).isSome))

/-- The next load, fence or `GAROW` that the order queue may perform, with the tokens before it. -/
def nextLoad : List (Iter × MemTok) → List (Iter × MemTok) → Option (List (Iter × MemTok) × Iter × MemTok)
  | _, [] => none
  | before, e :: t =>
    if isLoad e.2.word && !e.2.done then (if before.any (waitsFor e) then none else some (before, e.1, e.2)) else nextLoad (before ++ [e]) t

/-- The next load of a warp, unless an access of it is held or a committed fence waits. -/
def loadDue (s : State) (core ws k : Nat) (im : Image) (r : LatRun) : Option (List (Iter × MemTok) × Iter × MemTok) :=
  if heldNow s k r || r.fence.isSome then none else nextLoad [] (received im (progOrder s core ws im r))

/-! Accesses. -/

/-- The address of a lane in a space (09 R267): a whole token for `.die`, the low word elsewhere. -/
def memAddr (sp : Space) (t : MemTok) (l : Nat) : Int :=
  match sp with
  | .die => (nthD t.addr l 0).toNat
  | _ => (lowWord (nthD t.addr l 0)).toNat

/-- The accesses of a memory token. -/
def memTokAccs (sp : Space) (n : Nat) (t : MemTok) : List Acc := (maskLanes t.mask).map (fun l => { lane := l, addr := memAddr sp t l, n := n })

/-- The bytes that a store token writes in a lane. The upper half of a `.b128` store is a value that the manual does not state (log 14). -/
def storeBytes (ty : Ty) (t : MemTok) (l : Nat) : Nat :=
  if ty = .b128 then (nthD t.data l 0).toNat + 2 ^ 64 * (Config.free (t.free + l)).toNat else (nthD t.data l 0).toNat % 2 ^ (8 * accBytes ty)

/-- A warp whose registers hold the operands of a buffered write: address at 0, data at 32. -/
def memWarp (w : Warp) (t : MemTok) : Warp :=
  putOperand 32 (fun l => nthD t.data l 0) (putOperand 0 (fun l => nthD t.addr l 0) { w with regs := [], lostRegs := [], active := t.mask })

/-- The `GARUN` of a T-form word: its record's address in slot a, and no completion future (10 R293). -/
def garunOf (f : RCopy) : RCopy := { f with d := .v 0, a := fireOpnd 0, b := .vz, c := .v 0, xsp := 0, fsp := 2 }

/-- The places of a token's accesses, where they pass their checks. -/
def tokPlaces (s : State) (c : Ctx) (sp : Space) (n : Nat) (t : MemTok) : List (Acc × Place) × State :=
  match checkAccess s c sp n 0 needW (memTokAccs sp n t) with
  | (.ok ps, s1) => (ps, s1)
  | (_, s1) => ([], s1)

/-- What performing a buffered write gives: the places that it wrote, with whether it stored them whole; or that it cannot be. -/
inductive WriteRes where
  | ok (l : List (Place × Nat × Bool)) (s : State)
  | wait
  | fault

/-- Performs one buffered write. -/
def performWrite (s : State) (c : Ctx) (t : MemTok) : WriteRes :=
  let c1 := { c with w := memWarp c.w t, g := t.mask }
  match tBase t.word with
  | some (.st f) =>
    let (ps, s1) := tokPlaces s c1 f.space (accBytes f.ty) t
    .ok (ps.map (fun e => (e.2, e.1.n, true))) (writeAll s1 c1 (storeBytes f.ty t) ps)
  | some (.garun f) => match bodyGarun (garunOf f) s c1 with
    | .done s1 => .ok [] s1
    | .fault _ _ => .fault
    | .state _ => .wait
    | _ => .ok [] s
  | some i => match redOp i with
    | some (op, f) =>
      let (ps, s1) := tokPlaces s c1 f.space (accBytes f.ty) t
      .ok (ps.map (fun e => (e.2, e.1.n, false))) (atomAll op { f with a := fireOpnd 0, b := fireOpnd 32, c := .v 0, d := .v 0 } c1 false ps s1)
    | none => .ok [] s
  | none => .ok [] s

/-- What a lane finds of its own earlier buffered writes: the places that they cover, and the state as they would leave it (04 R112). -/
def ownWrites (c : Ctx) (l : Nat) : List (Iter × MemTok) → List (Place × Nat × Bool) × State → List (Place × Nat × Bool) × State
  | [], x => x
  | e :: rest, x =>
    if !e.2.done && !isLoad e.2.word && inMask e.2.mask l && decide (e.2.word.op ≠ 0x342) then
      match performWrite x.2 c { e.2 with mask := laneMask l } with
      | .ok ps s1 => ownWrites c l rest (x.1 ++ ps, s1)
      | _ => ownWrites c l rest x
    else ownWrites c l rest x

/-- A byte of a place: its space and its number. -/
def placeByte : Place → Nat × Nat
  | .die pa => (0, pa)
  | .shared o => (1, o)
  | .const o => (2, o)
  | .spill a => (3, a)

/-- Whether one of a list of writes covers byte `j` of a place; `whole` asks for a store. -/
def covers (ws : List (Place × Nat × Bool)) (whole : Bool) (p : Place) (j : Nat) : Bool :=
  ws.any (fun e => (e.2.2 || !whole) && decide ((placeByte e.1).1 = (placeByte p).1 ∧ (placeByte e.1).2 ≤ (placeByte p).2 + j
    ∧ (placeByte p).2 + j < (placeByte e.1).2 + e.2.1))

/-- A value with the bytes that a lane's own writes cover taken from another. -/
def overlay (ws : List (Place × Nat × Bool)) (p : Place) (n v own : Nat) : Nat :=
  (List.range n).foldl (fun (x : Nat) (j : Nat) => x + (if covers ws false p j then own else v) / 2 ^ (8 * j) % 256 * 2 ^ (8 * j)) 0

/-- The value that a load sends in a lane; the manual states none for `.b128` (log 14). -/
def loadTok (t : MemTok) (ty : Ty) (v l : Nat) : DWord := if ty = .b128 then Config.free (t.free + l) else w64 (extendLoad ty v)

/-- Marks a memory token as performed. -/
def markDone (r : LatRun) (it : Iter) (t : MemTok) : LatRun :=
  modIter r it.level it.tag (fun x => { x with toks := x.toks.map (fun y => if y.node = t.node then { y with done := true } else y) })

/-- What follows a load, a fence or a `GAROW` that is performed: a marker at its context goes on (12 R338). -/
def afterLoad (s : State) (c : Ctx) (ws node : Nat) : State := settleLat (forwardMark s c.core ws node false) c.core ws

/-- Notes the page requests on which an access of an iteration is held (19 R459, 20 R480). -/
def holdRun (s : State) (k i : Nat) (it : Iter) (tags : List Nat) : State :=
  modRun s k i (fun r => { r with held := r.held ++ tags.map (fun g => (g, it.tag, it.level)) })

/-- Issues a load (12 R336): each lane takes the bytes of its own earlier buffered writes from them and the others from memory; a fault
drains to its iteration, and a held access keeps it. -/
def issueLoad (s : State) (c : Ctx) (ws : Nat) (before : List (Iter × MemTok)) (it : Iter) (t : MemTok) (f : RMem) : State :=
  let accs := memTokAccs f.space (accBytes f.ty) t
  match checkAccess s c f.space (accBytes f.ty) 0 needR accs with
  | (.fault _, s1) => startDrain s1 c.k c.i c.core .fault it.tag it.level
  | (.held (.page tags _), s1) => holdRun s1 c.k c.i it tags
  | (.held _, s1) => s1
  | (.ok ps, s1) =>
    let own (e : Acc × Place) := ownWrites c e.1.lane before ([], s1)
    let need := ps.filter (fun e => !(List.range e.1.n).all (fun (j : Nat) => covers (own e).1 true e.2 j))
    if lostAccs s1 c f.scope.toNat need ≠ [] then startDrain s1 c.k c.i c.core .fault it.tag it.level
    else
      let (vals, s2) := readAll s1 c f.scope.toNat need
      let v (e : Acc × Place) : Nat := ((vals.find? (fun x => decide (x.1 = e.1.lane))).map Prod.snd).getD 0
      let out (e : Acc × Place) : Nat := overlay (own e).1 e.2 e.1.n (v e) (readPlace (own e).2 c 3 e.1.n e.1.lane e.2).1
      let lanes := ps.map (fun e => (e.1.lane, out e))
      let lane (l : Nat) : DWord := loadTok t f.ty (((lanes.find? (fun x => decide (x.1 = l))).map Prod.snd).getD 0) l
      let s3 := modRun (acquireAt s2 c f.space (annAcq f.ann) f.scope.toNat) c.k c.i (fun r => markDone r it t)
      let (tag, lv) := topApply t.word.top.toNat it.tag it.level
      afterLoad (sendBoth s3 c.core t.node t.word tag lv (mkVal (decide (2 ≤ accRegs f.ty)) t.mask lane)) c ws t.node

/-- A fence in its turn: one that acquires takes effect, and a strong one waits for its iteration (04 R114, R117). -/
def issueFence (s : State) (c : Ctx) (ws : Nat) (it : Iter) (t : MemTok) (f : RAtom) : State :=
  let s1 := if strongFence t then s else acquire s c (decide (f.ann ≠ .rel)) f.scope.toNat
  afterLoad (modRun s1 c.k c.i (fun r => markDone r it t)) c ws t.node

/-- Completes the fence of a committed iteration once the warp's operations that it waits for have ended (04 R114, R117). -/
def settleFence (s : State) (c : Ctx) : State :=
  match getRun s c.k c.i with
  | some r => (match r.fence with
    | some scope =>
      if 3 ≤ scope ∧ opsOut s c.k c.i then s
      else modRun (acquire s c true scope) c.k c.i (fun r => { r with fence := none })
    | none => s)
  | none => s

/-- The order queue issues a warp's next load, or completes a committed fence. The rows of a `GAROW` are the GAE's. -/
def execOrderQueueLoadIssue (x : WarpAt) (s : State) : Host.Outcome State Fault Refusal :=
  match warpAtSlot s x.core x.wslot with
  | none => .next s
  | some (k, i) =>
    match getRun s k i, warpCtx s k i with
    | some r, some c =>
      if r.fence.isSome then .next (settleLat (settleFence s c) x.core x.wslot)
      else match imageAt s x.core r.slot with
      | none => .next s
      | some im => match loadDue s x.core x.wslot k im r with
        | none => .next s
        | some (before, it, t) => match tBase t.word with
          | some (.ld f) => .next (issueLoad s { c with g := t.mask } x.wslot before it t f)
          | some (.fence f) => .next (issueFence s { c with g := t.mask } x.wslot it t f)
          | _ => .next s
    | _, _ => .next s

/-! The rows of `GAROW` contexts (10 R286, R290, R293). -/

/-- What a `GAROW` context's entry of the GAE queue may run now: its warp, its run and image, its token with those before it. -/
def rowDue (s : State) (core : Nat) (o : GaeOp) : Option (Ctx × Image × List (Iter × MemTok) × Iter × MemTok) :=
  match o.kind, warpCtx s o.task o.warp, getRun s o.task o.warp with
  | .lrow node level tag _ _, some c, some r => match imageAt s core r.slot with
    | some im => match loadDue s core tag.wslot o.task im r with
      | some (before, it, t) => if t.node = node ∧ it.level = level ∧ it.tag = tag then some ({ c with g := t.mask }, im, before, it, t) else none
      | none => none
    | none => none
  | _, _, _ => none

/-- The end of a `GAROW` context: its results go to its targets, unless an enabled check selects one (08 R230). -/
def rowDone (s : State) (core q : Nat) (o : GaeOp) (c : Ctx) (it : Iter) (t : MemTok) (outs : List (Nat × List Nat)) : State :=
  let s1 := wakeCopies (delGae s core q)
  let lane (l : Nat) : List Nat := ((outs.find? (fun e => decide (e.1 = l))).map Prod.snd).getD []
  match nonfiniteFault t.mask (fun l => listSel fp32 (lane l) &&& mxeMask c.w) with
  | some _ => startDrain s1 c.k c.i core .fault it.tag it.level
  | none =>
    let s2 := modRun (countRows s1 c.k (popCount t.mask)) c.k c.i (fun r => markDone r it t)
    afterLoad (sendRow s2 core t.node t.word it.tag it.level (gaeNact o.ctx) t.mask outs) c it.tag.wslot t.node

/-- Runs the next row of a `GAROW` context. A lane's row reads its own earlier buffered writes (04 R112); where only they change what it
meets, its iteration drains as for a fault. -/
def lrowStep (s : State) (core q : Nat) (o : GaeOp) (lanes : List (Nat × DWord)) (outs : List (Nat × List Nat)) : State :=
  match rowDue s core o with
  | none => s
  | some (c, _, before, it, t) =>
    match lanes.drop o.progress with
    | [] => rowDone s core q o c it t outs
    | (l, a) :: rest =>
      let bad (s : State) : State := startDrain (wakeCopies (delGae s core q)) c.k c.i core .fault it.tag it.level
      let own := ownWrites c l before ([], s)
      match laneRow c o.ctx o.book l a s with
      | (.error (.held (.page tags _)), s1) => holdRun s1 c.k c.i it tags
      | (.error (.held _), s1) => s1
      | (x, s1) =>
        match if own.1.isEmpty then x else (laneRow c o.ctx o.book l a own.2).1 with
        | .ok vs =>
          let outs1 := outs ++ [(l, vs)]
          if rest = [] then rowDone s1 core q o c it t outs1
          else match o.kind with
            | .lrow n lv tag ls _ => setGae s1 core q { o with progress := o.progress + 1, kind := .lrow n lv tag ls outs1 }
            | _ => s1
        | .error _ => bad s1

/-- Whether an entry of the GAE queue has a row that may run: that of a lattice warp in its threads' program order. -/
def rowTurn (s : State) (core : Nat) (o : GaeOp) : Bool :=
  match o.kind with
  | .lrow _ _ _ _ _ => (rowDue s core o).isSome
  | _ => true

/-- The entry that the GAE serves next: round the queue by age, after the one served last (R290). -/
def gaeNext (s : State) (core : Nat) : Option (Nat × GaeOp) :=
  let c := getCore s core
  let l := c.gaeq.filter (fun e => gaeReady s e.2 && rowTurn s core e.2)
  match minBy (fun e => e.2.seq) (l.filter (fun e => decide (c.gaeTurn ≤ e.2.seq))) with
  | some e => some e
  | none => minBy (fun e => e.2.seq) l

/-- One row of the core's GAE. -/
def execGaeRow (core : Nat) (s : State) : Host.Outcome State Fault Refusal :=
  match gaeNext s core with
  | none => .next s
  | some (q, o) =>
    let s1 := setCore s core { getCore s core with gaeTurn := o.seq + 1 }
    match o.kind with
    | .row d lanes => .next (garowStep s1 core q o d lanes)
    | .run nrow osp out ostr => .next (runStep s1 core q o nrow osp out ostr)
    | .lrow _ _ _ lanes outs => .next (lrowStep s1 core q o lanes outs)

/-! Commit (04 R113, 12 R336, 20 R480). -/

/-- What the checks of a buffered write give. -/
inductive WriteBar where
  | ok
  | wait
  | held (tags : List Nat)
  | fault
  deriving DecidableEq, Repr

/-- The checks of a list of accesses. -/
def accBar (s : State) (c : Ctx) (sp : Space) (n : Nat) (t : MemTok) (red : Bool) : WriteBar × State :=
  match checkAccess s c sp n 0 needW (memTokAccs sp n t) with
  | (.fault _, s1) => (.fault, s1)
  | (.held (.page tags _), s1) => (.held tags, s1)
  | (.held _, s1) => (.wait, s1)
  | (.ok ps, s1) => (if red && !(lostAccs s1 c 2 ps).isEmpty then .fault else .ok, s1)

/-- The stage 5 checks of one buffered write: of a `GARUN`, those of the reads of its record. -/
def writeBar (s : State) (c : Ctx) (t : MemTok) : WriteBar × State :=
  let c1 := { c with w := memWarp c.w t, g := t.mask }
  match tBase t.word with
  | some (.st f) => accBar s c1 f.space (accBytes f.ty) t false
  | some (.garun _) =>
    let l := lane0 c1.g
    match checkAccess s c1 .die 16 2 needR (recordAccs .die (laneAddr c1.w .die (fireOpnd 0) 0 l) 16 l) with
    | (.fault _, s1) => (.fault, s1)
    | (.held (.page tags _), s1) => (.held tags, s1)
    | (.held _, s1) => (.wait, s1)
    | (.ok ps, s1) => (if (lostAccs s1 c1 0 ps).isEmpty then .ok else .fault, s1)
  | some i => match redOp i with
    | some (_, f) => accBar s c1 f.space (accBytes f.ty) t true
    | none => (.ok, s)
  | none => (.ok, s)

/-- The checks of a list of writes, until one bars: the iteration that it names. -/
def writeBars (c : Ctx) : List (Iter × MemTok) → State → (WriteBar × Option Iter) × State
  | [], s => ((.ok, none), s)
  | (it, t) :: rest, s =>
    match writeBar s c t with
    | (.ok, s1) => writeBars c rest s1
    | (b, s1) => ((b, some it), s1)

/-- Performs a list of writes in order, until one cannot be: the iteration that it names. -/
def writeEach (c : Ctx) : List (Iter × MemTok) → State → Except (WriteBar × Iter) State
  | [], s => .ok s
  | (it, t) :: rest, s =>
    match performWrite s c t with
    | .ok _ s1 => writeEach c rest s1
    | .fault => .error (.fault, it)
    | .wait => .error (.wait, it)

/-- Performs the writes of a commit once all of them have passed their checks, or none of them (20 R480): what bars them drains to its
iteration or holds. A `GARUN` needs an entry of the GAE queue (10 R290). -/
def writeOrBar (s : State) (c : Ctx) (ws : List (Iter × MemTok)) : Except State State :=
  let bar (s : State) (b : WriteBar) (it : Iter) : State :=
    match b with
    | .fault => startDrain s c.k c.i c.core .fault it.tag it.level
    | .held tags => holdRun s c.k c.i it tags
    | _ => s
  let runs := ws.countP (fun e => decide (e.2.word.op = 0x342 ∧ e.2.mask ≠ 0))
  match writeBars c ws s with
  | ((.ok, _), s1) =>
    if 32 < (getCore s1 c.core).gaeq.length + runs ∧ runs ≠ 0 then .error s1
    else match writeEach c ws s1 with
      | .ok s2 => .ok s2
      | .error (b, it) => .error (bar s1 b it)
  | ((b, some it), s1) => .error (bar s1 b it)
  | ((_, none), s1) => .error s1

/-- The writes of an iteration that are still to be performed, in program order: those before its inner loops, or all. -/
def pendingWrites (im : Image) (it : Iter) (early : Bool) : List (Iter × MemTok) :=
  (sortBy (fun t => t.seq) (it.toks.filter (fun t => !t.done && !isLoad t.word && (!early || beforeInner im it.level t)))).map (fun t => (it, t))

/-- Whether an iteration's tokens have all been received, and its loads and rows performed: those before its inner loops, or all. -/
def memReady (im : Image) (it : Iter) (early : Bool) : Bool :=
  let l := levelNodes im it.level
  (l.1 ++ (if early then [] else l.2)).all (fun n => (Store.find im.nodes n).any (fun x => decide (x.op = 0x300))
    || it.toks.any (fun t => decide (t.node = n) && (t.done || !isLoad t.word)))

/-- Whether nothing before its inner loops is left of an iteration: no token of it stands at or is on its way to a context before them,
its accesses are ready, and its `MMA` contexts have fired. -/
def earlyDone (s : State) (core ws : Nat) (im : Image) (it : Iter) : Bool :=
  memReady im it true
  && !(coreTokens (getCore s core) ws).any (fun t => !t.mark && decide (t.level = it.level ∧ t.tag = it.tag) && (match t.dest with
    | .slot node _ => !elemOf node im.afterPop
    | .south _ sender => !elemOf sender im.afterPop))

/-- Whether no token of an iteration, or of an instance inside it, is left; an inner iteration waits until every `TAGPSH` has sent into
its instance (12 R336, log 11). -/
def quiescent (s : State) (core ws : Nat) (im : Image) (r : LatRun) (it : Iter) : Bool :=
  !(coreTokens (getCore s core) ws).any (fun t => !t.mark && within t it.tag it.level)
  && !r.gathered.any (fun g => decide (it.level ≤ g.2.1) && decide (tagOut (g.2.1 - it.level) g.2.2.1 = it.tag))
  && !r.iters.any (fun x => decide (it.level < x.level) && decide (tagOut (x.level - it.level) x.tag = it.tag))
  && (decide (it.level = 0) || (match instOf r it.level (tagPop it.tag) with
      | some li => (pushNodes im (it.level - 1)).all (fun n => elemOf n li.pushed)
      | none => true))

/-- What a commit writes: the accesses of the iterations around it that stand before the inner loop, then its own. -/
def commitWrites (im : Image) (r : LatRun) (it : Iter) : List (Iter × MemTok) :=
  (outerIters r it.tag it.level).flatMap (fun o => pendingWrites im o true) ++ pendingWrites im it false

/-- The run after what stands before the inner loops of some iterations has been performed. -/
def takeEarly (im : Image) (outer : List Iter) (r : LatRun) : LatRun :=
  outer.foldl (fun r o => (pendingWrites im o true).foldl (fun r e => markDone r e.1 e.2) (modIter r o.level o.tag (firedTaken im))) r

/-- The run after a commit: the iteration and what was opened within it are gone. A strong fence of it is still to complete. -/
def commitRun (im : Image) (r : LatRun) (it : Iter) : LatRun :=
  let r1 := modInst r it.level (parentOf it.level it.tag) (fun li => { li with committed := li.committed + 1 })
  let inside (lv : Nat) (t : Tag) : Bool := decide (it.level < lv) && decide (tagOut (lv - it.level) t = it.tag)
  let scope (t : MemTok) : Nat := match tBase t.word with
    | some (.fence f) => f.scope.toNat
    | _ => 0
  { r1 with
    iters := r1.iters.filter (fun x => !decide (x.level = it.level ∧ x.tag = it.tag))
    levels := r1.levels.filter (fun li => !(decide (it.level < li.level) && decide (tagOut (li.level - 1 - it.level) li.parent = it.tag)))
    popped := r1.popped.filter (fun g => !(decide (it.level ≤ g.2.1) && decide (tagOut (g.2.1 - it.level) g.2.2.1 = it.tag)))
    exits := (if im.expl then r1.exits else r1.exits.filter (fun e => !inside e.level e.tag)) ++ it.exits
    fence := if it.toks.any strongFence then some ((it.toks.filter strongFence).foldl (fun n t => Nat.max n (scope t)) 0) else r1.fence }

/-- Commits an iteration whose writes have been performed. -/
def commitIter (s : State) (c : Ctx) (ws : Nat) (im : Image) (r : LatRun) (it : Iter) : State :=
  let outer := outerIters r it.tag it.level
  let s1 := modRun s c.k c.i (fun r => commitRun im (takeEarly im outer r) it)
  let l := levelNodes im it.level
  let s2 := modWarp s1 c.k c.i (fun w =>
    let w1 := outer.foldl (fun w o => takeFired o (levelNodes im o.level).1 w) w
    { it.outs.foldl (writeOut im) (takeFired it (l.1 ++ l.2) w1) with iters := w.iters + 1 })
  let core := getCore s2 c.core
  let s3 := if core.senior = some ws ∨ core.senior = none then passOn s2 c.core ws else s2
  settleLat (settleFence s3 c) c.core ws

/-- Whether the drain of a run stands before an iteration: it then does not commit. -/
def beyondDrain (r : LatRun) (it : Iter) : Bool :=
  match r.drain with
  | some (_, n, lv) => atOrAfter r n lv it.tag it.level || encloses n lv it.tag it.level
  | none => false

/-- The order queue commits a warp's oldest iteration (12 R336), with what stands before the inner loop in the iterations around it. -/
def execIterationCommit (x : WarpAt) (s : State) : Host.Outcome State Fault Refusal :=
  match warpAtSlot s x.core x.wslot with
  | none => .next s
  | some (k, i) =>
    match getRun s k i, warpCtx s k i with
    | some r, some c =>
      match imageAt s x.core r.slot, oldestIter r with
      | some im, some it =>
        if !beyondDrain r it && quiescent s x.core x.wslot im r it && memReady im it false && !heldNow s k r && r.fence.isNone
            && (outerIters r it.tag it.level).all (earlyDone s x.core x.wslot im) then
          match writeOrBar s c (commitWrites im r it) with
          | .ok s1 => .next (commitIter s1 c x.wslot im r it)
          | .error s1 => .next s1
        else .next s
      | _, _ => .next s
    | _, _ => .next s

/-! Drains and the watchdog. -/

/-- A drain completes when its marker has left every sink, everything before the boundary has committed, and what stands before the inner
loop in the iterations around it is done and performed (12 R338). -/
def execDrainComplete (x : WarpAt) (s : State) : Host.Outcome State Fault Refusal :=
  match warpAtSlot s x.core x.wslot with
  | none => .next s
  | some (k, i) =>
    match getRun s k i, warpCtx s k i with
    | some r, some c =>
      match imageAt s x.core r.slot, r.drain with
      | some im, some (why, n, level) =>
        let outer := outerIters r n level
        let older := r.iters.any (fun it => !beyondDrain r it)
        if marksGone (getCore s x.core) x.wslot && !older && !heldNow s k r && r.fence.isNone && outer.all (earlyDone s x.core x.wslot im) then
          match writeOrBar s c (outer.flatMap (fun o => pendingWrites im o true)) with
          | .ok s1 =>
            let s2 := leaveLattice s1 k i (fun w =>
              drainedWarp im r (decide (why = .fault)) n level (outer.foldl (fun w o => takeFired o (levelNodes im o.level).1 w) w))
            .next (freeWithdrawn (leftLattice s2 x.core k) x.core)
          | .error s1 => .next s1
        else .next s
      | _, _ => .next s
    | _, _ => .next s

/-- Core clocks at which the block watchdog expires (20 R491). -/
def watchdogLimit : Nat := 1048576

/-- Whether a warp's watchdog counts: it has a token, no firing is due, and no access is outstanding (20 R491). -/
def watchdogRuns (s : State) (core ws : Nat) (k : Nat) (r : LatRun) : Bool :=
  !(coreTokens (getCore s core) ws).isEmpty && !heldNow s k r
  && !r.iters.any (fun it => it.toks.any (fun t => isLoad t.word && !t.done))

/-- The block watchdog of a warp expires (20 R491). -/
def execLatticeWatchdog (x : WarpAt) (s : State) : Host.Outcome State Fault Refusal :=
  match warpAtSlot s x.core x.wslot with
  | none => .next s
  | some (k, i) =>
    match getRun s k i with
    | none => .next s
    | some r =>
      if watchdogLimit ≤ r.watchdog then
        let cells := (getCore s x.core).store.filterMap (fun e => match e.2.dest with
          | .slot n _ => if tokOf x.wslot e.2 then some (cellOf n) else none
          | .south _ _ => none)
        let cell := cells.foldl Nat.min 63
        let tag := match oldestIter r with
          | some n => n.tag
          | none => { wslot := x.wslot, islot := r.slot, o := 0, m := 0, i := 0 }
        let s1 := withdraw (purgeWarp s k i true) x.core r.slot
        let s2 := latticeFault s1 k i r.slot tag { cause := cWatchdog, detail := cell + r.iters.length % 256 * 2 ^ 8 }
        .next (freeWithdrawn (leftLattice s2 x.core k) x.core)
      else .next s

end Sys2Proof.Machine
end

