-- ==== Sys2Proof/Machine/Sha.lean ====
section
/-! DEFINITION. The SHA-512 digest that 12 R352 and 14 R407 name, as its public standard defines it (log 15). -/

namespace Sys2Proof.Machine

/-- The initial hash value: the first 64 bits of the fractional parts of the square roots of the first 8 primes. -/
def shaInit : List DWord :=
  [
    0x6A09E667F3BCC908, 0xBB67AE8584CAA73B, 0x3C6EF372FE94F82B, 0xA54FF53A5F1D36F1,
    0x510E527FADE682D1, 0x9B05688C2B3E6C1F, 0x1F83D9ABFB41BD6B, 0x5BE0CD19137E2179]

/-- The round constants: the first 64 bits of the fractional parts of the cube roots of the first 80 primes, in four parts. -/
def shaK0 : List DWord :=
  [
    0x428A2F98D728AE22, 0x7137449123EF65CD, 0xB5C0FBCFEC4D3B2F, 0xE9B5DBA58189DBBC,
    0x3956C25BF348B538, 0x59F111F1B605D019, 0x923F82A4AF194F9B, 0xAB1C5ED5DA6D8118,
    0xD807AA98A3030242, 0x12835B0145706FBE, 0x243185BE4EE4B28C, 0x550C7DC3D5FFB4E2,
    0x72BE5D74F27B896F, 0x80DEB1FE3B1696B1, 0x9BDC06A725C71235, 0xC19BF174CF692694,
    0xE49B69C19EF14AD2, 0xEFBE4786384F25E3, 0x0FC19DC68B8CD5B5, 0x240CA1CC77AC9C65]
def shaK1 : List DWord :=
  [
    0x2DE92C6F592B0275, 0x4A7484AA6EA6E483, 0x5CB0A9DCBD41FBD4, 0x76F988DA831153B5,
    0x983E5152EE66DFAB, 0xA831C66D2DB43210, 0xB00327C898FB213F, 0xBF597FC7BEEF0EE4,
    0xC6E00BF33DA88FC2, 0xD5A79147930AA725, 0x06CA6351E003826F, 0x142929670A0E6E70,
    0x27B70A8546D22FFC, 0x2E1B21385C26C926, 0x4D2C6DFC5AC42AED, 0x53380D139D95B3DF,
    0x650A73548BAF63DE, 0x766A0ABB3C77B2A8, 0x81C2C92E47EDAEE6, 0x92722C851482353B]
def shaK2 : List DWord :=
  [
    0xA2BFE8A14CF10364, 0xA81A664BBC423001, 0xC24B8B70D0F89791, 0xC76C51A30654BE30,
    0xD192E819D6EF5218, 0xD69906245565A910, 0xF40E35855771202A, 0x106AA07032BBD1B8,
    0x19A4C116B8D2D0C8, 0x1E376C085141AB53, 0x2748774CDF8EEB99, 0x34B0BCB5E19B48A8,
    0x391C0CB3C5C95A63, 0x4ED8AA4AE3418ACB, 0x5B9CCA4F7763E373, 0x682E6FF3D6B2B8A3,
    0x748F82EE5DEFB2FC, 0x78A5636F43172F60, 0x84C87814A1F0AB72, 0x8CC702081A6439EC]
def shaK3 : List DWord :=
  [
    0x90BEFFFA23631E28, 0xA4506CEBDE82BDE9, 0xBEF9A3F7B2C67915, 0xC67178F2E372532B,
    0xCA273ECEEA26619C, 0xD186B8C721C0C207, 0xEADA7DD6CDE0EB1E, 0xF57D4F7FEE6ED178,
    0x06F067AA72176FBA, 0x0A637DC5A2C898A6, 0x113F9804BEF90DAE, 0x1B710B35131C471B,
    0x28DB77F523047D84, 0x32CAAB7B40C72493, 0x3C9EBE0A15C9BEBC, 0x431D67C49C100D4C,
    0x4CC5D4BECB3E42B6, 0x597F299CFC657E2A, 0x5FCB6FAB3AD6FAEC, 0x6C44198C4A475817]
def shaK : List DWord := shaK0 ++ shaK1 ++ shaK2 ++ shaK3

def rotr (x : DWord) (n : Nat) : DWord := x.rotateRight n
def shaS0 (x : DWord) : DWord := rotr x 1 ^^^ rotr x 8 ^^^ (x >>> 7)
def shaS1 (x : DWord) : DWord := rotr x 19 ^^^ rotr x 61 ^^^ (x >>> 6)
def shaE0 (x : DWord) : DWord := rotr x 28 ^^^ rotr x 34 ^^^ rotr x 39
def shaE1 (x : DWord) : DWord := rotr x 14 ^^^ rotr x 18 ^^^ rotr x 41
def shaCh (x y z : DWord) : DWord := (x &&& y) ^^^ (~~~x &&& z)
def shaMaj (x y z : DWord) : DWord := (x &&& y) ^^^ (x &&& z) ^^^ (y &&& z)

/-- A big-endian 64-bit word of a list of bytes. -/
def beWord (l : List Byte) : DWord := l.foldl (fun w b => (w <<< 8) ||| b.zeroExtend 64) 0
def beBytes (w : DWord) : List Byte := (List.range 8).map (fun i => w.extractLsb' (56 - 8 * i) 8)

/-- The bytes of a list in blocks of `n`, at most `fuel` of them. -/
def blocksOf (n : Nat) : Nat → List Byte → List (List Byte)
  | 0, _ => []
  | fuel + 1, l => if l.isEmpty then [] else l.take n :: blocksOf n fuel (l.drop n)

/-- The message schedule: words newest first, extended `n` times. -/
def shaSchedule : Nat → List DWord → List DWord
  | 0, l => l
  | n + 1, l =>
    shaSchedule n ((shaS1 (nthD l 1 0) + nthD l 6 0 + shaS0 (nthD l 14 0) + nthD l 15 0) :: l)

/-- One round on the eight working variables. -/
def shaRound (v : List DWord) (k w : DWord) : List DWord :=
  match v with
  | [a, b, c, d, e, f, g, h] =>
    let t1 := h + shaE1 e + shaCh e f g + k + w
    let t2 := shaE0 a + shaMaj a b c
    [t1 + t2, a, b, c, d + t1, e, f, g]
  | v => v

/-- The compression of one block of 128 bytes. -/
def shaBlock (hash : List DWord) (block : List Byte) : List DWord :=
  let ws := (shaSchedule 64 ((blocksOf 8 16 block).map beWord).reverse).reverse
  let v := (shaK.zip ws).foldl (fun v e => shaRound v e.1 e.2) hash
  List.zipWith (· + ·) hash v

/-- The message with its padding: a one bit, zeros, and the length in bits as 128 bits. -/
def shaPad (msg : List Byte) : List Byte :=
  let n := msg.length
  msg ++ [0x80] ++ List.replicate ((239 - n % 128) % 128) 0 ++ beBytes (BitVec.ofNat 64 (8 * n / 2 ^ 64)) ++ beBytes (BitVec.ofNat 64 (8 * n))

/-- The 64 bytes of the SHA-512 digest of a message. -/
def sha512 (msg : List Byte) : List Byte :=
  let p := shaPad msg
  ((blocksOf 128 (p.length / 128) p).foldl shaBlock shaInit).flatMap beBytes

end Sys2Proof.Machine
end

