-- ==== Sys2Proof/Machine/JigImage.lean ====
section
/-! DEFINITION. Jig images: reading and checking their bytes, moving them to an origin, fitting and installing them, and writing them
(12 R344, R348 to R353, 20 R489). An image stands at origin 0 until it is placed; footprint cell 8 × row + column is then its grid cell. -/

namespace Sys2Proof.Machine

/-! Bytes. -/

/-- A list of bytes as a little-endian number. -/
def leNat (l : List Byte) : Nat := l.foldr (fun b n => b.toNat + 256 * n) 0
/-- The 64-bit and 32-bit words of an image at an offset. -/
def jig64 (b : List Byte) (o : Nat) : DWord := w64 (leNat ((b.drop o).take 8))
def jig32 (b : List Byte) (o : Nat) : Nat := leNat ((b.drop o).take 4)
/-- The little-endian bytes of a 4-byte entry. -/
def bytes4 (x : Nat) : List Byte := (List.range 4).map (fun i => BitVec.ofNat 8 (x / 2 ^ (8 * i)))
/-- Bytes of a list of `n` 4-byte entries, padded to a multiple of 8. -/
def list4Len (n : Nat) : Nat := roundUp (4 * n) 8

/-! The header (R349). -/

structure JigHdr where
  nrect : Nat
  npat : Nat
  fh : Nat
  fw : Nat
  expl : Bool
  drn : Bool
  tdepth : Nat
  ifmt : Nat
  encv : Nat
  magic : Nat
  nout : Nat
  ncar : Nat
  nin : Nat
  nmem : Nat
  len : Nat
  ndw : Nat
  ddepth : Nat
  nxd : Nat
  deriving DecidableEq, Repr

def jigHdr (b : List Byte) : JigHdr :=
  let w0 := (jig64 b 0).toNat
  let w1 := (jig64 b 8).toNat
  let w2 := (jig64 b 0x10).toNat
  { nrect := bitsOf w0 54 48, npat := bitsOf w0 46 40, fh := bitsOf w0 37 35, fw := bitsOf w0 34 32, expl := bitOf w0 27, drn := bitOf w0 26,
    tdepth := bitsOf w0 25 24, ifmt := bitsOf w0 23 20, encv := bitsOf w0 19 16, magic := bitsOf w0 15 0,
    nout := bitsOf w1 62 56, ncar := bitsOf w1 54 48, nin := bitsOf w1 46 40, nmem := bitsOf w1 37 32, len := bitsOf w1 31 0,
    ndw := bitsOf w2 37 32, ddepth := bitsOf w2 14 8, nxd := bitsOf w2 3 0 }

/-- Offsets of the parts of an image (R348). -/
def patAt (_h : JigHdr) : Nat := 128
def rectAt (h : JigHdr) : Nat := patAt h + 72 * h.npat
def exitAt (h : JigHdr) : Nat := rectAt h + list4Len h.nrect
def seqAt (h : JigHdr) : Nat := exitAt h + 8 * (h.nxd + 1)
def inAt (h : JigHdr) : Nat := seqAt h + list4Len h.nmem
def carAt (h : JigHdr) : Nat := inAt h + list4Len h.nin
def outAt (h : JigHdr) : Nat := carAt h + list4Len h.ncar
def drainAt (h : JigHdr) : Nat := outAt h + list4Len h.nout

/-- The carried entries of an image, and whether each names a pair. -/
def carEntry (b : List Byte) (h : JigHdr) (i : Nat) : Nat := jig32 b (carAt h + 4 * i)
def carBytes (b : List Byte) (h : JigHdr) : Nat :=
  ((List.range h.ncar).map (fun i => 8 + (if bitOf (carEntry b h i) 8 then 256 else 128))).foldl (· + ·) 0

/-- Where `n` warp records that begin at an offset end (R351). -/
def drainEnd (b : List Byte) (per : Nat) : Nat → Nat → Nat
  | 0, o => o
  | n + 1, o => drainEnd b per n (o + 32 + per + 8 * bitsOf (jig64 b (o + 24)).toNat 63 32)

/-- Where the parts of an image end. -/
def partsEnd (b : List Byte) (h : JigHdr) : Nat := drainEnd b (carBytes b h) (if h.drn then h.ndw else 0) (drainAt h)

/-! Checks, in the order of R352. -/

/-- The reason of a header that fails: MAGIC, IFMT, ENCV or LEN (R441, R451). -/
def headBad (ver : Nat) (h : JigHdr) : Option Nat :=
  if h.magic ≠ 0x4A47 then some 1
  else if h.ifmt ≠ 1 then some 2
  else if !encvOk h.encv || decide (ver < h.encv) then some 3
  else if h.len % 64 ≠ 0 ∨ h.len < 192 then some 7
  else none

/-- The check block of a body (R352). -/
def checkBlock (body : List Byte) : List Byte := (sha512 body).take 32 ++ List.replicate 32 0

/-- Whether the counts are in range and the parts they give fill the image. -/
def countsOk (b : List Byte) (h : JigHdr) : Bool :=
  decide (1 ≤ h.nrect ∧ h.nrect ≤ 64 ∧ 1 ≤ h.npat ∧ h.npat ≤ 64 ∧ h.nmem ≤ 32) && (h.drn == decide (h.ndw ≠ 0))
  && decide (roundUp (partsEnd b h) 64 + 64 = h.len)

/-- A rectangle: its pattern, and its first and last column and row. -/
structure Rect where
  pat : Nat
  c0 : Nat
  c1 : Nat
  r0 : Nat
  r1 : Nat
  deriving DecidableEq, Repr

def rectOf (e : Nat) : Rect :=
  let c0 := bitsOf e 8 6
  let r0 := bitsOf e 11 9
  { pat := bitsOf e 31 26, c0 := c0, c1 := c0 + bitsOf e 14 12, r0 := r0, r1 := r0 + bitsOf e 17 15 }

def rectsOf (b : List Byte) (h : JigHdr) : List Rect := (List.range h.nrect).map (fun i => rectOf (jig32 b (rectAt h + 4 * i)))

def rectMeets (x y : Rect) : Bool := decide (x.c0 ≤ y.c1 ∧ y.c0 ≤ x.c1 ∧ x.r0 ≤ y.r1 ∧ y.r0 ≤ x.r1)

/-- Control word and context word `k` of a pattern. -/
def patCtl (b : List Byte) (i : Nat) : DWord := jig64 b (128 + 72 * i)
def patWord (b : List Byte) (i k : Nat) : DWord := jig64 b (128 + 72 * i + 8 + 8 * k)

/-- The contexts that an image holds, at origin 0. -/
def jigNodes (b : List Byte) (h : JigHdr) : List (Nat × TForm) :=
  (rectsOf b h).foldl (fun acc r =>
    (List.range (r.r1 + 1 - r.r0)).foldl (fun acc dr => (List.range (r.c1 + 1 - r.c0)).foldl (fun acc dc =>
      (List.range 8).foldl (fun acc k =>
        if (patCtl b r.pat).getLsbD k then Store.put acc (nodeOf (8 * (r.r0 + dr) + r.c0 + dc) k) (getT (patWord b r.pat k)) else acc) acc)
      acc) acc) []

/-- A map or sequence entry's context. -/
def mapNode (e : Nat) : Nat := nodeOf (bitsOf e 15 10) (bitsOf e 18 16)
def seqNode (e : Nat) : Nat := nodeOf (bitsOf e 5 0) (bitsOf e 8 6)

/-- The entries of a list with their offsets, and the padding that follows them. -/
def entries (b : List Byte) (at_ n : Nat) : List (Nat × Nat) := (List.range n).map (fun i => (at_ + 4 * i, jig32 b (at_ + 4 * i)))
def padOk (b : List Byte) (at_ n : Nat) : List (Nat × Bool) :=
  if n % 2 = 1 then [(at_ + 4 * n, decide (jig32 b (at_ + 4 * n) = 0))] else []

/-- The fields of the header, each with the offset of its word (R349). -/
def headFields (b : List Byte) (h : JigHdr) : List (Nat × Bool) :=
  let z (o : Nat) (allow : DWord) : Bool := decide (jig64 b o &&& ~~~allow = 0)
  [ (0x00, z 0x00 0x007F7F3F0FFFFFFF && decide (h.tdepth ≠ 0)), (0x08, z 0x08 0x7F7F7F3FFFFFFFFF),
    (0x10, z 0x10 0x0000003F00007F0F && decide (h.ddepth ≤ 64)), (0x50, z 0x50 0x0000FFFFFFFFFFFF) ]
  ++ (List.range 5).map (fun i => (0x58 + 8 * i, z (0x58 + 8 * i) 0))

/-- Whether a BEXIT names one of the exits, which end at number `last` (R319). -/
def exitOk (last : Nat) : Instr → Bool
  | .bexit t => decide (tSub t ≤ last)
  | _ => true

/-- The fields of the patterns and the rectangles (R349, R350, R489). -/
def patFields (b : List Byte) (h : JigHdr) : List (Nat × Bool) :=
  (List.range h.npat).flatMap (fun i =>
    (128 + 72 * i, decide (patCtl b i < 256)) :: (List.range 8).map (fun k =>
      (128 + 72 * i + 8 + 8 * k, !(patCtl b i).getLsbD k || (match decodeWord h.encv true (patWord b i k) with
        | .ok i => exitOk h.nxd i
        | .error _ => false))))
def rectFields (b : List Byte) (h : JigHdr) : List (Nat × Bool) :=
  let rs := rectsOf b h
  (entries b (rectAt h) h.nrect).zipIdx.map (fun e =>
    let r := rectOf e.1.2
    (e.1.1, decide (bitsOf e.1.2 25 18 = 0 ∧ bitsOf e.1.2 5 0 = 0 ∧ r.pat < h.npat ∧ r.c1 ≤ h.fw ∧ r.r1 ≤ h.fh)
      && !(rs.take e.2).any (rectMeets r)))
  ++ padOk b (rectAt h) h.nrect

/-- The fields of the exit list, the sequence-number table and the maps (R349, R350, R489). -/
def exitFields (b : List Byte) (h : JigHdr) : List (Nat × Bool) :=
  (List.range (h.nxd + 1)).map (fun i =>
    let e := jig64 b (exitAt h + 8 * i)
    (exitAt h + 8 * i, decide (bitsOf e.toNat 63 60 = 0 ∧ exitLevel e < h.tdepth)))
def seqFields (b : List Byte) (h : JigHdr) : List (Nat × Bool) :=
  let nodes := jigNodes b h
  (entries b (seqAt h) h.nmem).map (fun (o, e) =>
    (o, decide (e / 2 ^ 16 = 0 ∧ bitsOf e 13 9 < h.nmem ∧ bitsOf e 15 14 < h.tdepth) && (Store.find nodes (seqNode e)).isSome))
  ++ padOk b (seqAt h) h.nmem
def mapFields (b : List Byte) (h : JigHdr) : List (Nat × Bool) :=
  (entries b (inAt h) h.nin).map (fun (o, e) => (o, decide (e / 2 ^ 21 = 0 ∧ bitsOf e 20 19 ≠ 3))) ++ padOk b (inAt h) h.nin
  ++ (entries b (carAt h) h.ncar).map (fun (o, e) => (o, decide (e / 2 ^ 19 = 0))) ++ padOk b (carAt h) h.ncar
  ++ (entries b (outAt h) h.nout).map (fun (o, e) => (o, decide (e / 2 ^ 19 = 0))) ++ padOk b (outAt h) h.nout

/-- The padding before the check block. -/
def padFields (b : List Byte) (h : JigHdr) : List (Nat × Bool) :=
  (List.range (h.len - 64 - partsEnd b h)).map (fun i => (partsEnd b h + i, decide (nthD b (partsEnd b h + i) 0 = 0)))

/-- Whether an offset is that of a context word, which a failing image's record names. -/
def isContextWord (h : JigHdr) (o : Nat) : Bool := decide (128 ≤ o ∧ o < rectAt h ∧ (o - 128) % 72 ≠ 0)

/-- The reason of an image that fails, and the offset that its record names (R352, R451, R489). -/
def imageBad (ver : Nat) (b : List Byte) : Option (Nat × Nat) :=
  let h := jigHdr b
  match headBad ver h with
  | some r => some (r, 0)
  | none =>
    if b.drop (h.len - 64) ≠ checkBlock (b.take (h.len - 64)) then some (4, 0)
    else if !countsOk b h then some (5, 0)
    else match (headFields b h ++ patFields b h ++ rectFields b h ++ exitFields b h ++ seqFields b h ++ mapFields b h ++ padFields b h).find?
        (fun f => !f.2) with
      | some (o, _) => some (6, if isContextWord h o then o else 0)
      | none => none

/-! Levels of contexts. -/

/-- The contexts that a context sends to, with their levels. -/
def nodeTargets (e : Nat × TForm) (lv : Nat) : List (Nat × Nat) :=
  let out := if e.2.op = 0x3C4 then lv + 1 else if e.2.op = 0x3C5 then lv - 1 else lv
  [e.2.t1, e.2.t2].filterMap (fun t => if t.slot.toNat < 3 then some (nodeOf t.cell.toNat t.ctx.toNat, out) else none)

/-- Spreads levels from a list of contexts along the targets; `stop` ends a path at a context. -/
def spread (nodes : List (Nat × TForm)) (stop : TForm → Bool) : Nat → List (Nat × Nat) → List (Nat × Nat) → List (Nat × Nat)
  | 0, _, known => known
  | _ + 1, [], known => known
  | n + 1, (node, lv) :: rest, known =>
    match Store.find nodes node, Store.find known node with
    | some t, none => spread nodes stop n ((if stop t then [] else nodeTargets (node, t) lv) ++ rest) (Store.put known node lv)
    | _, _ => spread nodes stop n rest known

/-- The level at which each context fires: the live-in targets and `INJ` contexts stand at level 0. -/
def levelsOf (nodes : List (Nat × TForm)) (ins : List Nat) : List (Nat × Nat) :=
  let roots := ins ++ (nodes.filter (fun e => decide (e.2.op = 0x3C7))).map Prod.fst
  spread nodes (fun _ => false) (roots.length + 4 * nodes.length + 1) (roots.map (fun n => (n, 0))) []

/-- The contexts that follow a `TAGPOP` within their iteration, up to its `WADV` contexts. -/
def afterPopOf (nodes : List (Nat × TForm)) : List Nat :=
  let roots := (nodes.filter (fun e => decide (e.2.op = 0x3C5))).flatMap (fun e => nodeTargets e 1)
  (spread nodes (fun t => decide (t.op = 0x3C2)) (roots.length + 4 * nodes.length + 1) roots []).map Prod.fst

/-- The number of a context at origin 0 among the words of an explicit block (R344). -/
def wordNo (node : Nat) : Nat := 64 * (node % 8) + cellOf node

/-- The contexts that what a context sends reaches within its iteration. -/
def reachOf (nodes : List (Nat × TForm)) (e : Nat × TForm) : List Nat :=
  let roots := nodeTargets e 1
  (spread nodes (fun t => decide (t.op = 0x3C2)) (roots.length + 4 * nodes.length + 1) roots []).map Prod.fst

/-- The places in program order of an image's `GAROW` and `MMA` contexts: in a block that of their words; in another image, whose bytes do
not give it, after the memory operations from which their operands come (log 36). -/
def rowsOf (im : Image) : List (Nat × Nat) :=
  let reach := im.seqs.filterMap (fun e => (Store.find im.nodes e.1).map (fun t => (e.2.1, reachOf im.nodes (e.1, t))))
  (im.nodes.filter (fun e => decide (e.2.op = 0x300 ∨ e.2.op = 0x341))).map (fun e =>
    (e.1, if im.expl then im.seqs.countP (fun x => decide (wordNo x.1 < wordNo e.1))
      else (reach.filter (fun x => elemOf e.1 x.2)).foldl (fun n x => Nat.max n (x.1 + 1)) 0))

/-- An image with what follows from its contexts. -/
def finishImage (im : Image) : Image :=
  { im with levels := levelsOf im.nodes (im.livein.map Prod.fst), afterPop := afterPopOf im.nodes, rows := rowsOf im }

/-- The warp records of a drain section: the warp, and the ordinal of its outermost level (R351). -/
def drainSection (b : List Byte) (h : JigHdr) : List (DWord × Nat × Nat) :=
  if !h.drn then []
  else (List.range h.ndw).map (fun i =>
    let o := drainEnd b (carBytes b h) i (drainAt h)
    (w64 (bitsOf (jig64 b 0x50).toNat 47 0), bitsOf (jig64 b o).toNat 4 0, bitsOf (jig64 b (o + 16)).toNat 31 0))

/-- The image that checked bytes hold, at origin 0. -/
def parseImage (vd : Nat) (b : List Byte) : Image :=
  let h := jigHdr b
  let mapOf (e : Nat) : Nat × Nat × Bool × Bool := (mapNode e, bitsOf e 7 0, bitOf e 8, bitOf e 9)
  finishImage
    { vd := vd, kdesc := jig64 b 0x18, encv := h.encv, expl := h.expl, tdepth := h.tdepth,
      heads := (List.range h.tdepth).map (fun l => jig64 b (0x20 + 16 * l)), joins := (List.range h.tdepth).map (fun l => jig64 b (0x28 + 16 * l)),
      ddepth := h.ddepth, nodes := jigNodes b h,
      livein := (entries b (inAt h) h.nin).map (fun (_, e) => (mapNode e, bitsOf e 20 19, bitsOf e 7 0, bitOf e 8, bitOf e 9)),
      carried := (entries b (carAt h) h.ncar).map (fun (_, e) => mapOf e), liveout := (entries b (outAt h) h.nout).map (fun (_, e) => mapOf e),
      exits := (List.range (h.nxd + 1)).map (fun i => jig64 b (exitAt h + 8 * i)),
      seqs := (entries b (seqAt h) h.nmem).map (fun (_, e) => (seqNode e, bitsOf e 13 9, bitsOf e 15 14)),
      checksum := (b.drop (h.len - 64)).take 32, fw := h.fw + 1, fh := h.fh + 1, origin := 0, captured := none, withdrawn := false,
      levels := [], afterPop := [], rows := [], drain := drainSection b h }

/-! Origins (R353). -/

/-- An image moved from its origin to another. -/
def moveImage (im : Image) (o : Nat) : Image :=
  let cell (c : Nat) : Nat := c + o - im.origin
  let node (n : Nat) : Nat := nodeOf (cell (cellOf n)) (n % 8)
  let target (t : Target) : Target := if t.slot.toNat < 3 then { t with cell := BitVec.ofNat 6 (cell t.cell.toNat) } else t
  { im with
    nodes := im.nodes.map (fun e => (node e.1, { e.2 with t1 := target e.2.t1, t2 := target e.2.t2 }))
    livein := im.livein.map (fun e => (node e.1, e.2))
    carried := im.carried.map (fun e => (node e.1, e.2))
    liveout := im.liveout.map (fun e => (node e.1, e.2))
    seqs := im.seqs.map (fun e => (node e.1, e.2))
    levels := im.levels.map (fun e => (node e.1, e.2))
    afterPop := im.afterPop.map node
    rows := im.rows.map (fun e => (node e.1, e.2))
    origin := o }

/-- Whether 16 or more cells of a core are fenced, which disables its lattice (20 R486). -/
def latticeOff (c : Core) : Bool := decide (16 ≤ popCount c.badcell)

/-- Whether an image at origin 0 fits at an origin of a core. -/
def fitsAt (c : Core) (im : Image) (o : Nat) : Bool :=
  let m := moveImage im o
  let used := c.slots.flatMap (fun e => e.2.nodes.map Prod.fst)
  decide (o % 8 + im.fw ≤ 8 ∧ o / 8 + im.fh ≤ 8) && m.nodes.all (fun e => !elemOf e.1 used && !c.badcell.getLsbD (cellOf e.1))

/-- The first origin at which an image fits, in ascending order (12 R324, 20 R485). -/
def searchOrigin (c : Core) (im : Image) : Option Nat := (List.range 64).find? (fitsAt c im)

/-- The lowest free image slot of a core. -/
def freeImageSlot (c : Core) : Option Nat := Store.freeKey c.slots 4 0

/-- What a load of an image answers: a slot and the CODE of R307, and the state. -/
def loadImage (s : State) (core : Nat) (im : Image) (pick : Core → Option Nat) (none_ : Nat) : (Nat × Nat) × State :=
  let c := getCore s core
  if latticeOff c then ((0, 3), s)
  else match c.slots.find? (fun e => decide (e.2.checksum = im.checksum ∧ e.2.vd = im.vd) && !e.2.withdrawn) with
    | some e => ((e.1, 1), s)
    | none => match freeImageSlot c with
      | none => ((0, 2), s)
      | some slot => match pick c with
        | some o => if fitsAt c im o then ((slot, 0), setCore s core { c with slots := Store.put c.slots slot { moveImage im o with drain := [] } }) else ((0, none_), s)
        | none => ((0, none_), s)

/-! Writing an image (R308, R348 to R352). -/

/-- The footprint cells that hold contexts, ascending; an image without contexts writes an empty first cell. -/
def usedCells (im : Image) : List Nat :=
  let l := (im.nodes.map (fun e => cellOf e.1)).dedup
  if l = [] then [0] else l

/-- A pattern record for one cell. -/
def patBytes (im : Image) (cell : Nat) : List Byte :=
  let mine (k : Nat) : Option TForm := Store.find im.nodes (nodeOf cell k)
  let ctl := (List.range 8).foldl (fun n k => if (mine k).isSome then n + 2 ^ k else n) 0
  wordsBytes (w64 ctl :: (List.range 8).map (fun k => match mine k with
    | some t => putT t.op t
    | none => 0))

/-- A list of 4-byte entries with its padding. -/
def list4 (l : List Nat) : List Byte := l.flatMap bytes4 ++ List.replicate (list4Len l.length - 4 * l.length) 0

/-- A map entry. -/
def mapEntry (node slot reg : Nat) (pair pred : Bool) : Nat :=
  slot * 2 ^ 19 + node % 8 * 2 ^ 16 + cellOf node * 2 ^ 10 + boolNat pred * 2 ^ 9 + boolNat pair * 2 ^ 8 + reg % 256

/-- The token that a drain left for a carried context: later values stand over earlier ones. -/
def caughtTok (d : DrainRec) (node : Nat) : LiveOut :=
  (d.toks.filter (fun e => decide (e.1 = node))).foldl (fun a e =>
    { a with mask := a.mask ||| e.2.mask, data := laneList.map (fun l => if inMask e.2.mask l then nthD e.2.data l 0 else nthD a.data l 0) })
    { node := node, port := 0, w64 := false, mask := 0, data := [] }

/-- A warp record of a drain section; `car` is the carried map at the image's grid contexts. -/
def warpRecord (car : List (Nat × Nat × Bool × Bool)) (i : Nat) (d : DrainRec) : List Byte :=
  wordsBytes [w64 i, w64 (tagVec d.tag), w64 (nthD d.ords 0 0 % 2 ^ 32 + nthD d.ords 1 0 % 2 ^ 32 * 2 ^ 32),
    w64 (nthD d.ords 2 0 % 2 ^ 32 + d.events.length * 2 ^ 32)]
  ++ car.flatMap (fun (node, _, pair, _) =>
    let t := caughtTok d node
    wordsBytes [t.mask.zeroExtend 64] ++ laneList.flatMap (fun l => bytes4 (lowWord (nthD t.data l 0)).toNat)
    ++ (if pair then laneList.flatMap (fun l => bytes4 (highWord (nthD t.data l 0)).toNat) else []))
  ++ wordsBytes (d.events.map (fun e => w64 (e.lanes.toNat + e.level % 4 * 2 ^ 32 + e.exit % 16 * 2 ^ 36)))

/-- The bytes of an image, with the warp records of a task where there are any. One pattern and one rectangle stand for each cell in use
(log 18). -/
def imageBytes (im : Image) (task : DWord) (recs : List (Nat × DrainRec)) : List Byte :=
  let z := moveImage im 0
  let cells := usedCells z
  let carz := carriedMap z
  let drn := !recs.isEmpty
  let body := cells.flatMap (patBytes z)
    ++ list4 (cells.zipIdx.map (fun e => e.2 * 2 ^ 26 + e.1 / 8 * 2 ^ 9 + e.1 % 8 * 2 ^ 6))
    ++ wordsBytes z.exits
    ++ list4 (z.seqs.map (fun e => e.2.2 * 2 ^ 14 + e.2.1 * 2 ^ 9 + e.1 % 8 * 2 ^ 6 + cellOf e.1))
    ++ list4 (z.livein.map (fun e => mapEntry e.1 e.2.1 e.2.2.1 e.2.2.2.1 e.2.2.2.2))
    ++ list4 (carz.map (fun e => mapEntry e.1 0 e.2.1 e.2.2.1 e.2.2.2))
    ++ list4 (z.liveout.map (fun e => mapEntry e.1 0 e.2.1 e.2.2.1 e.2.2.2))
    ++ recs.flatMap (fun r => warpRecord (carriedMap im) r.1 r.2)
  let pad := roundUp (128 + body.length) 64 - (128 + body.length)
  let w0 := cells.length * 2 ^ 48 + cells.length * 2 ^ 40 + (z.fh - 1) * 2 ^ 35 + (z.fw - 1) * 2 ^ 32 + boolNat z.expl * 2 ^ 27
    + boolNat drn * 2 ^ 26 + z.tdepth * 2 ^ 24 + 1 * 2 ^ 20 + z.encv * 2 ^ 16 + 0x4A47
  let w1 := z.liveout.length * 2 ^ 56 + carz.length * 2 ^ 48 + z.livein.length * 2 ^ 40 + z.seqs.length * 2 ^ 32
    + (128 + body.length + pad + 64)
  let w2 := recs.length * 2 ^ 32 + z.ddepth * 2 ^ 8 + (z.exits.length - 1)
  let hdr := wordsBytes ([w64 w0, w64 w1, w64 w2, z.kdesc]
    ++ (List.range 3).flatMap (fun l => [nthD z.heads l 0, nthD z.joins l 0]) ++ [if drn then task else 0] ++ List.replicate 5 0)
  let all := hdr ++ body ++ List.replicate pad 0
  all ++ checkBlock all

/-- The first 32 bytes of the digest that an image written without a drain section carries. -/
def imageSum (im : Image) : List Byte :=
  let b := imageBytes im 0 []
  (b.drop (b.length - 64)).take 32

/-! Explicit blocks (R343, R344, R346, 20 R440). -/

/-- The image of an explicit block, at origin 0, from its header's address, its header, its words and its join. -/
def blockImage (vd : Nat) (kern : Kernel) (h : DWord) (hd : BlockHdr) (words : List DWord) (join : DWord) : Image :=
  let n := hd.nword.toNat
  let nodes := (List.range words.length).foldl (fun acc k => Store.put acc (nodeOf (k % 64) (k / 64)) (getT (nthD words k 0))) []
  let levels := levelsOf nodes []
  let isMem (w : DWord) : Bool := match tBase (getT w) with
    | some (.ld _) | some (.st _) | some (.fence _) | some (.garun _)
    | some (.redAdd _) | some (.redMin _) | some (.redMax _) | some (.redAnd _) | some (.redOr _) | some (.redXor _)
    | some (.redFadd _) | some (.redFmin _) | some (.redFmax _) => true
    | _ => false
  let mems := (List.range words.length).filter (fun k => isMem (nthD words k 0))
  let exit0 := h + w64 (8 * (n + 1))
  let im := finishImage
    { vd := vd, kdesc := kern.addr, encv := kern.encv, expl := true, tdepth := hd.tdepth.toNat, heads := List.replicate hd.tdepth.toNat h,
      joins := List.replicate hd.tdepth.toNat join, ddepth := 0,
      nodes := nodes, livein := [], carried := [], liveout := [],
      exits := (List.range (hd.nexit.toNat + 1)).map (fun i => (exit0 + w64 (8 * i)) ||| (3#64 <<< 58)),
      seqs := mems.zipIdx.map (fun e => (nodeOf (e.1 % 64) (e.1 / 64), e.2, Store.get 0 levels (nodeOf (e.1 % 64) (e.1 / 64)))),
      checksum := [], fw := 8, fh := (Nat.min n 64 + 7) / 8, origin := 0, captured := none, withdrawn := false, levels := [], afterPop := [], rows := [], drain := [] }
  { im with checksum := imageSum im }

end Sys2Proof.Machine
end

