-- ==== Sys2Proof/Machine/Capture.lean ====
section
/-! DEFINITION. The capture unit: the loop nest of a request, the conditions on it, and the graph of contexts that it builds from the loop's
body (08 R235, 12 R322, R323, log 20). -/

namespace Sys2Proof.Machine

/-! The loop of a capture request (R322, R323). -/

/-- The decoded words of a loop body from its head to its closing branch; none where one cannot be fetched. -/
def loopWords (core k i : Nat) (t : Task) (w : Warp) (ver : Nat) : Nat → DWord → State → Option (List (DWord × Instr)) × State
  | 0, _, s => (some [], s)
  | n + 1, va, s => match fetchWord s core k i t w va with
    | (.word x, s1) => match loopWords core k i t w ver n (va + 8) s1 with
      | (some l, s2) => (some ((va, fetchInstr ver x) :: l), s2)
      | (none, s2) => (none, s2)
    | (_, s1) => (none, s1)

/-- A level of a loop nest: its head, its closing branch and its join. -/
structure LoopLevel where
  head : DWord
  branch : DWord
  join : DWord
  deriving DecidableEq, Repr

/-- The branches of a body: address, target, join. -/
def bodyBranches (l : List (DWord × Instr)) : List (DWord × DWord × DWord) :=
  l.filterMap (fun e => match e.2 with
    | .bra f => some (e.1, braTarget f e.1, braJoin f e.1)
    | _ => none)

/-- The levels that the back edges of a body close, outermost first. -/
def bodyLevels (l : List (DWord × Instr)) : List LoopLevel :=
  sortBy (fun v => v.head.toNat * 2 ^ 64 + (2 ^ 64 - v.branch.toNat))
    ((l.filterMap (fun e => match e.2 with
      | .bra f => if f.off.getLsbD 31 then some { head := braTarget f e.1, branch := e.1, join := braJoin f e.1 } else none
      | _ => none)))

/-- Whether a loop lies inside another. -/
def inside (x y : LoopLevel) : Bool := decide (y.head.toNat ≤ x.head.toNat ∧ x.branch.toNat < y.branch.toNat)

/-- Whether an address lies in a level. -/
def inLevel (v : LoopLevel) (a : DWord) : Bool := decide (v.head.toNat ≤ a.toNat ∧ a.toNat ≤ v.branch.toNat)

/-- The level of an address: the number of levels around it, less one. -/
def levelOfAddr (vs : List LoopLevel) (a : DWord) : Nat := (vs.filter (fun v => inLevel v a)).length - 1

/-- The exits of a loop nest in program order, each with its branch: the fall-through of each back edge, and each forward branch that
leaves its level. An exit is an entry of an exit list (R322, R349). -/
def exitBranches (l : List (DWord × Instr)) (vs : List LoopLevel) : List (DWord × DWord) :=
  (bodyBranches l).filterMap (fun (a, tgt, _) =>
    let lv := levelOfAddr vs a
    match vs[lv]? with
    | none => none
    | some v =>
      let e (addr : DWord) (kind : Nat) : DWord × DWord := (a, w64 (addr.toNat % 2 ^ 56 + lv * 2 ^ 56 + kind * 2 ^ 58))
      if vs.any (fun x => decide (x.branch = a)) then some (e v.join 0)
      else if inLevel v tgt && decide (a.toNat < tgt.toNat) then none
      else if tgt = v.join then some (e (a + 8) 1) else some (e tgt 2))

/-- The exits of a loop nest as the entries of an exit list. -/
def bodyExits (l : List (DWord × Instr)) (vs : List LoopLevel) : List DWord := (exitBranches l vs).map Prod.snd

/-- Whether an instruction may stand in a captured body (R323). -/
def bodyInstrOk (gaeWide : Bool) : Instr → Bool
  | .bra _ => true
  | .fpmode _ | .fpmodeImm _ => false
  | .ld f | .st f => decide (f.space ≠ .spill)
  | .garow _ => !gaeWide
  | i => match encode i with
    | some w => decide ((getT w).op.toNat / 64 < 15) && tAccepted (getT w).op.toNat
    | none => false

/-- Whether an instruction makes a memory access, and whether it writes. -/
def bodyMem : Instr → Option Bool
  | .ld _ | .fence _ => some false
  | .st _ | .garun _ | .redAdd _ | .redMin _ | .redMax _ | .redAnd _ | .redOr _ | .redXor _ | .redFadd _ | .redFmin _ | .redFmax _ => some true
  | _ => none
def isFence : Instr → Bool
  | .fence _ => true
  | _ => false

/-- Whether a body holds an operation of the GAE, and whether it holds a `GAROW`. -/
def bodyGae (l : List (DWord × Instr)) : Bool := l.any (fun e => match e.2 with
  | .garow _ | .garun _ => true
  | _ => false)
def bodyRow (l : List (DWord × Instr)) : Bool := l.any (fun e => match e.2 with
  | .garow _ => true
  | _ => false)

/-- The conditions of R323 on a body, but for its fit, which the placer's answer shows. -/
def eligible (l : List (DWord × Instr)) (vs : List LoopLevel) (depth0 : Nat) (gaeWide : Bool) : Bool :=
  let brs := bodyBranches l
  let exits := bodyExits l vs
  let lastBefore := vs.map (fun v => v.branch - 8)
  l.all (fun e => bodyInstrOk gaeWide e.2)
  && decide ((l.filterMap (fun e => bodyMem e.2)).length ≤ 32)
  && decide ((l.filterMap (fun e => bodyMem e.2)).countP (fun b => b) ≤ 16)
  && decide (vs.length ≤ 3)
  && (vs.zip (vs.drop 1)).all (fun p => inside p.2 p.1)
  && vs.all (fun v => decide (v.join ≠ v.branch))
  && brs.all (fun b => match vs[levelOfAddr vs b.1]? with
      | some v => (inLevel v b.2.1 && decide (b.1.toNat < b.2.1.toNat)) || decide (b.2.2 = v.join)
      | none => false)
  && brs.all (fun b => decide (b.2.1.toNat ≤ b.1.toNat) || !(vs[levelOfAddr vs b.1]?).any (fun v => inLevel v b.2.1) || !vs.any (fun v => decide (b.1.toNat < v.head.toNat ∧ v.branch.toNat < b.2.1.toNat)))
  && decide (exits.length ≤ 16)
  && decide (depth0 + 31 * vs.length ≤ 64)
  && l.all (fun e => !isFence e.2 || elemOf e.1 lastBefore)

/-! The graph (R322). Every thread register and predicate is a 32-bit token of its own; a predicate's token holds 1 or 0. -/

/-- The number by which the graph knows a predicate; a thread register's is its own. -/
def predNo (n : Nat) : Nat := 256 + n

/-- What a context of the graph sends by its targets: `second` is the second output of a `STEER` or a `GAROW`. -/
structure Src where
  node : Nat
  second : Bool
  deriving DecidableEq, Repr

/-- Where a value goes: a slot of a context, or a south port. -/
inductive Sink where
  | slot (node n : Nat)
  | south (port : Nat)
  deriving DecidableEq, Repr

/-- A graph as it is built: its contexts, their edges, and the lists of an image that name them. `missing` holds the values that a level
reads before it has written them, with the level; `ok` is false where the lattice has no form for something. -/
structure Graph where
  nodes : List TForm
  edges : List (Src × Sink)
  seqs : List (Nat × Nat)
  rows : List (Nat × Nat)
  livein : List (Nat × Nat)
  carried : List (Nat × Nat)
  liveout : List (Nat × Nat)
  missing : List (Nat × Nat)
  ok : Bool
  deriving DecidableEq, Repr

def Graph.empty : Graph :=
  { nodes := [], edges := [], seqs := [], rows := [], livein := [], carried := [], liveout := [], missing := [], ok := true }

/-- The values of registers at a point of the body. -/
abbrev LoopEnv : Type := List (Nat × Src)

/-- A context without targets. -/
def bareCtx (op top arity : Nat) (immv : Bool) (imm : Nat) : TForm :=
  { op := BitVec.ofNat 10 op, top := BitVec.ofNat 3 top, t1 := nilTarget, t2 := nilTarget, arity := BitVec.ofNat 3 arity, immv := immv,
    imm := BitVec.ofNat 23 imm }

/-- Adds a context. -/
def Graph.add (g : Graph) (t : TForm) : Nat × Graph := (g.nodes.length, { g with nodes := g.nodes ++ [t] })
/-- Adds an edge. -/
def Graph.wire (g : Graph) (x : Src) (y : Sink) : Graph := { g with edges := g.edges ++ [(x, y)] }
def Graph.fail (g : Graph) : Graph := { g with ok := false }

/-- The first output of a context. -/
def out1 (n : Nat) : Src := ⟨n, false⟩
def out2 (n : Nat) : Src := ⟨n, true⟩

/-- A context fed by given tokens in slots 0, 1, …; its first output. -/
def Graph.node (g : Graph) (t : TForm) (ins : List Src) : Src × Graph :=
  let (n, g1) := g.add t
  (out1 n, ins.zipIdx.foldl (fun g e => g.wire e.1 (.slot n e.2)) g1)

/-- Splits a token by a predicate token: the lanes where it is nonzero, and the others (11 R314). -/
def Graph.steer (g : Graph) (x p : Src) : Src × Src × Graph :=
  let (r, g1) := g.node (bareCtx 0x3C0 0 2 false 0) [x, p]
  (r, out2 r.node, g1)

/-- Joins two tokens: the first's value in its lanes, and the second's elsewhere (11 R315). -/
def Graph.join (g : Graph) (x y : Src) : Src × Graph := g.node (bareCtx 0x3C1 0 2 false 0) [x, y]

/-- The value of a register at a point of a level. -/
def Graph.read (g : Graph) (lv : Nat) (env : LoopEnv) (r : Nat) : Src × Graph :=
  match Store.find env r with
  | some x => (x, g)
  | none => (out1 0, { g with missing := g.missing ++ [(lv, r)] })

/-! Constants, 64-bit values and predicates. -/

/-- Whether a 32-bit value is the sign extension of a 23-bit immediate. -/
def fits23 (n : Nat) : Bool := decide (n < 2 ^ 22 ∨ 2 ^ 32 - 2 ^ 22 ≤ n)

/-- The immediate by which an opcode takes a value as operand b, where it can (06 R161). -/
def immOf (op n : Nat) : Option Nat :=
  if !takesImm op then none
  else if elemOf op [0x180, 0x181, 0x182, 0x183] then (if n = 0 then some 0 else none)
  else if 5 ≤ op / 64 ∧ op / 64 ≤ 7 ∧ op ≠ 0x1C3 then (if n % 512 = 0 ∧ n < 2 ^ 32 then some (n / 512) else none)
  else if fits23 n then some (n % 2 ^ 23) else none

/-- A 32-bit constant in the lanes of a token. -/
def Graph.const (g : Graph) (trig : Src) (n : Nat) : Src × Graph :=
  if fits23 n then g.node (bareCtx 0x084 0 0 true (n % 2 ^ 23)) [trig]
  else
    let (h, g1) := g.node (bareCtx 0x084 0 0 true (n / 2 ^ 16)) [trig]
    let (u, g2) := g1.node (bareCtx 0x046 0 1 true 16) [h]
    if n % 2 ^ 16 = 0 then (u, g2) else g2.node (bareCtx 0x041 0 1 true (n % 2 ^ 16)) [u]

/-- OPM of an operation of a type and SUB. -/
def opmOf (ty : Ty) (sub : Nat) : Nat := (tyCode ty).toNat * 2 ^ 8 + sub

/-- A pair as one 64-bit token: low + high × 2^16 × 2^16. -/
def Graph.pair (g : Graph) (lo hi : Src) : Src × Graph :=
  let (c, g1) := g.const hi 65536
  let (x, g2) := g1.node (bareCtx 0x004 0 2 false (opmOf .z64 0)) [hi, c]
  let (y, g3) := g2.node (bareCtx 0x004 0 2 false (opmOf .z64 0)) [x, c]
  g3.node (bareCtx 0x000 0 2 false (opmOf .z64 0)) [lo, y]

/-- The two words of a 64-bit token. -/
def Graph.words (g : Graph) (x : Src) : Src × Src × Graph :=
  let (lo, g1) := g.node (bareCtx 0x083 0 1 false 0) [x]
  let (c, g2) := g1.const x 65536
  let (y, g3) := g2.node (bareCtx 0x008 0 2 false (opmOf .z64 0)) [x, c]
  let (z, g4) := g3.node (bareCtx 0x008 0 2 false (opmOf .z64 0)) [y, c]
  let (hi, g5) := g4.node (bareCtx 0x083 0 1 false 0) [z]
  (lo, hi, g5)

/-- A predicate's token of a value: 1 where it is nonzero. -/
def Graph.truth (g : Graph) (x : Src) : Src × Graph := g.node (bareCtx 0x080 0 1 false (opmOf .z32 1)) [x]
/-- The inverse of a predicate's token. -/
def Graph.not (g : Graph) (x : Src) : Src × Graph := g.node (bareCtx 0x042 0 1 true 1) [x]

/-! Operands. -/

/-- An operand: a token, a number, or none. -/
inductive LoopArg where
  | tok (x : Src)
  | num (n : Nat)
  | no
  deriving DecidableEq, Repr

/-- The operands of a context without those at its end that are absent. -/
def trimNo (l : List LoopArg) : List LoopArg := (l.reverse.dropWhile (fun a => decide (a = .no))).reverse

/-- The operands of a context without those at its end that an uncounted slot supplies: zero, but for slot c of a comparison (12 R345). -/
def trimArgs (compare : Bool) (l : List LoopArg) : List LoopArg :=
  let m := trimNo l
  if compare && decide (m.length = 3) then m else (m.reverse.dropWhile (fun a => decide (a = .no ∨ a = .num 0))).reverse

/-- An operand as a token in the lanes of another. -/
def Graph.token (g : Graph) (trig : Src) : LoopArg → Src × Graph
  | .tok x => (x, g)
  | .num n => g.const trig n
  | .no => g.const trig 0

/-- A context of an operation on operands a, b and c, which fires in the lanes of `trig`: a number stands as the immediate where the
operation takes it so, and else as a constant's token. -/
def Graph.oper (g : Graph) (trig : Src) (op opm : Nat) (args : List LoopArg) : Src × Graph :=
  let trimmed := trimArgs (elemOf op [0x080, 0x146, 0x183]) args
  let need := if trimmed = [] then args.take 1 else trimmed
  let imm := match need[1]? with
    | some (.num n) => if opm = 0 then immOf op n else none
    | _ => none
  let used : List (LoopArg × Nat) := need.zipIdx.filter (fun e => imm.isNone || decide (e.2 ≠ 1))
  let (ins, g1) := used.foldl (fun (acc : List (Src × Nat) × Graph) e =>
    let (x, g1) := acc.2.token trig e.1
    (acc.1 ++ [(x, e.2)], g1)) ([], g)
  let (n, g2) := g1.add (bareCtx op 0 used.length imm.isSome (imm.getD opm))
  let g3 := ins.foldl (fun g e => g.wire e.1 (.slot n e.2)) g2
  (out1 n, if ins.isEmpty then g3.wire trig (.slot n 0) else g3)

/-- How many thread registers a source operand names. -/
def useRegs : OpCls → Nat
  | .src n | .base n | .rng _ n | .thrZ _ n | .thr _ n => n
  | _ => 0

/-- The registers that an instruction reads. -/
def bodyReads (i : Instr) : List Nat :=
  ((operandUses i).flatMap (fun u =>
    if useRegs u.cls = 0 || (decide (u.pos = 0) && isThr u.cls) then [] else match u.o with
      | .v r => (List.range (useRegs u.cls)).map (fun j => r.toNat + j)
      | .p r => if r = 7 then [] else [predNo r.toNat]
      | _ => [])).dedup
where
  isThr : OpCls → Bool
    | .thr _ _ => true
    | _ => false

/-- The registers that an instruction writes; `nact` is the number of columns of a `GAROW`, less one. -/
def instrWrites (nact : Nat) (i : Instr) : List Nat :=
  let carry (o : Opnd) : List Nat := match o with
    | .p r => if r = 7 then [] else [predNo r.toNat]
    | _ => []
  let own := (operandUses i).flatMap (fun u => match u.cls, u.o with
    | .dst n, .v r => (List.range n).map (fun j => r.toNat + j)
    | .dst _, .p r => if r = 7 then [] else [predNo r.toNat]
    | .thr _ n, .v r => if u.pos = 0 then (List.range n).map (fun j => r.toNat + j) else []
    | _, _ => [])
  match i with
  | .garow f => match f.d with
    | .v r => (List.range (nact + 1)).map (fun j => r.toNat + j)
    | _ => []
  | .addc f | .subb f => own ++ carry f.c
  | _ => own

/-- The registers of a list in ascending order, each once. -/
def regOrder (l : List Nat) : List Nat := (sortBy (fun r => r) l).dedup

/-- The thread registers and predicates that a body writes (R322). -/
def bodyWrites (nact : Nat) (l : List (DWord × Instr)) : List Nat := regOrder (l.flatMap (fun e => instrWrites nact e.2))

/-- An operand of `n` registers. -/
def Graph.operand (g : Graph) (lv : Nat) (env : LoopEnv) (n : Nat) : Opnd → LoopArg × Graph
  | .v r =>
    let (lo, g1) := g.read lv env r.toNat
    if n = 1 then (.tok lo, g1)
    else if n = 2 then
      let (hi, g2) := g1.read lv env (r.toNat + 1)
      let (x, g3) := g2.pair lo hi
      (.tok x, g3)
    else (.no, g1.fail)
  | .p r =>
    if r = 7 then (.num 1, g)
    else
      let (x, g1) := g.read lv env (predNo r.toNat)
      (.tok x, g1)
  | .vz => (.num 0, g)
  | _ => (.no, g.fail)

/-- The values that a result of `n` registers gives the registers of a destination. `bool` says that it is 1 or 0 already. -/
def Graph.result (g : Graph) (x : Src) (n : Nat) (bool : Bool) : Opnd → List (Nat × Src) × Graph
  | .v r =>
    if n = 1 then ([(r.toNat, x)], g)
    else if n = 2 then
      let (lo, hi, g1) := g.words x
      ([(r.toNat, lo), (r.toNat + 1, hi)], g1)
    else ([], g.fail)
  | .p r =>
    if r = 7 then ([], g)
    else if bool then ([(predNo r.toNat, x)], g)
    else
      let (y, g1) := g.truth x
      ([(predNo r.toNat, y)], g1)
  | .vz => ([], g)
  | _ => ([], g.fail)

/-- The address of an access with its offset, as its space forms it (09 R237): a sum that leaves a task-shared or constant address's 32
bits stays outside them. -/
def Graph.address (g : Graph) (lv : Nat) (env : LoopEnv) (trig : Src) (sp : Space) (a : Opnd) (off : Int) : LoopArg × Graph :=
  let (x, g1) := g.operand lv env (if sp = .die then 2 else 1) a
  if off = 0 then (x, g1)
  else
    let (b, g2) := g1.token trig x
    let (c, g3) := g2.const trig off.natAbs
    let (y, g4) := g3.node (bareCtx (if 0 < off then 0x000 else 0x001) 0 2 false (opmOf .z64 0)) [b, c]
    if sp = .die then (.tok y, g4)
    else
      let (m, g5) := g4.const trig (2 ^ 32 - 1)
      let (z, g6) := g5.node (bareCtx 0x00A 0 2 false (opmOf .z64 0)) [y, m]
      (.tok z, g6)

/-- Gives the latest context the next sequence number (06 R168). -/
def Graph.mem (g : Graph) (lv : Nat) : Graph := { g with seqs := g.seqs ++ [(g.nodes.length - 1, lv)] }

/-- Opcode and OPM of an instruction's word. -/
def opOf (i : Instr) : Nat := match encode i with
  | some w => (getT w).op.toNat
  | none => 0
def opmBits (i : Instr) : Nat := match encode i with
  | some w => bitsOf w.toNat 13 2
  | none => 0

/-! Instructions that become several contexts. -/

/-- `TMV`: each output's chain of steps in ascending column order (05 R144, 08 R233, R235). -/
def Graph.tmv (g : Graph) (lv : Nat) (env : LoopEnv) (trig : Src) (f : RTmv) : List (Nat × Src) × Graph :=
  let n := f.n.toNat + 1
  let z := if f.wty = .bf16 then 2 else 4
  let stride := 16 * ((n * z + 15) / 16)
  let num (o : Opnd) : Option Nat := match o with
    | .v r => some r.toNat
    | _ => none
  match num f.d, num f.a with
  | some d, some a =>
    let (b, g1) := g.operand lv env 1 f.b
    let (base, g2) := g1.token trig b
    (List.range (f.m.toNat + 1)).foldl (fun acc i =>
      let (c, g3) : Option Src × Graph := match num f.c with
        | some r =>
          let (x, g3) := acc.2.read lv env (r + i)
          (some x, g3)
        | none => (none, acc.2)
      let (y, g4) := (List.range n).foldl (fun (y : Option Src × Graph) j =>
        let (x, g5) := y.2.read lv env (a + j)
        let (o, g6) := g5.node (bareCtx 0x000 0 1 true (i * stride + j * z)) [base]
        let (w, g7) := g6.node (bareCtx 0x190 0 (if y.1.isSome then 3 else 2) false (opmOf f.wty 0)) ([x, o] ++ y.1.toList)
        (some w, g7)) (c, g3)
      (acc.1 ++ y.toList.map (fun w => (d + i, w)), g4)) (([], g2) : List (Nat × Src) × Graph)
  | _, _ => ([], g.fail)

/-- Elements of `z` bits each in one register, element `i` at bit `z` × `i`. -/
def Graph.pack (g : Graph) (z : Nat) (l : List Src) : Src × Graph :=
  l.zipIdx.foldl (fun acc e =>
    if e.2 = 0 then (e.1, acc.2)
    else
      let (x, g1) := acc.2.node (bareCtx 0x046 0 1 true (z * e.2)) [e.1]
      g1.node (bareCtx 0x041 0 2 false 0) [acc.1, x]) (out1 0, g)

/-- `CVTN`: one step for each element, in ascending order (08 R225, R235). -/
def Graph.cvtn (g : Graph) (lv : Nat) (env : LoopEnv) (trig : Src) (f : RNarrow) : List (Nat × Src) × Graph :=
  let k := narrowK f.fmt
  match f.a with
  | .v a =>
    let (b, g1) := g.operand lv env 1 f.b
    let (l, g2) := (List.range k).foldl (fun (acc : List Src × Graph) j =>
      let (x, g3) := acc.2.read lv env (a.toNat + j)
      let (y, g4) := g3.oper trig 0x1C1 (opmBits (.cvtn f)) [.tok x, b]
      (acc.1 ++ [y], g4)) ([], g1)
    let (x, g5) := g2.pack (32 / k) l
    g5.result x 1 false f.d
  | _ => ([], g.fail)

/-- `CVTW`: one step for each element, in ascending order (08 R226, R235). -/
def Graph.cvtw (g : Graph) (lv : Nat) (env : LoopEnv) (trig : Src) (f : RNarrow) : List (Nat × Src) × Graph :=
  let k := narrowK f.fmt
  let (a, g1) := g.operand lv env 1 f.a
  let (x, g2) := g1.token trig a
  let (b, g3) := g2.operand lv env 1 f.b
  let (l, g4) := (List.range k).foldl (fun (acc : List Src × Graph) j =>
    let (y, g5) := if j = 0 then (x, acc.2) else acc.2.node (bareCtx 0x047 0 1 true (32 / k * j)) [x]
    let (w, g6) := g5.oper trig 0x1C2 (opmBits (.cvtw f)) [.tok y, b]
    (acc.1 ++ [w], g6)) ([], g3)
  match f.d with
  | .v d =>
    if f.ty = .bf16x2 then
      (List.range (k / 2)).foldl (fun acc j =>
        let (y, g5) := acc.2.pack 16 ((l.drop (2 * j)).take 2)
        (acc.1 ++ [(d.toNat + j, y)], g5)) ([], g4)
    else (l.zipIdx.map (fun e => (d.toNat + e.2, e.1)), g4)
  | _ => ([], g4.fail)

/-- `ADDC` and `SUBB`, whose T form produces no carry-out: the carry of a sum is that it is less than a, or equal to it with a carry in;
the borrow is that a is less than b, or equal to it with a borrow in (07 R185, R208). -/
def Graph.carry (g : Graph) (lv : Nat) (env : LoopEnv) (trig : Src) (i : Instr) (sub : Bool) (f : RArith) :
    List (Nat × Src) × Graph :=
  let (a, g1) := g.operand lv env 1 f.a
  let (b, g2) := g1.operand lv env 1 f.b
  let (c, g3) := g2.operand lv env 1 f.c
  let (x, g4) := g3.oper trig (opOf i) (opmBits i) [a, b, c]
  let (d, g5) := g4.result x 1 false f.d
  match f.c with
  | .p r =>
    if r = 7 then (d, g5)
    else
      let (l, m) := if sub then (a, b) else (LoopArg.tok x, a)
      let (lt, g6) := g5.oper trig 0x080 (opmOf .z32 2) [l, m, .no]
      let (eq, g7) := g6.oper trig 0x080 (opmOf .z32 0) [l, m, c]
      let (y, g8) := g7.node (bareCtx 0x041 0 2 false 0) [lt, eq]
      (d ++ [(predNo r.toNat, y)], g8)
  | _ => (d, g5)

/-- The immediate of an I-form instruction that the lattice takes. -/
def immForm : Instr → Option IForm
  | .addImm f | .subImm f | .mulImm f | .minImm f | .maxImm f | .andImm f | .orImm f | .xorImm f | .andnImm f | .shlImm f | .shrImm f
  | .sraImm f | .rotImm f | .faddImm f | .fmulImm f | .fminImm f | .fmaxImm f => some f
  | _ => none

/-- Whether an instruction's result is 1 or 0. -/
def isCompare : Instr → Bool
  | .setp _ | .fsetp _ | .dsetp _ => true
  | _ => false

/-- The contexts of one instruction, and the values of the registers that it writes. `trig` is a token in its lanes, `nact` the columns of
the warps' GAE contexts, less one. -/
def Graph.instr (g : Graph) (lv : Nat) (env : LoopEnv) (trig : Src) (nact : Nat) (i : Instr) : List (Nat × Src) × Graph :=
  match i with
  | .movi f =>
    let (x, g1) := g.const trig f.imm.toNat
    g1.result x 1 false (.v f.d)
  | .ld f =>
    let (a, g1) := g.address lv env trig f.space f.a f.off.toInt
    let (x, g2) := g1.oper trig 0x200 (opmBits i) [a]
    (g2.mem lv).result x (tyRegs f.ty) false f.d
  | .st f =>
    let (a, g1) := g.address lv env trig f.space f.a f.off.toInt
    let (b, g2) := g1.operand lv env (tyRegs f.ty) f.d
    let (_, g3) := g2.oper trig 0x201 (opmBits i) [a, b]
    ([], g3.mem lv)
  | .redAdd f | .redMin f | .redMax f | .redAnd f | .redOr f | .redXor f | .redFadd f | .redFmin f | .redFmax f =>
    let (a, g1) := g.address lv env trig f.space f.a 0
    let (b, g2) := g1.operand lv env (tyRegs f.ty) f.b
    let (_, g3) := g2.oper trig (opOf i) (opmBits i) [a, b]
    ([], g3.mem lv)
  | .fence _ =>
    let (_, g1) := g.oper trig 0x280 (opmBits i) []
    ([], g1.mem lv)
  | .garun f =>
    let (a, g1) := g.operand lv env 2 f.a
    let (_, g2) := g1.oper trig 0x342 (opmBits i) [a]
    ([], if f.xsp = 0 ∧ f.fsp = 2 then g2.mem lv else g2.fail)
  | .garow f =>
    let (a, g1) := g.operand lv env 2 f.a
    let (x, g2) := g1.oper trig 0x341 (opmBits i) [a]
    match f.d with
    | .v d => ([(d.toNat, x)] ++ (if nact = 0 then [] else [(d.toNat + 1, out2 x.node)]),
        { g2 with rows := g2.rows ++ [(x.node, g2.seqs.length)] })
    | _ => ([], g2.fail)
  | .tmv f => g.tmv lv env trig f
  | .cvtn f => g.cvtn lv env trig f
  | .cvtw f => g.cvtw lv env trig f
  | .addc f => g.carry lv env trig i false f
  | .subb f => g.carry lv env trig i true f
  | _ => match immForm i with
    | some f =>
      let (a, g1) := g.operand lv env 1 (.v f.a)
      let (x, g2) := g1.oper trig (opOf i) 0 [a, .num f.imm.toNat]
      g2.result x 1 false (.v f.d)
    | none =>
      if elemOf (opOf i / 64) [0, 1, 2, 5, 6, 7] then
        let args := (operandUses i).filter (fun u => decide (u.pos ≠ 0))
        let absent (u : OpUse) : Bool := decide (u.cls = .no) || (isCompare i && decide (u.pos = 3 ∧ u.o = .p 7))
        let (l, g1) := args.foldl (fun (acc : List LoopArg × Graph) u =>
          if absent u then (acc.1 ++ [.no], acc.2)
          else
            let (a, g1) := acc.2.operand lv env (useRegs u.cls) u.o
            (acc.1 ++ [a], g1)) ([], g)
        let (x, g2) := g1.oper trig (opOf i) (opmBits i) (trimNo l)
        match (operandUses i).find? (fun u => decide (u.pos = 0)) with
        | some u => match u.cls with
          | .dst n => g2.result x n (isCompare i) u.o
          | .no => ([], g2)
          | _ => ([], g2.fail)
        | none => ([], g2.fail)
      else ([], g.fail)

/-! Levels. -/

/-- A token in the lanes that stand at a point: that of any value. Where there is none, the level needs one of its values. -/
def Graph.trigger (g : Graph) (lv : Nat) (all : List Nat) (env : LoopEnv) : Src × Graph :=
  match env, all with
  | e :: _, _ => (e.2, g)
  | [], r :: _ => g.read lv env r
  | [], [] => (out1 0, g.fail)

/-- Steers values by a predicate's token: those of the lanes where it holds, and of the others. -/
def Graph.steerAll (g : Graph) (p : Src) (l : LoopEnv) : LoopEnv × LoopEnv × Graph :=
  l.foldl (fun acc e =>
    let (x, y, g1) := acc.2.2.steer e.2 p
    (acc.1 ++ [(e.1, x)], acc.2.1 ++ [(e.1, y)], g1)) ([], [], g)

/-- The value of a register where two paths meet: the two sides of one `STEER` are what it split. -/
def Graph.meet (g : Graph) (x y : Src) : Src × Graph :=
  if x = y then (x, g)
  else if x.node = y.node ∧ (g.nodes[x.node]?).map (fun t => t.op.toNat) = some 0x3C0 then
    match g.edges.find? (fun e => decide (e.2 = .slot x.node 0)) with
    | some e => (e.1, g)
    | none => g.join x y
  else g.join x y

/-- Reads registers. -/
def Graph.readAll (g : Graph) (lv : Nat) (env : LoopEnv) (l : List Nat) : LoopEnv × Graph :=
  l.foldl (fun acc r =>
    let (x, g1) := acc.2.read lv env r
    (acc.1 ++ [(r, x)], g1)) ([], g)

/-- The values where two paths meet. -/
def Graph.meetEnv (g : Graph) (lv : Nat) (x y : LoopEnv) : LoopEnv × Graph :=
  (regOrder (x.map Prod.fst ++ y.map Prod.fst)).foldl (fun acc r =>
    let (a, g1) := acc.2.read lv x r
    let (b, g2) := g1.read lv y r
    let (c, g3) := g2.meet a b
    (acc.1 ++ [(r, c)], g3)) ([], g)

/-- One instruction under its guard. Its operands are steered by the guard's predicate, and where that does not hold its destinations keep
their values. `all` are the level's values. -/
def Graph.guarded (g : Graph) (lv : Nat) (all : List Nat) (env : LoopEnv) (nact : Nat) (i : Instr) : LoopEnv × Graph :=
  let putAll (l : LoopEnv) : LoopEnv := l.foldl (fun e x => Store.put e x.1 x.2) env
  let reads := bodyReads i
  match guardOf i with
  | none => (env, g.fail)
  | some gd =>
    if gd.p = 7 then
      if gd.neg then (env, g)
      else
        let (trig, g1) := match reads with
          | r :: _ => g.read lv env r
          | [] => g.trigger lv all env
        let (l, g2) := g1.instr lv env trig nact i
        (putAll l, g2)
    else
      let (p, g1) := g.read lv env (predNo gd.p.toNat)
      let (vals, g2) := g1.readAll lv env (if reads = [] then [predNo gd.p.toNat] else reads)
      let (yes, no, g3) := g2.steerAll p vals
      let side := if gd.neg then no else yes
      let (l, g4) := g3.instr lv side ((side.head?.map Prod.snd).getD p) nact i
      let (m, g5) := l.foldl (fun (acc : LoopEnv × Graph) e =>
        let (old, g5) := acc.2.read lv env e.1
        let (x, g6) := g5.join e.2 old
        (acc.1 ++ [(e.1, x)], g6)) ([], g4)
      (putAll m, g5)

/-! Levels. -/

/-- What the walk along a level's body needs: the nest, the exits with their branches, the level and its loop, the registers that the level
carries, those that the loop nest writes, its `WADV` and `TAGPOP` contexts by register, and the columns of `GAROW`. -/
structure LoopWalk where
  nest : List LoopLevel
  exits : List (DWord × DWord)
  lv : Nat
  loop : LoopLevel
  carries : List Nat
  writes : List Nat
  advs : List (Nat × Nat)
  pops : List (Nat × Nat)
  nact : Nat

/-- Sends a register's value on where its lanes leave a level: to a south port as a live-out, or to the level's `TAGPOP`. `own` says that
the sender sends nothing else. -/
def LoopWalk.leave (w : LoopWalk) (g : Graph) (r : Nat) (x : Src) (own : Bool) : Graph :=
  if w.lv = 0 then
    if !elemOf r w.writes then g
    else
      let (y, g1) := if own then (x, g) else g.node (bareCtx 0x3C3 0 1 false 0) [x]
      { g1.wire y (.south (r % 8)) with liveout := g1.liveout ++ [(y.node, r)] }
  else match Store.find w.pops r with
    | some n => g.wire x (.slot n 0)
    | none => g.fail

/-- Sends a register's value to the level's next iteration. -/
def LoopWalk.next (w : LoopWalk) (g : Graph) (r : Nat) (x : Src) : Graph :=
  match Store.find w.advs r with
  | some n => g.wire x (.slot n 0)
  | none => g.fail

/-- The exit context of a branch, for the lanes where a token is nonzero (11 R319). -/
def LoopWalk.bexit (w : LoopWalk) (g : Graph) (a : DWord) (x : Src) : Graph :=
  match (w.exits.zipIdx.find? (fun e => decide (e.1.1 = a))).map Prod.snd with
  | some n => (g.node (bareCtx 0x3C6 0 1 false n) [x]).2
  | none => g.fail

/-- The values that an exit passes on: of the outermost level what the nest writes, of another what the level carries. -/
def LoopWalk.leaves (w : LoopWalk) : List Nat := if w.lv = 0 then w.carries.filter (fun r => elemOf r w.writes) else w.carries

/-- The predicate of a guard as tokens: itself, and its value where the guard holds. -/
def guardTok (g : Graph) (p : Src) (holds : Bool) : Src × Graph := if holds then (p, g) else g.not p

/-- A branch that leaves the level: `join` says that its lanes go to the level's join, else it starts a drain. It gives the values of the
lanes that stay (R322). -/
def LoopWalk.leaveBy (w : LoopWalk) (g : Graph) (a : DWord) (gd : Guard) (join : Bool) (env : LoopEnv) : Option LoopEnv × Graph :=
  let (env1, g1) := if join then
      let (l, g1) := g.readAll w.lv env w.leaves
      (l.foldl (fun e x => Store.put e x.1 x.2) env, g1)
    else (env, g)
  if gd.p = 7 then
    if gd.neg then (some env, g)
    else
      let (t, g2) := g1.trigger w.lv w.carries env1
      let (one, g3) := g2.const t 1
      let g4 := w.bexit g3 a one
      (none, if join then env1.foldl (fun g e => w.leave g e.1 e.2 (w.lv ≠ 0)) g4 else g4)
  else
    let (p, g2) := g1.read w.lv env1 (predNo gd.p.toNat)
    let (x, g3) := guardTok g2 p (!gd.neg)
    let g4 := w.bexit g3 a x
    let (yes, no, g5) := g4.steerAll p env1
    let (out, stay) := if gd.neg then (no, yes) else (yes, no)
    (some stay, if join then out.foldl (fun g e => w.leave g e.1 e.2 true) g5 else g5)

/-- The back edge: lanes that take it go to the next iteration, and the others leave (R322). -/
def LoopWalk.close (w : LoopWalk) (g : Graph) (a : DWord) (gd : Guard) (env : LoopEnv) : Graph :=
  let (vals, g1) := g.readAll w.lv env w.carries
  if gd.p = 7 then (if gd.neg then g1.fail else vals.foldl (fun g e => w.next g e.1 e.2) g1)
  else
    let (p, g2) := g1.read w.lv env (predNo gd.p.toNat)
    let (x, g3) := guardTok g2 p gd.neg
    let g4 := w.bexit g3 a x
    let (yes, no, g5) := g4.steerAll p vals
    let (stay, out) := if gd.neg then (no, yes) else (yes, no)
    out.foldl (fun g e => w.leave g e.1 e.2 true) (stay.foldl (fun g e => w.next g e.1 e.2) g5)

/-- Where a walk stands: the values of the lanes there, if any can be; those of lanes that have branched ahead; and the address from which
words count. -/
structure WalkAt where
  env : Option LoopEnv
  ahead : List (DWord × LoopEnv)
  from_ : Nat

/-- A forward branch within the level. -/
def LoopWalk.ahead (w : LoopWalk) (g : Graph) (x : WalkAt) (tgt : DWord) (gd : Guard) (env : LoopEnv) : WalkAt × Graph :=
  if gd.p = 7 then
    if gd.neg then (x, g) else ({ x with env := none, ahead := x.ahead ++ [(tgt, env)] }, g)
  else
    let (p, g1) := g.read w.lv env (predNo gd.p.toNat)
    let (yes, no, g2) := g1.steerAll p env
    let (go, stay) := if gd.neg then (no, yes) else (yes, no)
    ({ x with env := some stay, ahead := x.ahead ++ [(tgt, go)] }, g2)

/-- The walk's values at an address, with those of the lanes that branched to it. -/
def LoopWalk.rejoin (w : LoopWalk) (g : Graph) (x : WalkAt) (a : DWord) : WalkAt × Graph :=
  let (env, g1) := (x.ahead.filter (fun e => decide (e.1 = a))).foldl (fun (acc : Option LoopEnv × Graph) e => match acc.1 with
    | none => (some e.2, acc.2)
    | some env =>
      let (env1, g1) := acc.2.meetEnv w.lv env e.2
      (some env1, g1)) (x.env, g)
  ({ x with env := env, ahead := x.ahead.filter (fun e => decide (e.1 ≠ a)) }, g1)

/-- One word of a level's body. `inner` forms the loop inside the level from the values before it. -/
def LoopWalk.word (w : LoopWalk) (inner : LoopEnv → Graph → LoopEnv × Graph) (e : DWord × Instr) (acc : WalkAt × Graph) :
    WalkAt × Graph :=
  let (x, g) := w.rejoin acc.2 acc.1 e.1
  if e.1.toNat < x.from_ then acc
  else match x.env with
    | none => (x, g)
    | some env =>
      match w.nest[w.lv + 1]? with
      | some v =>
        if v.head = e.1 then
          let (env1, g1) := inner env g
          ({ x with env := some env1, from_ := v.branch.toNat + 8 },
            if v.join = v.branch + 8 then g1 else g1.fail)
        else plain x g env
      | none => plain x g env
where
  plain (x : WalkAt) (g : Graph) (env : LoopEnv) : WalkAt × Graph :=
    match e.2 with
    | .bra f =>
      let tgt := braTarget f e.1
      if e.1 = w.loop.branch then ({ x with env := none }, w.close g e.1 f.g env)
      else if e.1.toNat < tgt.toNat ∧ inLevel w.loop tgt then w.ahead g x tgt f.g env
      else
        let (env1, g1) := w.leaveBy g e.1 f.g (decide (tgt = w.loop.join)) env
        ({ x with env := env1 }, g1)
    | i =>
      let (env1, g1) := g.guarded w.lv w.carries env w.nact i
      ({ x with env := some env1 }, g1)

/-- A level of the nest: a `MERGE.first` at its head for each value that it reads before it writes it or that stands around it, a `WADV` for
each that it carries, and in an inner level a `TAGPSH` and a `TAGPOP` (R322). Every value `outer` around an inner level passes through it,
so that no token outside waits for a later iteration within, and the image never stalls (20 R491). `reads` are, by level, the values read
at its head. `n` bounds the levels left. -/
def loopLevel (l : List (DWord × Instr)) (nest : List LoopLevel) (exits : List (DWord × DWord)) (reads : List (List Nat)) (nact : Nat) :
    Nat → Nat → LoopEnv → Graph → LoopEnv × Graph
  | 0, _, env, g => (env, g.fail)
  | n + 1, lv, outer, g =>
    match nest[lv]? with
    | none => (outer, g.fail)
    | some v =>
      let body := l.filter (fun e => inLevel v e.1)
      let heads := regOrder (nthD reads lv [] ++ outer.map Prod.fst)
      let carries := regOrder (bodyWrites nact body ++ heads)
      let (merges, g1) := heads.foldl (fun (acc : LoopEnv × Graph) r =>
        let (m, g1) := acc.2.add (bareCtx 0x3C1 0 1 false 1)
        (acc.1 ++ [(r, out1 m)], if lv = 0 then { g1 with livein := g1.livein ++ [(m, r)] }
          else
            let (x, g2) := g1.read (lv - 1) outer r
            let (y, g3) := g2.node (bareCtx 0x3C4 2 1 false 0) [x]
            g3.wire y (.slot m 0))) ([], g)
      let (advs, g2) := carries.foldl (fun (acc : List (Nat × Nat) × Graph) r =>
        let (a, g2) := acc.2.add (bareCtx 0x3C2 1 1 false 0)
        let g3 := { g2 with carried := g2.carried ++ [(a, r)] }
        (acc.1 ++ [(r, a)], match Store.find merges r with
          | some m => g3.wire (out1 a) (.slot m.node 1)
          | none => g3)) ([], g1)
      let (pops, g3) := if lv = 0 then ([], g2) else carries.foldl (fun (acc : List (Nat × Nat) × Graph) r =>
        let (a, g3) := acc.2.add (bareCtx 0x3C5 3 1 false 0)
        (acc.1 ++ [(r, a)], { g3 with carried := g3.carried ++ [(a, r)] })) ([], g2)
      let w : LoopWalk := { nest := nest, exits := exits, lv := lv, loop := v, carries := carries, writes := bodyWrites nact l, advs := advs,
                            pops := pops, nact := nact }
      let (_, g4) := body.foldl (fun acc e => w.word (fun env g => loopLevel l nest exits reads nact n (lv + 1) env g) e acc)
        (({ env := some merges, ahead := [], from_ := 0 } : WalkAt), g3)
      (pops.foldl (fun e x => Store.put e x.1 (out1 x.2)) outer, g4)

/-- The graph of a nest, with what each level reads at its head found by trying: `n` bounds the tries. -/
def loopGraph (l : List (DWord × Instr)) (nest : List LoopLevel) (nact : Nat) : Nat → List (List Nat) → Option Graph
  | 0, _ => none
  | n + 1, reads =>
    let g := (loopLevel l nest (exitBranches l nest) reads nact nest.length 0 [] Graph.empty).2
    if !g.ok then none
    else if g.missing = [] then some g
    else loopGraph l nest nact n ((List.range nest.length).map (fun lv =>
      regOrder (nthD reads lv [] ++ (g.missing.filter (fun e => decide (e.1 = lv))).map Prod.snd)))

/-! Targets. -/

/-- Removes the `STEER` contexts that send nothing, latest first; what fed them may then send nothing. -/
def Graph.prune (g : Graph) : List (Src × Sink) × List Nat :=
  g.nodes.zipIdx.foldr (fun e acc =>
    if e.1.op.toNat = 0x3C0 ∧ acc.1.all (fun x => decide (x.1.node ≠ e.2)) then
      (acc.1.filter (fun x => match x.2 with
        | .slot n _ => decide (n ≠ e.2)
        | .south _ => true), e.2 :: acc.2)
    else acc) (g.edges, [])

/-- The target of a sink; contexts stand by their numbers until they are placed. -/
abbrev Wired : Type := TForm × Option Sink × Option Sink

/-- A sink that reaches all of a list: a chain of `FAN` contexts (11 R316). `base` is the number of the next context. -/
def fanOut : List Sink → List Wired → Nat → Option Sink × List Wired
  | [], l, _ => (none, l)
  | [x], l, _ => (some x, l)
  | x :: rest, l, base =>
    let (y, l1) := fanOut rest l base
    (some (.slot (base + l1.length) 0), l1 ++ [(bareCtx 0x3C3 0 1 false 0, some x, y)])

/-- The contexts with their targets: one for each output of a `STEER` or a `GAROW`, two for every other (06 R162). -/
def Graph.wired (g : Graph) : List (Nat × Wired) :=
  let (edges, gone) := g.prune
  let base := g.nodes.length
  let sinks (n : Nat) (second : Bool) : List Sink := (edges.filter (fun e => decide (e.1 = ⟨n, second⟩))).map Prod.snd
  let (own, fans) := g.nodes.zipIdx.foldl (fun (acc : List (Nat × Wired) × List Wired) e =>
    if elemOf e.2 gone then acc
    else if elemOf e.1.op.toNat [0x3C0, 0x341] then
      let (x, f1) := fanOut (sinks e.2 false) acc.2 base
      let (y, f2) := fanOut (sinks e.2 true) f1 base
      (acc.1 ++ [(e.2, e.1, x, y)], f2)
    else match sinks e.2 false with
      | [] => (acc.1 ++ [(e.2, e.1, none, none)], acc.2)
      | x :: rest =>
        let (y, f1) := fanOut rest acc.2 base
        (acc.1 ++ [(e.2, e.1, some x, y)], f1)) ([], [])
  own ++ fans.zipIdx.map (fun e => (base + e.2, e.1))

/-! The image of a placed graph. -/

/-- A register's number in an entry of a map, and whether it is a predicate's (R350). -/
def mapReg (r : Nat) : Nat × Bool := if r < 256 then (r, false) else (r - 256, true)

/-- The image of a graph whose contexts the placer has put at the given grid contexts, one for each in the graph's order, at origin 0; none
where they are not so many distinct ones, or the maps have more entries than an image holds (R349). -/
def placedGraph (g : Graph) (vd ver : Nat) (kdesc : DWord) (l : List (DWord × Instr)) (nest : List LoopLevel) (depth0 : Nat)
    (pos : List Nat) : Option Image :=
  let ws := g.wired
  let place := (ws.map Prod.fst).zip pos
  let at_ (n : Nat) : Nat := ((place.find? (fun e => decide (e.1 = n))).map Prod.snd).getD 0
  let target : Option Sink → Target
    | some (.slot n sl) => ⟨BitVec.ofNat 6 (at_ n / 8), BitVec.ofNat 3 (at_ n % 8), BitVec.ofNat 2 sl⟩
    | some (.south p) => ⟨BitVec.ofNat 6 p, 0, 3⟩
    | none => nilTarget
  let maps (m : List (Nat × Nat)) : List (Nat × Nat × Bool × Bool) :=
    (sortBy (fun (e : Nat × Nat) => e.2 * 2 ^ 16 + e.1) m).map (fun e => (at_ e.1, (mapReg e.2).1, false, (mapReg e.2).2))
  if pos.length ≠ ws.length ∨ !decide pos.Nodup ∨ pos.any (fun n => decide (512 ≤ n)) ∨ 127 < g.livein.length ∨ 127 < g.carried.length
      ∨ 127 < g.liveout.length then none
  else
    let cells := pos.map cellOf
    let im := finishImage
      { vd := vd, kdesc := kdesc, encv := ver, expl := false, tdepth := nest.length, heads := nest.map (fun v => v.head),
        joins := nest.map (fun v => v.join), ddepth := depth0,
        nodes := ws.foldl (fun acc e => Store.put acc (at_ e.1) { e.2.1 with t1 := target e.2.2.1, t2 := target e.2.2.2 }) [],
        livein := (maps g.livein).map (fun (e : Nat × Nat × Bool × Bool) => (e.1, 0, e.2.1, e.2.2.1, e.2.2.2)), carried := maps g.carried, liveout := maps g.liveout,
        exits := bodyExits l nest, seqs := g.seqs.zipIdx.map (fun e => (at_ e.1.1, e.2, e.1.2)), checksum := [],
        fw := cells.foldl (fun m c => Nat.max m (c % 8 + 1)) 1, fh := cells.foldl (fun m c => Nat.max m (c / 8 + 1)) 1, origin := 0,
        captured := none, withdrawn := false, levels := [], afterPop := [], rows := [], drain := [] }
    let im1 := { im with rows := sortBy (fun (e : Nat × Nat) => e.1) (g.rows.map (fun (e : Nat × Nat) => (at_ e.1, e.2))) }
    some { im1 with checksum := imageSum im1 }

end Sys2Proof.Machine
end

