-- ==== Sys2Proof/Machine/Jig.lean ====
section
/-! DEFINITION. `JIGLD` and `JIGST`, explicit blocks at their header, the placer, and cells that are fenced (11 R306 to R308, 12 R324, R343, 18 R440, 20 R484 to R489). -/

namespace Sys2Proof.Machine

/-! `JIGLD` (R307). -/

/-- The 64-byte pieces of an image that a lane reads: `n` of them from piece `i`. -/
def jigPieces (l a i n : Nat) : List Acc := (List.range n).map (fun j => { lane := l, addr := ((a + 64 * (i + j) : Nat) : Int), n := 64 })

/-- The bytes of the pieces, in order. -/
def readPieces (s : State) (c : Ctx) (ps : List (Acc × Place)) : List Byte × State :=
  let (vals, s1) := readAll s c 0 ps
  (vals.flatMap (fun v => (List.range 64).map (fun j => BitVec.ofNat 8 (v.2 / 2 ^ (8 * j)))), s1)

/-- JIG_INVALID of a lane (18 R451). -/
def jigFault (l reason : Nat) (addr : DWord) : FaultInfo := { cause := cJigInvalid, lanes := laneMask l, detail := reason, addr := addr }

/-- Whether an image holds `GAROW` or `GARUN` (18 R444). -/
def usesGae (im : Image) : Bool := im.nodes.any (fun e => decide (e.2.op = 0x341 ∨ e.2.op = 0x342))

/-- Adds a placement request to a core. -/
def addPlace (s : State) (core : Nat) (p : PlaceReq) : State :=
  setCore s core { getCore s core with places := (getCore s core).places ++ [p] }

def bodyJigld (f : RRaw) (s : State) (c : Ctx) : Res :=
  if c.g = 0 then .warp c.w
  else
    let l := lane0 c.g
    let base := src64 c.w f.a l
    let b := src32 c.w f.b l
    let form := ((jigPieces l base.toNat 0 2).filterMap (formFault c.kern .die 64 2)).head?
    let bits : Option FaultInfo :=
      if b &&& 0xFFFFFEC0 = 0 then none else some { cause := cOutOfRange, lanes := laneMask l, detail := 13, addr := base }
    match form.or bits with
    | some x => .fault x s
    | none =>
      withAccess s c .die 64 2 needR 0 true (jigPieces l base.toNat 0 2) (fun s1 ps =>
        let (h, s2) := readPieces s1 c ps
        match headBad c.kern.encv (jigHdr h) with
        | some r => .fault (jigFault l r base) s2
        | none =>
          withAccess s2 c .die 64 2 needR 0 true (jigPieces l base.toNat 2 ((jigHdr h).len / 64 - 2)) (fun s3 qs =>
            let (rest, s4) := readPieces s3 c qs
            match imageBad c.kern.encv (h ++ rest) with
            | some (r, o) => .fault (jigFault l r (base + w64 o)) s4
            | none =>
              let im := parseImage c.t.vd (h ++ rest)
              if usesGae im && !s4.fit.gae then .fault { cause := cUnitAbsent, lanes := laneMask l, detail := 0x0D, addr := base } s4
              else
                let origin := if b.getLsbD 8 then none else some (b.toNat % 64)
                .state (blockWarp (addPlace s4 c.core (.jig c.k c.i im origin f.d c.g)) c.k c.i .jig)))

/-- The end of a `JIGLD`: its status goes to its lanes and the warp goes on (R307). -/
def finishJigld (s : State) (k i : Nat) (dst : Opnd) (lanes : Word) (slot code : Nat) : State :=
  modWarp s k i (fun w => retire { writeLanes32 w lanes dst (fun _ => w32 (slot + code * 2 ^ 4)) with blocked := .ready })

/-- A load whose image has brought a drain section: its warps may enter the slot with their boundaries' ordinals. A section of another
task, or one that names a warp that the task lacks, that is in the lattice or that was last drained from another slot, is ignored
(12 R341, R351, 20 R489, log 17). -/
def keepOrdinals (s : State) (k slot code : Nat) (im : Image) : State :=
  match getTask s k with
  | none => s
  | some t =>
    let ok (e : DWord × Nat × Nat) : Bool := decide (e.1 = t.handle) && (getWarp t e.2.1).any (fun w =>
      w.lat.isNone && (match w.drained with
        | some d => decide (d.slot = slot)
        | none => true))
    if code < 2 && im.drain.all ok then im.drain.foldl (fun s e => modWarp s k e.2.1 (fun w => { w with reenter := some (slot, e.2.2) })) s
    else s

/-- Whether a partition's placements are host-assisted (12 R324). -/
def hostPlaces (s : State) (vd : Nat) : Bool := hostMode s (partOf vd) 1

/-- Removes the first placement request that is the given one. -/
def dropPlace (s : State) (core : Nat) (p : PlaceReq) : State :=
  setCore s core { getCore s core with places := (getCore s core).places.erase p }

/-- The placement request of a warp's `JIGLD`. -/
def jigReq (c : Core) (k i : Nat) : Option PlaceReq :=
  c.places.find? (fun p => match p with
    | .jig t w _ _ _ _ => decide (t = k ∧ w = i)
    | _ => false)

/-- A `JIGLD` ends whose origin its operand names, or that the search of host-assisted placement gives (R307, 12 R324, R353). -/
def execJigldComplete (x : WarpAt) (s : State) : Host.Outcome State Fault Refusal :=
  match warpAtSlot s x.core x.wslot with
  | none => .next s
  | some (k, i) => match jigReq (getCore s x.core) k i with
    | some (.jig t w im origin dst lanes) =>
      let p : PlaceReq := .jig t w im origin dst lanes
      match origin with
      | some o =>
        let ((slot, code), s1) := loadImage (dropPlace s x.core p) x.core im (fun _ => some o) 3
        .next (finishJigld (keepOrdinals s1 k slot code im) k i dst lanes slot code)
      | none =>
        if hostPlaces s im.vd then
          let ((slot, code), s1) := loadImage (dropPlace s x.core p) x.core im (fun c => searchOrigin c im) 3
          .next (finishJigld (keepOrdinals s1 k slot code im) k i dst lanes slot code)
        else .next s
    | _ => .next s

def execJigld (f : RRaw) (s : State) : Host.Outcome State Fault Refusal := warpInstr (.jigld f) s (fun c => bodyJigld f s c)

/-! `JIGST` (R308). -/

/-- What the warps of a task that were drained from a slot left. -/
def drainRecs (t : Task) (slot : Nat) : List (Nat × DrainRec) :=
  (List.range t.warps.length).filterMap (fun i => match (getWarp t i).bind (fun w => w.drained) with
    | some d => if d.slot = slot then some (i, d) else none
    | none => none)

/-- A sector of an image's bytes as a number. -/
def sectorVal (b : List Byte) (i : Nat) : Nat := leNat ((b.drop (16 * i)).take 16)

def bodyJigst (f : RRaw) (s : State) (c : Ctx) : Res :=
  if c.g = 0 then .warp c.w
  else
    let l := lane0 c.g
    let base := src64 c.w f.a l
    let b := src32 c.w f.b l
    match ((jigPieces l base.toNat 0 1).filterMap (formFault c.kern .die 64 2)).head? with
    | some x => .fault x s
    | none => match imageAt s c.core (b.toNat % 4) with
      | none => .warp (writeLanes c 1 f.d (fun _ => 0))
      | some im =>
        let bytes := imageBytes im c.t.handle (if b.getLsbD 8 then drainRecs c.t (b.toNat % 4) else [])
        let accs : List Acc := (List.range (bytes.length / 16)).map (fun i => { lane := l, addr := ((base.toNat + 16 * i : Nat) : Int), n := 16 })
        withAccess s c .die 16 2 needW 0 false accs (fun s1 ps =>
          let s2 := ps.zipIdx.foldl (fun s e => writePlace s c 16 l (sectorVal bytes e.2) e.1.2) s1
          .done (setWarp s2 c.k c.i (writeLanes c 1 f.d (fun _ => w64 bytes.length))))

def execJigst (f : RRaw) (s : State) : Host.Outcome State Fault Refusal := warpInstr (.jigst f) s (fun c => bodyJigst f s c)

/-! Explicit blocks (R343, R440). -/

/-- What the checks of a block give: its words and its join, a hold, or a fault. -/
inductive BlockRes where
  | ok (words : List DWord) (join : DWord)
  | held (b : Blocked)
  | fault (f : FaultInfo)
  deriving DecidableEq, Repr

/-- Whether a word may stand in a block with exits up to `last`: a BEXIT names one of them, and a WADV its register (R319, R346). -/
def blockWordOk (last : Nat) (i : Instr) : Bool :=
  exitOk last i && (match i with
    | .wadv t => t.immv
    | _ => true)

/-- Fetches the `n` words from an address, each decoded in its turn as a word of a block (step 2). -/
def blockWords (c : Ctx) (last n : Nat) (va : DWord) (acc : List DWord) (s : State) : BlockRes × State :=
  match n with
  | 0 => (.ok acc 0, s)
  | m + 1 => match fetchWord s c.core c.k c.i c.t c.w va with
    | (.held b, s1) => (.held b, s1)
    | (.fault f, s1) => (.fault f, s1)
    | (.word x, s1) => match decodeWord c.kern.encv true x with
      | .error (r, fld) => (.fault { cause := cIllegal, lanes := c.w.active, detail := fld * 2 ^ 8 + r, addr := va }, s1)
      | .ok i =>
        if blockWordOk last i then blockWords c last m (va + 8) (acc ++ [x]) s1
        else (.fault { cause := cIllegal, lanes := c.w.active, detail := 4 * 2 ^ 8 + 7, addr := va }, s1)

/-- The kind of a word's memory operation: some whether it writes, none where it is no memory operation (06 R168). -/
def memKind (w : DWord) : Option Bool :=
  match tBase (getT w) with
  | some (.ld _) | some (.fence _) => some false
  | some (.st _) | some (.garun _)
  | some (.redAdd _) | some (.redMin _) | some (.redMax _) | some (.redAnd _) | some (.redOr _) | some (.redXor _)
  | some (.redFadd _) | some (.redFmin _) | some (.redFmax _) => some true
  | _ => none

/-- Whether NMEM and STMASK match the block's words (step 3). -/
def memMatch (h : BlockHdr) (words : List DWord) : Bool :=
  let ks := words.filterMap memKind
  decide (ks.length = h.nmem.toNat) && (List.range 32).all (fun i => h.stmask.getLsbD i == nthD ks i false)

/-- One past the last register that an `INJ`, a `WADV` or a live-out target of a word names (step 4). A south port may take a pair, so
that it is checked as one where its sender's tokens are 64 bits wide (log 19). -/
def blockRegEnd (w : DWord) : Nat :=
  let t := getT w
  let named := if t.op = 0x3C7 ∨ t.op = 0x3C2 then (t.imm.extractLsb' 0 8).toNat + (if t.imm.getLsbD 8 then 2 else 1) else 0
  let wide := match tBase t with
    | some i => decide (fireRegs i = 2)
    | none => decide (t.op = 0x3C7) && t.imm.getLsbD 8
  let south (x : Target) : Nat :=
    if x.slot.toNat = 3 ∧ x.cell.toNat < 8 then (if wide then 2 * x.cell.toNat + 2 else x.cell.toNat + 1) else 0
  Nat.max named (Nat.max (south t.t1) (south t.t2))

/-- Steps 3 to 5 on the words of a block at H. -/
def blockFault (s : State) (c : Ctx) (h : BlockHdr) (words : List DWord) : Option FaultInfo :=
  let gae := words.any (fun w => decide ((getT w).op = 0x341 ∨ (getT w).op = 0x342))
  if !memMatch h words then some { cause := cIllegal, lanes := c.w.active, detail := 9 * 2 ^ 8 + 0x0C, addr := c.w.pc }
  else if gae && !s.fit.gae then some { cause := cUnitAbsent, lanes := c.w.active, detail := 0x0D, addr := c.w.pc }
  else match (List.range words.length).find? (fun i => decide (8 * c.kern.regs < blockRegEnd (nthD words i 0))) with
    | some i => some { cause := cOutOfRange, lanes := c.w.active, detail := 1, addr := c.w.pc + w64 (8 * (i + 1)) }
    | none =>
      let need := c.w.stack.length + h.nexit.toNat + 1
      if 64 < need then some (overflowFault c need) else none

/-- The checks of a block, and its join: that of its first exit-table entry (12 R346). -/
def checkBlockAt (s : State) (c : Ctx) (h : BlockHdr) : BlockRes × State :=
  match blockWords c h.nexit.toNat h.nword.toNat (c.w.pc + 8) [] s with
  | (.ok words _, s1) => match blockFault s1 c h words with
    | some f => (.fault f, s1)
    | none =>
      let ex := c.w.pc + w64 (8 * (h.nword.toNat + 1))
      match fetchWord s1 c.core c.k c.i c.t c.w ex with
      | (.word x, s2) => (.ok words (braJoin (getB x) ex), s2)
      | (.held b, s2) => (.held b, s2)
      | (.fault f, s2) => (.fault f, s2)
  | r => r

/-- The resident image of a block. -/
def blockSlot (s : State) (c : Ctx) : Option (Nat × Image) :=
  (getCore s c.core).slots.find? (fun e =>
    decide (e.2.vd = c.t.vd ∧ e.2.kdesc = c.kern.addr ∧ nthD e.2.heads 0 0 = c.w.pc) && e.2.expl && !e.2.withdrawn)

/-- A warp reaches a block header (R343, R440): it enters a resident image, resumes at the fallback entry of a withdrawn one, or waits
for the placer. -/
def bodyBlock (h : BlockHdr) (s : State) (c : Ctx) : Res :=
  match checkBlockAt s c h with
  | (.fault f, s1) => .fault f s1
  | (.held b, s1) => .state (blockWarp s1 c.k c.i b)
  | (.ok words join, s1) =>
    let im := blockImage c.t.vd c.kern c.w.pc h words join
    match blockSlot s1 c with
    | some (slot, res) => .state (enterImage s1 c.k c.i c.core slot res)
    | none =>
      if elemOf (c.t.vd, c.kern.addr, c.w.pc) (getCore s1 c.core).barred then
        .state (modWarp s1 c.k c.i (fun w => { w with pc := blockFallback im }))
      else .state (blockWarp (addPlace s1 c.core (.block c.k c.i im)) c.k c.i .block)

def execBlockEntry (h : BlockHdr) (s : State) : Host.Outcome State Fault Refusal :=
  warpInstr (.blockEntry h) s (fun c => bodyBlock h s c)

/-! The placer (R324, 20 R485). -/

/-- The columns of a `GAROW` under the GAE contexts of a task's warps, less one; none where they differ or a warp has none. -/
def loopNact (t : Task) : Option Nat :=
  match (t.warps.map (fun w => w.gctx.map gaeNact)).dedup with
  | [n] => n
  | _ => none

/-- The image that the capture unit's graph of a loop makes where the placer puts its contexts; none where the loop is not eligible, or the
lattice cannot hold its graph (R322 to R324, log 20). -/
def loopImage (s : State) (t : Task) (kern : Kernel) (l : List (DWord × Instr)) (depth : Nat) (pos : List Nat) : Option Image :=
  let nest := bodyLevels l
  let nact := (loopNact t).getD 0
  if !eligible l nest depth (t.warps.any (fun w => w.gctx.any (fun g => decide (2 ≤ gaeNact g)))) 
      || (bodyRow l && (loopNact t).isNone) || (bodyGae l && !s.fit.gae)
  then none
  else (loopGraph l nest nact 16 []).bind (fun g => placedGraph g t.vd kern.encv kern.addr l nest depth pos)

/-- The placer answers for a loop. -/
def placeLoop (s : State) (core task : Nat) (branch kdesc : DWord) (depth : Nat) (r : PlacerAnswer) : State :=
  match getTask s task, (getCore s core).monitor.find? (fun m => decide (m.task = task ∧ m.branch = branch)) with
  | some t, some m => match getWarp t 0, taskKernel s t with
    | some w, some kern =>
      let n := (branch - m.head).toNat / 8 + 1
      match if n ≤ 4096 ∧ kern.addr = kdesc then loopWords core task 0 t w kern.encv n m.head s else (none, s), r with
      | (some l, s1), .placed pos o => match loopImage s1 t kern l depth pos with
        | some im => match loadImage s1 core { im with captured := some (task, branch) } (fun _ => some o) 4 with
          | ((_, 0), s2) | ((_, 1), s2) => s2
          | (_, s2) => barLoop s2 task branch
        | none => barLoop s1 task branch
      | (_, s1), _ => barLoop s1 task branch
    | _, _ => s
  | _, _ => s

/-- The warps of a core that wait for the placer at a block's header. -/
def blockWaiters (c : Core) (h : DWord) : List (Nat × Nat) :=
  c.places.filterMap (fun p => match p with
    | .block k i im => if nthD im.heads 0 0 = h then some (k, i) else none
    | _ => none)

/-- The placer answers for an explicit block: every warp that waits for it looks again, or the warp resumes at the fallback entry. The
answer gives the block's row (R344). -/
def placeBlock (s : State) (core k i : Nat) (im : Image) (r : PlacerAnswer) : State :=
  let fail (s : State) : State := modWarp s k i (fun w => { w with blocked := .ready, pc := blockFallback im })
  match r with
  | .failed => fail s
  | .placed _ o => match loadImage s core im (fun _ => some o) 4 with
    | ((_, 0), s1) | ((_, 1), s1) =>
      let c := getCore s1 core
      let h := nthD im.heads 0 0
      let ws := (k, i) :: blockWaiters c h
      let s2 := setCore s1 core { c with places := c.places.filter (fun p => match p with
        | .block _ _ x => decide (nthD x.heads 0 0 ≠ h)
        | _ => true) }
      ws.foldl (fun s e => modWarp s e.1 e.2 reready) s2
    | (_, s1) => fail s1

/-- An image whose cells were fenced is placed again; a captured loop that fits nowhere goes back to the placer (20 R485). -/
def placeAgain (s : State) (core : Nat) (im : Image) : State :=
  match loadImage s core im (fun c => searchOrigin c im) 3 with
  | ((_, 0), s1) | ((_, 1), s1) => s1
  | ((_, 3), s1) => match im.captured with
    | some (t, b) => if latticeOff (getCore s1 core) then barLoop s1 t b else addPlace s1 core (.loop t b im.kdesc im.ddepth)
    | none => s1
  | (_, s1) => match im.captured with
    | some (t, b) => barLoop s1 t b
    | none => s1

/-- The bytes of an image at an address as the device reads them for a kernel of a VD; none where it cannot. -/
def devBytes (s : State) (core vd : Nat) (va : Nat) : Nat → Option (List Byte) × State
  | 0 => (some [], s)
  | n + 1 => match devBytes s core vd va n with
    | (some l, s1) => match resolve .none vd (dieOfCore core) (va + 64 * n) needR serviceFuel s1 with
      | (.ok 0 d (some pa), s2) =>
        if d = dieOfCore core ∧ poisonedRange s2 pa 64 = false then (some (l ++ rdList s2.mem pa 64), s2) else (none, s2)
      | (_, s2) => (none, s2)
    | (none, s1) => (none, s1)

/-- A prebuilt image is loaded, or ignored where it does not load (R324, 20 R489). -/
def placePrebuilt (s : State) (core vd : Nat) (kdesc addr : DWord) (r : PlacerAnswer) : State :=
  let ver := (s.jobs.find? (fun e => decide (e.2.vd = vd ∧ e.2.kernel.addr = kdesc))).map (fun e => e.2.kernel.encv)
  match ver, devBytes s core vd addr.toNat 2 with
  | some v, (some h, s1) =>
    if (headBad v (jigHdr h)).isSome ∨ addr.toNat % 64 ≠ 0 then s1
    else match devBytes s1 core vd addr.toNat ((jigHdr h).len / 64) with
      | (some b, s2) =>
        if (imageBad v b).isSome then s2
        else
          let im := parseImage vd b
          if usesGae im && !s2.fit.gae then s2
          else
            let pick (c : Core) : Option Nat := if hostPlaces s2 vd then searchOrigin c im else match r with
              | .placed _ o => some o
              | .failed => none
            (loadImage s2 core im pick 4).2
      | (none, s2) => s2
  | _, (_, s1) => s1

/-- The partition that holds a core's bay. -/
def partOfCore (s : State) (core : Nat) : Option Nat := (s.parts.find? (fun e => hasBay e.2 (bayOfCore core))).map Prod.fst

/-- Whether a cell of a core awaits triage (17 R429). -/
def cellTriage (s : State) (core : Nat) : Bool :=
  match (partOfCore s core).bind (getPart s) with
  | some p => p.triage.any (fun t => match t.place with
    | .cell c _ => decide (c = core)
    | _ => false)
  | none => false

/-- Whether the placer may answer a request now. -/
def placerTakes (s : State) (core : Nat) : PlaceReq → Bool
  | .jig _ _ im origin _ _ => origin.isNone && !hostPlaces s im.vd
  | .again _ => !cellTriage s core
  | _ => true

/-- The placer ends its oldest placement. -/
def execPlacerDone (core : Nat) (r : PlacerAnswer) (s : State) : Host.Outcome State Fault Refusal :=
  match (getCore s core).places.find? (placerTakes s core) with
  | none => .next s
  | some p =>
    let s1 := dropPlace s core p
    match p with
    | .loop t b kd d => .next (placeLoop s1 core t b kd d r)
    | .jig t i im _ dst lanes =>
      let pick (_ : Core) : Option Nat := match r with
        | .placed _ o => some o
        | .failed => none
      let ((slot, code), s2) := loadImage s1 core im pick 4
      .next (finishJigld (keepOrdinals s2 t slot code im) t i dst lanes slot code)
    | .block k i im => .next (placeBlock s1 core k i im r)
    | .again im => .next (placeAgain s1 core im)
    | .prebuilt vd kd a => .next (placePrebuilt s1 core vd kd a r)

/-! Fenced cells (20 R484, R485). -/

/-- Purges and frees the images of a core that satisfy `f`, and asks for each to be placed again. -/
def unplace (s : State) (core : Nat) (f : Image → Bool) : State :=
  let hit := (getCore s core).slots.filter (fun e => f e.2)
  let s1 := hit.foldl (fun s e => (slotWarps s core e.1 0 true).foldl (fun s w => purgeWarp s w.1 w.2 false) s) s
  let s2 := hit.foldl (fun s e => freeSlot s core e.1) s1
  let s3 := hit.foldl (fun s e => if e.2.withdrawn then s else addPlace s core (.again (moveImage e.2 0))) s2
  (latticeWarps s core).foldl (fun s e => leftLattice s core e.1) (wakeDrains s3 core)

/-- Whether an image has a context in a cell. -/
def inCell (cell : Nat) (im : Image) : Bool := im.nodes.any (fun e => decide (cellOf e.1 = cell))

/-- Fences a cell of a core: its images are purged and placed again, and the loss is posted. With 16 cells fenced the lattice of the core
is disabled, and no image stays. -/
def fenceCell (s : State) (core cell : Nat) : State :=
  let c := getCore s core
  if c.badcell.getLsbD cell then s
  else
    let bad := setBit c.badcell cell true
    let s1 := unplace s core (fun im => inCell cell im || decide (16 ≤ popCount bad))
    let s2 := setCore s1 core { getCore s1 core with badcell := bad }
    let s3 := { s2 with firex := { s2.firex with fences := Store.put s2.firex.fences core bad } }
    match partOfCore s3 core with
    | some p => postPartH s3 p { cause := cUnitLost, unit := 1, core := core, detail := cell + popCount bad * 2 ^ 8, info := bad }
    | none => s3

end Sys2Proof.Machine
end

