-- ==== Sys2Proof/Machine/Sched.lean ====
section
/-! DEFINITION. The dispatchers, writes of launch queues, launches over Zalna links, time slices and switches, and the runtime's adoption
answers (02 R64 to R70, 13 R354 to R372, 14 R387, R389, R398, 20 R496, 21 R515). -/

namespace Sys2Proof.Machine

/-! Launch queues (13 R354, R355). -/

/-- The place of a VD's queue header and records: stage 2 alone, with nothing marked; none in memory that is lost (21 R511). -/
def queuePlace (s : State) (vd : Nat) (off : Nat) : Option Nat :=
  let ipa := (getVd s vd).qbase.toNat + off
  match stage2 s vd (lowDie s (partOf vd)) ipa with
  | .ok l => (leafPa s (partOf vd) (teLoc l.entry) (teDie l.entry) (l.oa + ipa % l.size)).filter (fun pa => ownsPa s (partOf vd) pa && memUp s pa)
  | .error _ => none

/-- TAIL of a VD's queue; HEAD where the header has no place. -/
def queueTail (s : State) (vd : Nat) : DWord :=
  match queuePlace s vd 0 with
  | some pa => rd64 s pa
  | none => (getVd s vd).qhead

/-- Whether a VD has work (13 R370). -/
def hasWork (s : State) (vd : Nat) : Bool :=
  (getVd s vd).en && (s.jobs.any (fun e => decide (e.2.vd = vd)) || decide (queueTail s vd ≠ (getVd s vd).qhead))

/-- A wake write of a VD: a clamped partition begins to wake (14 R398). -/
def wakeWrite (s : State) (pn vd : Nat) : State :=
  match getPart s pn with
  | some p => match p.clamp with
    | .clamped cls => setPart s pn { p with clamp := .waking cls vd s.timeNs }
    | _ => s
  | none => s

/-- Word `w` of entry `i` of the Zalna launch table (13 R359). -/
def zWord (s : State) (i w : Nat) : DWord := Store.get 0 s.zlaunch (8 * i + w)
/-- The valid entries of the launch table. -/
def zValid (s : State) : List Nat := (s.zlaunch.filter (fun e => decide (e.1 % 8 = 0) && e.2.getLsbD 63)).map (fun e => e.1 / 8)
def zVdid (s : State) (i : Nat) : Nat := fld (zWord s i 0) 57 48

/-- Whether the Zalna network interface is a VD's producer (13 R355). -/
def zalnaProduces (s : State) (vd : Nat) : Bool :=
  !hostMode s (partOf vd) 6 && (zValid s).any (fun i => decide (zVdid s i = vd))

/-- A write of TAIL by the producer: it is performed, rings the dispatchers, and wakes a clamped partition (13 R355, R358). -/
def writeTail (s : State) (vd : Nat) (tail : DWord) : State :=
  match queuePlace s vd 0 with
  | some pa => wakeWrite (ringVd (wr64 s pa tail) vd) (partOf vd) vd
  | none => wakeWrite (ringVd s vd) (partOf vd) vd

/-- A host write of TAIL; one that breaks R355 is not performed and is reported (20 R495 reason 5). -/
def execTailWrite (vd : Nat) (tail : DWord) (s : State) : Host.Outcome State Fault Refusal :=
  if !(getVd s vd).en then .next s
  else if zalnaProduces s vd then .next (wakeWrite (postRefusal s vd cLaunchRefused 5 tail 0) (partOf vd) vd)
  else .next (writeTail s vd tail)

/-! Launches over Zalna links (13 R360, 21 R514, R515). -/

/-- The 64-bit words of a list of bytes. -/
def bytesWords (b : List Byte) (n : Nat) : List DWord :=
  (List.range n).map (fun j => w64 (bytesNat ((b.drop (8 * j)).take 8)))

/-- A dropped packet: posted to its VD's partition where its VDID names a valid entry, else only logged. -/
def zalnaDrop (s : State) (port reason src : Nat) (key : Word) (vd : Nat) : State :=
  let named := (zValid s).any (fun i => decide (zVdid s i = vd))
  let r : Rec :=
    { cause := cZalnaDrop, unit := 10, detail := reason + port * 2 ^ 8, addr := w64 vd, info := w64 (src % 2 ^ 16 * 2 ^ 32 + key.toNat),
      vd := vd, gen := if vd = 0 then 0 else (getVd s vd).gen }
  if named then postPartH s (partOf vd) r else logFirex s [] r

/-- Whether a Zalna port is fitted and carries traffic (21 R514). -/
def zalnaUp (s : State) (port : Nat) : Bool :=
  let dflt : LinkState := { failed := [], disabled := false }
  decide (port < 8) && s.fit.fourDies && s.fit.zports.getLsbD port
    && !(Store.get dflt s.zlinks (2 * port)).disabled && !(Store.get dflt s.zlinks (2 * port + 1)).disabled

/-- The network interface appends a record and then TAIL, each word where the queue's mapping puts it (13 R360). Where a word has no place
the record cannot be appended, and TAIL stays. -/
def zalnaAppend (s : State) (vd : Nat) (record : List Byte) : State :=
  let tail := queueTail s vd
  let off := 64 + 128 * (tail.toNat % 2 ^ (getVd s vd).qlog)
  let places := (List.range 16).filterMap (fun j => queuePlace s vd (off + 8 * j))
  if places.length = 16 then
    writeTail (((places.zip (bytesWords record 16)).foldl (fun s e => wr64 s e.1 e.2) s)) vd (tail + 1)
  else s

def execZalnaLaunchPacket (port src : Nat) (key : Word) (vd : Nat) (record : List Byte) (whole : Bool) (s : State) :
    Host.Outcome State Fault Refusal :=
  if !zalnaUp s port then .next s
  else if !whole ∨ record.length ≠ 128 then .next (zalnaDrop s port 4 src key vd)
  else if hostMode s (partOf vd) 6 then .next s
  else
    let es := (zValid s).filter (fun i =>
      decide (zVdid s i = vd ∧ fld (zWord s i 0) 47 32 = src ∧ fld (zWord s i 0) 31 0 = key.toNat))
    let kdesc := wordAt (bytesWords record 16) 0
    let allowed (i : Nat) : Bool := (List.range 7).any (fun j => decide (zWord s i (j + 1) ≠ 0 ∧ zWord s i (j + 1) = kdesc))
    if es.isEmpty then .next (zalnaDrop s port 1 src key vd)
    else if !es.any allowed then .next (zalnaDrop s port 2 src key vd)
    else if !(getVd s vd).en then .next s
    else if (queueTail s vd).toNat - (getVd s vd).qhead.toNat = 2 ^ (getVd s vd).qlog then .next (zalnaDrop s port 3 src key vd)
    else .next (zalnaAppend s vd record)

/-! The dispatcher (13 R362 to R366). -/

/-- What a dispatcher offers: a parked task, or an UNSTARTED one. -/
inductive Offer where
  | resumed (k : Nat)
  | fresh (j : Job) (ix : Nat)
  deriving DecidableEq, Repr

/-- The task of an offer. -/
def offerTask : Offer → Nat
  | .resumed k => k
  | .fresh j ix => taskKey j.vd (mkHandle j.num ix)

/-- The VD and kernel of an offer. -/
def offerKernel (s : State) : Offer → Option (Nat × Kernel)
  | .resumed k => (getTask s k).bind (fun t => (taskKernel s t).map (fun kn => (t.vd, kn)))
  | .fresh j _ => some (j.vd, j.kernel)

/-- The lowest UNSTARTED index of a job from `i` and below `hi`. -/
def unstartedFrom (s : State) (j : Job) (hi : Nat) : Nat → Nat → Option Nat
  | 0, _ => none
  | n + 1, i =>
    if hi ≤ i then none
    else if (Store.find j.done i).isNone ∧ (getTask s (taskKey j.vd (mkHandle j.num i))).isNone then some i
    else unstartedFrom s j hi n (i + 1)

/-- The next UNSTARTED task of a job on a die. -/
def nextUnstarted (s : State) (j : Job) (die : Nat) : Option Nat :=
  if elemOf die j.dies then
    let n := dieRank j die
    unstartedFrom s j (dieLo j (n + 1)) (j.done.length + s.tasks.length + 1) (dieLo j n)
  else none

/-- The level of a task: its job's priority (13 R362). -/
def taskLevel (s : State) (t : Task) : Nat := ((taskJob s t).map (fun j => j.prio)).getD 0

/-- The head of a level's resume list. -/
def resumeHead (s : State) (vd die lv : Nat) : Option Nat :=
  (minBy (fun e => e.2.runnableAt) (s.tasks.filter (fun e =>
    decide (e.2.vd = vd ∧ e.2.die = die ∧ e.2.st = .parkedRunnable) && decide (e.2.adopted = []) && decide (taskLevel s e.2 = lv)))).map Prod.fst

/-- The next task of the first job of a level's FIFO whose gate is open. -/
def fifoHead (s : State) (vd die lv : Nat) : Option (Job × Nat) :=
  let js := s.jobs.filter (fun e => decide (e.2.vd = vd ∧ e.2.prio = lv) && e.2.gateOpen && (nextUnstarted s e.2 die).isSome)
  (minBy (fun e => e.2.seq) js).bind (fun e => (nextUnstarted s e.2 die).map (fun ix => (e.2, ix)))

/-- What a level offers, in order. -/
def offers (s : State) (vd die lv : Nat) : List Offer :=
  ((resumeHead s vd die lv).map Offer.resumed).toList ++ ((fifoHead s vd die lv).map (fun e => Offer.fresh e.1 e.2)).toList

/-- Whether a task of a kernel fits on a core beside what it holds (13 R364). -/
def fitsOn (s : State) (core vd : Nat) (kn : Kernel) : Bool :=
  let u := needAdd (coreUse s core) (kernelNeed kn)
  let cs := coreConsts s core
  let x := (vd, kn.constAddr, kn.constLen)
  let all := if kn.constLen = 0 ∨ elemOf x cs then cs else x :: cs
  decide (residentCount s core < 16) && u.slots.all (fun n => decide (n ≤ 8)) && u.bytes.all (fun n => decide (n ≤ 131072))
    && decide (u.shared ≤ 786432) && decide ((all.map (fun e => e.2.2)).foldl (· + ·) 0 ≤ 131072)

/-- The rail of a core: key 2 × die + rail (14 R403). -/
def railOf (core : Nat) : Nat := 2 * (core / 48) + core % 48 / 24

/-- Whether a core runs: its die and its rail are up and it is not disabled (21 R506, R507). -/
def coreRuns (s : State) (core : Nat) : Bool :=
  dieUp s (dieOfCore core) && !(getCore s core).disabled
    && (match Store.get Rail.up s.rails (railOf core) with
        | .up | .droop => true
        | .shut | .disabled => false)

/-- The cores of a partition on a die that take tasks. -/
def partCores (s : State) (p : Part) (die : Nat) : List Nat :=
  ((List.range 48).map (fun i => 48 * die + i)).filter (fun c => hasBay p (bayOfCore c) && coreRuns s c)

/-- The core that a dispatcher chooses: most free register bytes, then most free warp slots, then the lowest number (13 R364). -/
def chooseCore (s : State) (p : Part) (die vd : Nat) (kn : Kernel) : Option Nat :=
  ((partCores s p die).filter (fun c => fitsOn s c vd kn)).foldl (fun best c => match best with
    | none => some c
    | some b =>
      if freeBytes s b < freeBytes s c ∨ (freeBytes s b = freeBytes s c ∧ freeSlots s b < freeSlots s c) then some c else some b) none

/-- The core for an offer, if any takes it; an UNSTARTED task needs room for its spill backing and its save block too (03 R81). -/
def offerCore (s : State) (p : Part) (die : Nat) (o : Offer) : Option Nat :=
  (offerKernel s o).bind (fun e =>
    let room := match o with
      | .resumed _ => true
      | .fresh _ _ => (taskRoom s e.1 die e.2).isSome
    if room then chooseCore s p die e.1 e.2 else none)

/-- Places an offered task. -/
def placeOffer (s : State) (core : Nat) : Offer → State
  | .resumed k => resumeTask s k core
  | .fresh j ix => placeNew s j ix core none

/-- Nanoseconds as fabric clocks of 1.65 GHz (14 R403). -/
def fabricClocks (ns : Nat) : Nat := ns * 165 / 100

/-- The list of a level that an offer heads: 0 for the resume list, 1 for the FIFO. -/
def offerList : Offer → Nat
  | .resumed _ => 0
  | .fresh _ _ => 1

/-- Notes which of a level's two heads wait without fitting: a head that is not the one noted begins to wait now. -/
def noteHeads (s : State) (pn die lv : Nat) (heads : List Offer) : State :=
  match getPart s pn with
  | none => s
  | some p =>
    let one (m : List (Nat × Nat × Nat)) (x : Nat) : List (Nat × Nat × Nat) :=
      let key := 8 * die + 2 * lv + x
      match heads.find? (fun o => decide (offerList o = x)), Store.find m key with
      | none, _ => Store.del m key
      | some o, some (k0, t0) => Store.put m key (if k0 = offerTask o then (k0, t0) else (offerTask o, s.timeNs))
      | some o, none => Store.put m key (offerTask o, s.timeNs)
    setPart s pn { p with headWait := one (one p.headWait 0) 1 }

/-- Whether an offered head of a level has failed to fit for 65,536 fabric clocks (13 R363). -/
def headOverdue (s : State) (pn die lv : Nat) (o : Offer) : Bool :=
  match (getPart s pn).bind (fun p => Store.find p.headWait (8 * die + 2 * lv + offerList o)) with
  | some (k, t) => decide (k = offerTask o ∧ 65536 ≤ fabricClocks (s.timeNs - t))
  | none => false

/-- Considers `n` levels from `lv`: the first offer that fits is placed, and an overdue head lets nothing lower be placed (13 R363). -/
def placeLevels (pn die vd : Nat) (p : Part) : Nat → Nat → State → State
  | 0, _, s => s
  | n + 1, lv, s =>
    let os := offers s vd die lv
    match os.findSome? (fun o => (offerCore s p die o).map (fun c => (o, c))) with
    | some (o, c) => placeOffer (noteHeads s pn die lv (os.filter (fun x => (offerCore s p die x).isNone))) c o
    | none =>
      let s1 := noteHeads s pn die lv os
      if os.any (headOverdue s1 pn die lv) then s1 else placeLevels pn die vd p n (lv + 1) s1

/-- The VD that a partition's dispatchers serve: the one that holds the slice while no switch is in progress (13 R362, R371). -/
def servedVd (s : State) (pn : Nat) : Option (Part × Nat) :=
  match getPart s pn with
  | some p => match p.cur with
    | some vd => if p.switchTo = none ∧ p.clamp = .awake then some (p, vd) else none
    | none => none
  | none => none

/-- A dispatcher's fabric clock for a partition (13 R363). -/
def execTaskPlacement (part die : Nat) (s : State) : Host.Outcome State Fault Refusal :=
  match servedVd s part with
  | some (p, vd) => if dieUp s die then .next (placeLevels part die vd p 4 0 s) else .next s
  | none => .next s

/-- Whether evicting a task lets a kernel's task fit on the core that it stands on. -/
def evictionFits (s : State) (k vd : Nat) (kn : Kernel) : Bool :=
  match (getTask s k).bind (fun t => t.core) with
  | some core => coreRuns s core && fitsOn (evictTask s k) core vd kn
  | none => false

/-- The resident task that a level-0 head displaces (13 R366): of level 2 or 3, in no nest, the lowest priority, then the latest placed. -/
def headVictim (s : State) (vd die : Nat) (kvd : Nat) (kn : Kernel) : Option Nat :=
  let l := s.tasks.filter (fun e =>
    decide (e.2.vd = vd ∧ e.2.die = die ∧ 2 ≤ taskLevel s e.2) && e.2.core.isSome && e.2.helper.isNone && decide (e.2.adopted = [])
      && decide (e.2.st = .running ∨ e.2.st = .waiting) && evictionFits s e.1 kvd kn)
  (l.foldl (fun best e => match best with
    | none => some e
    | some b =>
      if taskLevel s b.2 < taskLevel s e.2 ∨ (taskLevel s b.2 = taskLevel s e.2 ∧ b.2.placed < e.2.placed) then some e else some b)
    none).map Prod.fst

/-- Pre-empts a task: its warps issue no more, its lattice warps drain, and once none is left it is evicted (13 R371). -/
def preemptTask (s : State) (k : Nat) : State :=
  match taskLattice s k, getTask s k with
  | [], _ => evictTask s k
  | l, some t => l.foldl (fun s i => preemptWarp s k i .preempt) (setTask s k { t with evicting := true })
  | _, none => s

/-- The task that an offered level-0 head displaces, if any; none while one that it has displaced still drains. -/
def headFor (s : State) (die vd : Nat) (o : Offer) : Option Nat :=
  if s.tasks.any (fun e => decide (e.2.vd = vd ∧ e.2.die = die) && e.2.evicting) then none
  else (offerKernel s o).bind (fun e => headVictim s vd die e.1 e.2)

/-- A level-0 head that has waited too long displaces a task (13 R366). -/
def execDispatchHeadTimeout (part die : Nat) (s : State) : Host.Outcome State Fault Refusal :=
  match servedVd s part with
  | none => .next s
  | some (p, vd) =>
    match (offers s vd die 0).find? (fun o => headOverdue s part die 0 o && (offerCore s p die o).isNone) with
    | none => .next s
    | some o =>
      match headFor s die vd o with
      | some k => .next (preemptTask s k)
      | none => .next s

/-! Time slices and switches (13 R370 to R372, 14 R387). -/

/-- The next VD of a partition with work after VD `v`, ascending with wrap; `v` itself stands last. -/
def nextWithWork (s : State) (pn v : Nat) : Option Nat :=
  ((List.range 16).map (fun i => 16 * pn + (v % 16 + 1 + i) % 16)).find? (hasWork s)

/-- Ended tasks that hold an allocation alone return to their cores with their VD's context. -/
def reseatEnded (s : State) (vd : Nat) : State :=
  let back := s.tasks.filter (fun e => decide (e.2.vd = vd ∧ e.2.st = .ended))
  let s1 : State := { s with tasks := s.tasks.map (fun e =>
    if e.2.vd = vd ∧ e.2.st = .ended then (e.1, { e.2 with core := some e.2.lastCore }) else e) }
  back.foldl (fun s e => fitL1 s e.2.lastCore) s1

/-- Gives the slice to a VD: its context is restored, and its recorded ENGCTL writes act. -/
def takeSlice (s : State) (pn vd : Nat) : State :=
  match getPart s pn with
  | some p => applyEngRec (reseatEnded (setPart s pn { p with cur := some vd, switchTo := none, sliceFrom := s.timeNs }) vd) vd
  | none => s

/-- The lattice warps of a VD. -/
def vdLattice (s : State) (vd : Nat) : List (Nat × Nat) :=
  s.tasks.flatMap (fun e => if e.2.vd = vd then (taskLattice s e.1).map (fun i => (e.1, i)) else [])

/-- Begins a switch: placement and issue stop, and every lattice warp drains (13 R371 steps 1 and 2). -/
def startSwitch (s : State) (pn v next : Nat) : State :=
  match getPart s pn with
  | some p => (vdLattice s v).foldl (fun s e => preemptWarp s e.1 e.2 .preempt) (setPart s pn { p with switchTo := some next })
  | none => s

/-- The length of a VD's slice in nanoseconds (14 R384). -/
def sliceNs (v : Vd) : Nat := (if v.slice = 0 then 20 else v.slice) * 100000

/-- The slice of a partition's VD ends (13 R370). -/
def execTimeSliceEnd (part : Nat) (s : State) : Host.Outcome State Fault Refusal :=
  match getPart s part with
  | none => .next s
  | some p =>
    if p.switchTo.isSome ∨ p.clamp ≠ .awake then .next s
    else match p.cur with
      | none => match nextWithWork s part (16 * part + 15) with
        | some n => .next (takeSlice s part n)
        | none => .next s
      | some v =>
        if hasWork s v ∧ s.timeNs - p.sliceFrom < sliceNs (getVd s v) then .next s
        else match nextWithWork s part v with
          | none => .next s
          | some n => if n = v then .next (setPart s part { p with sliceFrom := s.timeNs }) else .next (startSwitch s part v n)

/-- The host pre-empts a VD (13 R371). -/
def execHostPreemptRequest (vd : Nat) (s : State) : Host.Outcome State Fault Refusal :=
  let pn := partOf vd
  match getPart s pn with
  | none => .next s
  | some p =>
    if p.cur = some vd ∧ p.switchTo = none ∧ p.clamp = .awake then .next (startSwitch s pn vd ((nextWithWork s pn vd).getD vd))
    else .next s

/-- What a core keeps through a flush and scrub (14 R387): the loop monitor, its saved engine operations, and what belongs to the core
itself. -/
def scrubCore (c : Core) : Core :=
  { Core.empty with
    monitor := c.monitor
    badcell := c.badcell
    copies := c.copies
    gaeq := c.gaeq.filter (fun e => match e.2.kind with
      | .run _ _ _ _ => true
      | _ => false)
    gaeTurn := c.gaeTurn
    stamp := c.stamp
    admStamp := c.admStamp
    disabled := c.disabled }

/-- Steps 4 and 5 of a switch: every resident task of the VD is evicted with its nest discarded, and the partition's slices, cores and TLBs
are flushed and scrubbed. -/
def switchOut (s : State) (pn vd : Nat) : State :=
  let tops := (s.tasks.filter (fun e => decide (e.2.vd = vd ∧ e.2.st ≠ .ended) && e.2.core.isSome)).map Prod.fst
  let s1 := tops.foldl evictNest s
  let s2 := { s1 with tasks := s1.tasks.map (fun e => if e.2.vd = vd ∧ e.2.st = .ended then (e.1, { e.2 with core := none }) else e) }
  match getPart s2 pn with
  | none => s2
  | some p => dropSlices { s2 with
      cores := s2.cores.map (fun e => if hasBay p (bayOfCore e.1) then (e.1, scrubCore e.2) else e)
      dtlb := s2.dtlb.map (fun e => (e.1, e.2.filter (fun x => decide (partOf x.vd ≠ pn)))) } (fun sl => hasBay p (sl / 4))

/-- Whether every unit of a VD has reached its stop point: no warp in the lattice and no `GAROW` whose rows go on. -/
def unitsStopped (s : State) (vd : Nat) : Bool :=
  (vdLattice s vd).isEmpty && s.cores.all (fun e => e.2.gaeq.all (fun q => match q.2.kind with
    | .row _ _ => decide (keyVd q.2.task ≠ vd ∨ q.2.st ≠ .going)
    | _ => true))

/-- The end of a switch (13 R371, 14 R387). -/
def execVdSwitchRestore (part : Nat) (s : State) : Host.Outcome State Fault Refusal :=
  match getPart s part with
  | none => .next s
  | some p => match p.cur, p.switchTo with
    | some v, some n => if unitsStopped s v ∧ p.clamp = .awake then .next (takeSlice (switchOut s part v) part n) else .next s
    | _, _ => .next s

/-! Host-assisted adoption (02 R70, 14 R389). -/

/-- The outcome of an answer, and the state that it leaves. -/
def answerAdopt (s : State) (vd k : Nat) (cand : DWord) : Nat × State :=
  match getTask s k with
  | none => (3, s)
  | some t =>
    if t.st ≠ .waiting then (3, s)
    else if cand = 0 then (5, s)
    else if nestDepth s k = 4 then (4, s)
    else match ownerState s vd t.die cand with
      | .waits _ | .other => (2, s)
      | c => match adopt s k c with
        | some s1 => (0, s1)
        | none => (1, s)

/-- A write of the candidate's handle (R389): an answer that names no outstanding request is ignored (17 R429). -/
def execAdoptAnswer (vd : Nat) (cand : DWord) (s : State) : Host.Outcome State Fault Refusal :=
  let v := getVd s vd
  let h := w64 (v.adoptWait.toNat % 2 ^ 48)
  if v.adoptWait.getLsbD 63 && elemOf h v.adoptReqs then
    let s1 := setVd s vd { v with adoptReqs := v.adoptReqs.erase h }
    let (code, s2) := answerAdopt s1 vd (taskKey vd h) (w64 (cand.toNat % 2 ^ 48))
    .next (setVd s2 vd { getVd s2 vd with adoptOut := code })
  else .next s

end Sys2Proof.Machine
end

