-- ==== Sys2Proof/Machine/Vm.lean ====
section
/-! DEFINITION. Walks, page-fault service, the answers of the host to page requests, invalidations, the dirty log, growth of the park
overflow region, and room in event queues (03 R92 to R98, 11 R304, 14 R393 to R395, 17 R428, 19 R459 to R465, R477, R478). -/

namespace Sys2Proof.Machine

/-! Walks and services. -/

/-- Whether an address is one that a walker of a die walks for a VD. -/
def walkable (s : State) (vd die : Nat) (va : DWord) : Bool :=
  decide (va.toNat < 2 ^ 56) && dieUp s die
    && (match getPart s (partOf vd) with
        | some p => partOnDie p die
        | none => false)

/-- A walk of an address for an access (03 R92 to R97): the leaf's A and D bits are set and the die's TLB is filled, or the walk ends at
an entry that R459 serves. -/
def execTableWalk (vd die : Nat) (va : DWord) (needs : BitVec 3) (s : State) : Host.Outcome State Fault Refusal :=
  if walkable s vd die va then .next (translate s .none vd die va.toNat needs true).2 else .next s

/-- One service of a failed translation (19 R459, R461): from a ring, or by a page request. -/
def serveOnce (s : State) (vd die : Nat) (va : DWord) (needs : Needs) : State :=
  match translate s .none vd die va.toNat needs false with
  | (x, s1) =>
    match serviceFor s1 vd die x, x with
    | .host, .pageFault _ _ ipa => serveHost s1 vd die ipa
    | .tenant, .pageFault _ _ ipa =>
      match serveTenant s1 vd die ipa with
      | (s2, none) => s2
      | (s2, some y) => match serviceFor s2 vd die y, y with
        | .host, .pageFault _ _ fr => serveHost s2 vd die fr
        | .request, _ => (pageRequest s2 (lowBay s2 (partOf vd) die) vd die va.toNat needW y 0 9 0).2
        | _, _ => s2
    | .request, _ => (pageRequest s1 (lowBay s1 (partOf vd) die) vd die va.toNat needs x 0 9 0).2
    | _, _ => s1

def execPageFaultService (vd die : Nat) (va : DWord) (needs : BitVec 3) (s : State) : Host.Outcome State Fault Refusal :=
  if walkable s vd die va then .next (serveOnce s vd die va needs) else .next s

/-! Answers to page requests (R463 to R465). -/

/-- The warps of a VD of which `f` holds. -/
def vdWarps (s : State) (vd : Nat) (f : Warp → Bool) : List (Nat × Nat) :=
  s.tasks.flatMap (fun e => if e.2.vd = vd then
      (List.range e.2.warps.length).filterMap (fun i => if (getWarp e.2 i).any f then some (e.1, i) else none)
    else [])

/-- The warps of a VD that hold on a tag. -/
def heldOn (tag : Nat) (w : Warp) : Bool :=
  match w.blocked with
  | .page tags _ => elemOf tag tags
  | _ => false

/-- The warps that hold because every tag was taken. -/
def heldUntagged (w : Warp) : Bool :=
  match w.blocked with
  | .page [] _ => true
  | _ => false

/-- The copy entries and GAE entries of a VD, by core. -/
def vdCopies (s : State) (vd : Nat) : List (Nat × Nat × CopyOp) :=
  s.cores.flatMap (fun e => (e.2.copies.filter (fun c => decide (keyVd c.2.task = vd))).map (fun c => (e.1, c.1, c.2)))
def vdGaeq (s : State) (vd : Nat) : List (Nat × Nat × GaeOp) :=
  s.cores.flatMap (fun e => (e.2.gaeq.filter (fun c => decide (keyVd c.2.task = vd))).map (fun c => (e.1, c.1, c.2)))

/-- Engine operations held in a state go on. -/
def engGo (s : State) (vd : Nat) (f : EngState → Bool) : State :=
  let s1 := (vdCopies s vd).foldl (fun s e => if f e.2.2.st then setCopy s e.1 e.2.1 { e.2.2 with st := .going } else s) s
  (vdGaeq s1 vd).foldl (fun s e => if f e.2.2.st then setGae s e.1 e.2.1 { e.2.2 with st := .going } else s) s1

/-- Whether an engine operation is held on a tag. -/
def engOn (tag : Nat) : EngState → Bool
  | .held t _ => decide (t = tag)
  | _ => false

/-- The lattice accesses held on a tag: warp, tag and level of the iteration. -/
def latHeld (s : State) (vd tag : Nat) : List (Nat × Nat × Tag × Nat) :=
  (vdLattice s vd).flatMap (fun e => match getRun s e.1 e.2 with
    | some r => (r.held.filter (fun h => decide (h.1 = tag))).map (fun h => (e.1, e.2, h.2.1, h.2.2))
    | none => [])

/-- The runs of a VD forget a tag. -/
def dropHeld (s : State) (vd tag : Nat) : State :=
  (vdLattice s vd).foldl (fun s e => modRun s e.1 e.2 (fun r => { r with held := r.held.filter (fun h => decide (h.1 ≠ tag)) })) s

/-- A tag frees, and the ranges of the walks that hold on it: the partition's accesses that found none look again. -/
def freeTag (s : State) (vd tag : Nat) : State :=
  let s1 := setVd s vd { getVd s vd with tags := Store.del (getVd s vd).tags tag }
  (List.range 16).foldl (fun s v => (vdWarps s (16 * partOf vd + v) heldUntagged).foldl (fun s e => modWarp s e.1 e.2 reready) s) s1

/-- Every access held on a tag walks again. -/
def retryTag (s : State) (vd tag : Nat) : State :=
  let s1 := dropHeld (freeTag s vd tag) vd tag
  let s2 := (vdWarps s1 vd (heldOn tag)).foldl (fun s e => modWarp s e.1 e.2 reready) s1
  let s3 := engGo s2 vd (engOn tag)
  if (getVd s3 vd).devHeld = some tag then holdDev s3 vd none else s3

/-- A held copy or run stops: with subcause 8 at its completion fill, else with subcause 2 (R467). -/
def refuseCopy (s : State) (core entry : Nat) (o : CopyOp) (va : DWord) : State :=
  copyBar s core entry o (if copyMoved o then .stop cCopyFault 8 (compAddr o.comp) else .stop cCopyFault 2 va)
def refuseGae (s : State) (core q : Nat) (o : GaeOp) (va : DWord) : State :=
  let moved := match o.kind with
    | .run nrow _ _ _ => decide (nrow ≤ o.progress)
    | _ => false
  gaeBar s core q o (if moved then .stop cCopyFault 8 (compAddr o.comp) else .stop cCopyFault 2 va)

/-- The dispatcher's held read is refused: it meets its fault at once (20 R494). -/
def refuseDev (s : State) (vd : Nat) (range : DWord) : State :=
  let s1 := launchStep vd (setVd s vd { getVd s vd with devHeld := none, refused := some range })
  setVd s1 vd { getVd s1 vd with refused := none }

/-- Every access held on a tag meets its fault as delivered. -/
def refuseTag (s : State) (vd tag : Nat) (rq : PageReq) : State :=
  let lats := latHeld s vd tag
  let warps := vdWarps s vd (heldOn tag)
  let s1 := dropHeld (freeTag s vd tag) vd tag
  let s2 := lats.foldl (fun s e => match (getTask s e.1).bind (fun t => t.core) with
    | some core => startDrain s e.1 e.2.1 core .fault e.2.2.1 e.2.2.2
    | none => s) s1
  let s3 := (vdCopies s2 vd).foldl (fun s e => match e.2.2.st with
    | .held t va => if t = tag then refuseCopy s e.1 e.2.1 e.2.2 va else s
    | _ => s) s2
  let s4 := (vdGaeq s3 vd).foldl (fun s e => match e.2.2.st with
    | .held t va => if t = tag then refuseGae s e.1 e.2.1 e.2.2 va else s
    | _ => s) s3
  let s5 := warps.foldl (fun s e => match (getTask s e.1).bind (fun t => getWarp t e.2) with
    | some w => match w.blocked with
      | .page _ f => takeFault (modWarp s e.1 e.2 reready) e.1 e.2 f
      | _ => s
    | none => s) s4
  if (getVd s5 vd).devHeld = some tag then refuseDev s5 vd rq.ipa else s5

/-- A stale answer is dropped, counted and posted (R465). -/
def staleAnswer (s : State) (vd : Nat) (pri : Bool) (word : DWord) : State :=
  let pn := partOf vd
  match getPart s pn with
  | none => s
  | some p => postPartH (setPart s pn { p with stalecnt := p.stalecnt + 1 }) pn
      { cause := cPageStale, unit := 11, detail := boolNat pri, addr := word, vd := vd, gen := (getVd s vd).gen }

/-- The host answers a page request (R463). -/
def execPresp (vd : Nat) (value : DWord) (s : State) : Host.Outcome State Fault Refusal :=
  let v := getVd s vd
  let tag := fld value 45 40
  let code := fld value 33 32
  if code = 0 ∨ code = 3 then .next s
  else if fld value 63 48 ≠ v.gen.toNat then .next (staleAnswer s vd false value)
  else match (Store.find v.tags tag).filter (fun rq => rq.pri.isNone) with
    | none => .next (staleAnswer s vd false value)
    | some rq => if code = 1 then .next (retryTag s vd tag) else .next (refuseTag s vd tag rq)

/-- Every copy held on a PRI request that has failed stops with subcause 6 (19 R464). -/
def failPri (s : State) (vd tag : Nat) : State :=
  let copies := vdCopies s vd
  (copies).foldl (fun s e => match e.2.2.st with
    | .held t va => if t = tag then copyBar s e.1 e.2.1 e.2.2 (.stop cCopyFault 6 va) else s
    | _ => s) (freeTag s vd tag)

/-- The host answers a PRI request of a copy engine (R464): the chunk's translation is tried again, or the copy stops with subcause 6. The page
names the request, and every copy that waits for it; the core and the entry of the copy that asked say no more (log 51). -/
def execPriResponse (vd gen : Nat) (page : DWord) (_core _entry : Nat) (ok : Bool) (s : State) : Host.Outcome State Fault Refusal :=
  let v := getVd s vd
  if gen ≠ v.gen.toNat then .next (staleAnswer s vd true page)
  else match v.tags.find? (fun t => decide (t.2.ipa.toNat / 4096 = page.toNat / 4096) && t.2.pri.isSome) with
    | none => .next (staleAnswer s vd true page)
    | some (tag, _) => .next (if ok then retryTag s vd tag else failPri s vd tag)

/-! Invalidations (11 R304, 03 R98). -/

/-- A write of an invalidation control register from a register window. -/
def execInvalidateStart (vd : Nat) (stage2 : Bool) (value : Word) (s : State) : Host.Outcome State Fault Refusal :=
  if !stage2 && value.getLsbD 2 then .next s else .next (writeInvCtl s vd stage2 value)

/-- The oldest invalidation completes: no later access uses what it discards, and one of SIZE 3 lets walks use the S1ROOT that stood when
it started (14 R383). -/
def execInvalidationComplete (vd : Nat) (s : State) : Host.Outcome State Fault Refusal :=
  let v := getVd s vd
  match v.invq with
  | [] => .next s
  | iv :: rest =>
    let q := match rest with
      | [] => []
      | x :: t => { x with root := v.s1root } :: t
    let v1 := { v with invq := q, s1eff := if iv.size = 3 then iv.root else v.s1eff }
    .next (invalTlbs (setVd s vd v1) vd iv)

/-! The dirty log (14 R394, 19 R478). -/

/-- Accesses held on the dirty log, or on a range that is not restored, look again. -/
def releaseDirty (s : State) (vd : Nat) : State :=
  let s1 := (vdWarps s vd (fun w => decide (w.blocked = .dirty))).foldl (fun s e => modWarp s e.1 e.2 reready) s
  engGo s1 vd (fun st => decide (st = .heldDirty))

/-- The host has consumed entries: below 7/8 of the ring throttling ends. -/
def execDlheadWrite (vd : Nat) (value : DWord) (s : State) : Host.Outcome State Fault Refusal :=
  let v := { getVd s vd with dlhead := value }
  let low := decide (8 * dlUsed v < 7 * dlSize v)
  let v1 := { v with
    thr := v.thr && !low
    dlFullSince := if dlUsed v < dlSize v then none else v.dlFullSince }
  if low then .next (releaseDirty (setVd s vd v1) vd) else .next (setVd s vd v1)

/-- A ring that has stayed full for 100 ms: logging ends, and the held settings go on unlogged. The throttle ends with the log. -/
def execDirtyLogFull (vd : Nat) (s : State) : Host.Outcome State Fault Refusal :=
  let v := getVd s vd
  match v.dlFullSince with
  | none => .next s
  | some t =>
    if v.logen ∧ dlSize v ≤ dlUsed v ∧ 100000000 ≤ s.timeNs - t then
      let s1 := releaseDirty (setVd s vd { v with logen := false, ovf := true, thr := false, dlFullSince := none }) vd
      .next (postVd s1 vd false { cause := cDirtyFull, vd := vd, gen := v.gen })
    else .next s

/-! Growth of the park overflow region (19 R477). -/

/-- The warps of a partition on a die that hold for a park record. -/
def parkHolders (s : State) (pn die : Nat) : List (Nat × Nat × FaultInfo) :=
  s.tasks.flatMap (fun e => if partOf e.2.vd = pn ∧ e.2.die = die then
      (List.range e.2.warps.length).filterMap (fun i => match ((getWarp e.2 i).map (fun w => w.blocked) : Option Blocked) with
        | some (.parkRoom f) => some (e.1, i, f)
        | _ => none)
    else [])

/-- The region grows, and the held warps look again. -/
def growPark (s : State) (pn die records : Nat) : State :=
  match getPart s pn with
  | none => s
  | some p =>
    let cap := Nat.min 983040 (Store.get 32768 p.parkCap die + records)
    let s1 := setPart s pn { p with parkCap := Store.put p.parkCap die cap, growReq := p.growReq.erase die }
    (parkHolders s1 pn die).foldl (fun s e => modWarp s e.1 e.2.1 reready) s1

/-- Growth is refused: the held warps raise PARK_TABLE_FULL. -/
def refusePark (s : State) (pn die : Nat) : State :=
  match getPart s pn with
  | none => s
  | some p =>
    let s1 := setPart s pn { p with growReq := p.growReq.erase die }
    (parkHolders s1 pn die).foldl (fun s e => match (getTask s e.1).bind (fun t => getWarp t e.2.1) with
      | some _ => takeFault (modWarp s e.1 e.2.1 reready) e.1 e.2.1 e.2.2
      | none => s) s1

/-- Whether a growth request of a die is outstanding in a mode. -/
def growAsked (s : State) (pn die : Nat) (host : Bool) : Bool :=
  match getPart s pn with
  | some p => elemOf die p.growReq && (p.pmode.getLsbD 2 == host)
  | none => false

/-- Firex extends the region from the partition's reserve, or has none left. -/
def execParkGrowthHw (part die : Nat) (granted : Bool) (s : State) : Host.Outcome State Fault Refusal :=
  if !growAsked s part die false then .next s
  else if granted && decide (parkCapOf s part die < 983040) then .next (growPark s part die 2048)
  else .next (refusePark s part die)

/-- Whether PKGROW names a range of the partition's own die memory, with every other bit zero. -/
def pkgrowOk (s : State) (pn : Nat) (value : DWord) : Bool :=
  decide (fld value 53 52 = 0 ∧ fld value 15 0 = 0)
    && (match getPart s pn with
        | some p => decide (fld value 51 16 * 2 ^ 16 + fld value 63 56 * 2 ^ 16 ≤ dieWindow p (fld value 55 54))
        | none => false)

/-- The range that PKGROW names joins the park overflow region. -/
def addParkArea (s : State) (pn : Nat) (value : DWord) : State :=
  match getPart s pn with
  | none => s
  | some p => setPart s pn { p with areas := p.areas ++
      [{ kind := .park, die := fld value 55 54, base := fld value 51 16 * 2 ^ 16, size := fld value 63 56 * 2 ^ 16 }] }

/-- The host adds 64 KiB steps to the region. -/
def execPkgrowGrant (part : Nat) (value : DWord) (s : State) : Host.Outcome State Fault Refusal :=
  let die := fld value 55 54
  if fld value 63 56 = 0 ∨ !growAsked s part die true then .next s
  else if pkgrowOk s part value && decide (parkCapOf s part die < 983040) then
    .next (addParkArea (growPark s part die (2048 * fld value 63 56)) part value)
  else .next (refusePark s part die)

/-- The host refuses growth with STEPS 0. -/
def execPkgrowRefuse (part : Nat) (value : DWord) (s : State) : Host.Outcome State Fault Refusal :=
  let die := fld value 55 54
  if fld value 63 56 = 0 ∧ growAsked s part die true then .next (refusePark s part die) else .next s

/-! Event queues (17 R428). -/

/-- Held entries are written while their queue has room. -/
def execEventQueueRoom (q : QueueId) (s : State) : Host.Outcome State Fault Refusal :=
  match q with
  | .vd n => .next (drainHeldVd s n (getVd s n).held.length)
  | .part p => match getPart s p with
    | some x => .next (drainHeldPart s p x.held.length)
    | none => .next s

end Sys2Proof.Machine
end

