-- ==== Sys2Proof/Machine/Host.lean ====
section
/-! DEFINITION. Creating, ending and resetting virtual devices, CXL.mem accesses of the host, clamping and wake (04 R119, 14 R382 to R399,
17 R429, 19 R471, R479, 21 R501, R502, R511). -/

namespace Sys2Proof.Machine

/-! Virtual devices (14 R384 to R386). -/

/-- Fields of VDCFG. -/
def cfgEn (x : DWord) : Bool := x.getLsbD 63
def cfgWcls (x : DWord) : Nat := fld x 62 61
def cfgSlice (x : DWord) : Nat := fld x 60 53
def cfgQlog (x : DWord) : Nat := fld x 52 49
def cfgIdle (x : DWord) : Nat := fld x 48 41

/-- The far blocks of a partition that hold no reserved region, ascending. -/
def freeFar (s : State) (pn : Nat) : List Nat := (farBlocks s pn).filter (fun b => (Store.find s.firex.reserved b).isNone)

/-- Blocks that the save area of a partition takes: two for each bay. -/
def saveNeed (p : Part) : Nat := 2 * popCount p.bays

/-- The reason for which creation is refused, 0 for none (R385, R386). -/
def createRefusal (s : State) (p : Part) (pn : Nat) (cfg : DWord) : Nat :=
  let w := cfgWcls cfg
  if w = 3 ∨ (w = 0 ∧ !s.fit.wzero) ∨ (w = 2 ∧ !s.fit.farm) then 1
  else if cfgQlog cfg < 4 ∨ 12 < cfgQlog cfg then 3
  else if w = 2 ∧ saveBlocks s pn = [] ∧ ((freeFar s pn).filter (fun b => !farLost s b)).length < saveNeed p then 2
  else 0

/-- Reserves the save area at the first W2 VD's creation. -/
def reserveSave (s : State) (p : Part) (pn : Nat) : State :=
  if saveBlocks s pn ≠ [] then s
  else
    let l := ((freeFar s pn).filter (fun b => !farLost s b)).take (saveNeed p)
    { s with firex := { s.firex with reserved := l.foldl (fun m b => Store.put m b pn) s.firex.reserved } }

/-- A VD with its context cleared and its generation increased: what the tenant and the device hold for it goes, and what the host owns
stays (R386, 19 R465). -/
def clearedVd (v : Vd) : Vd :=
  { v with
    gen := v.gen + 1
    s1root := 0
    s1eff := 0
    invva := 0
    invsize := 0
    invq := []
    tff := FrameRing.reset
    adoptWait := 0
    adoptOut := 0
    adoptReqs := []
    tags := []
    devHeld := none
    refused := none
    engRec := []
    rung := false
    stopped := false
    held := [] }

/-- Sets HEAD in the device's copy, and in the queue's header where that can be written. -/
def writeHead (s : State) (vd : Nat) (h : DWord) : State :=
  let v := getVd s vd
  match queueWord s vd (v.qbase.toNat + 8) needW with
  | (.ok pa, s1) => wr64 (setVd s1 vd { getVd s1 vd with qhead := h }) pa h
  | (_, s1) => setVd s1 vd { getVd s1 vd with qhead := h }

/-- The clear of R386: engine operations end, every job is killed, unread records are discarded, and the context is cleared. -/
def clearVd (s : State) (vd : Nat) : State :=
  let s1 := abortOps s (fun k => decide (keyVd k = vd))
  let s2 := ((s1.jobs.filter (fun e => decide (e.2.vd = vd))).map (fun e => e.2.num)).foldl (fun s n => killJob s vd n cJobKilled) s1
  let s3 := writeHead s2 vd (queueTail s2 vd)
  let s4 := { s3 with tasks := s3.tasks.filter (fun e => decide (e.2.vd ≠ vd)), futs := s3.futs.filter (fun e => decide (e.1 ≠ vd)) }
  invalTlbs (setVd s4 vd (clearedVd (getVd s4 vd))) vd { stage2 := false, va := 0, size := 3, root := 0 }

/-- A write of VDCFG (R384): it creates the VD, ends it, or sets its slice and idle time. -/
def writeVdcfg (s : State) (vd : Nat) (cfg : DWord) : State :=
  let pn := partOf vd
  match getPart s pn with
  | none => s
  | some p =>
    let v := getVd s vd
    let v1 := { v with slice := cfgSlice cfg, idle := cfgIdle cfg }
    let v2 := if v.en then v1 else { v1 with wcls := cfgWcls cfg, qlog := cfgQlog cfg }
    if v.en then
      if cfgEn cfg then setVd s vd v1
      else
        let s1 := clearVd (setVd s vd v1) vd
        setVd s1 vd { getVd s1 vd with en := false }
    else if cfgEn cfg then
      let why := createRefusal s p pn cfg
      if why ≠ 0 then setVd s vd { v2 with cerr := why }
      else
        let s1 := setVd s vd { v2 with cerr := 0 }
        let s2 := clearVd (if cfgWcls cfg = 2 then reserveSave s1 p pn else s1) vd
        setVd s2 vd { getVd s2 vd with en := true, idleSince := s.timeNs, invva2 := 0, invsize2 := 0 }
    else setVd s vd v2

def execVdCreate (vd : Nat) (cfg : DWord) (s : State) : Host.Outcome State Fault Refusal :=
  if vd < 1024 ∧ !(getVd s vd).en ∧ cfgEn cfg then .next (writeVdcfg s vd cfg) else .next s

def execVdDisable (vd : Nat) (cfg : DWord) (s : State) : Host.Outcome State Fault Refusal :=
  if (getVd s vd).en ∧ !cfgEn cfg then .next (writeVdcfg s vd cfg) else .next s

def execVdreset (vd : Nat) (s : State) : Host.Outcome State Fault Refusal :=
  if (getVd s vd).en then .next (clearVd s vd) else .next s

/-- A function-level reset of a VD's virtual function acts as a write of 1 to VDRESET (R386). -/
def execFunctionLevelReset (vd : Nat) (s : State) : Host.Outcome State Fault Refusal :=
  if (getVd s vd).en then .next (clearVd s vd) else .next s

/-! CXL.mem accesses of the host (04 R119, 14 R391). -/

/-- A write to WAKE in a VD's host or tenant window (R398). -/
def execWake (vd : Nat) (s : State) : Host.Outcome State Fault Refusal := .next (wakeWrite s (partOf vd) vd)

/-- The VDs of a partition that exist. -/
def partVds (s : State) (pn : Nat) : List Nat := ((List.range 16).map (fun i => 16 * pn + i)).filter (fun v => (getVd s v).en)

/-- A host access to a partition's window: it wakes the partition, and its VDs stop being idle (R396, R398). -/
def hostTouch (s : State) (pn : Nat) : State := (partVds s pn).foldl touchVd (wakeWrite s pn 0)

/-- The bytes of a window that a host access reaches. -/
def accOffs (a : HostAcc) : List Nat := (List.range (if a.write then a.data.length else a.len)).map (fun i => a.off + i)

/-- Whether a host access lies, with some byte, in a partition's window. -/
def inWindow (s : State) (pn : Nat) (a : HostAcc) : Bool := (accOffs a).any (fun o => (windowPa s pn o).isSome)

/-- Whether the host reaches a die: its port is on die 0, and the boundaries between carry its traffic (01 R18, 21 R507, R509). -/
def hostDie (s : State) (d : Nat) : Bool := dieUp s 0 && dieUp s d && diesMeet s 0 d

/-- Whether the host reaches a physical address: its die, or the channel of its far block (21 R507, R509, R511). -/
def hostReach (s : State) (pa : Nat) : Bool :=
  match paDie pa with
  | some d => hostDie s d
  | none => !farLost s (farBlockOf pa) && hostDie s (channelDie s (blockChannel (farBlockOf pa)))

/-- The place of a byte of a window. -/
def hostByte (s : State) (pn off : Nat) : Option Nat := (windowPa s pn off).bind (fun pa => if hostReach s pa then some pa else none)

/-- Writes bytes at physical addresses; sectors that are written whole are no longer poisoned (19 R479). -/
def hostWrite (s : State) (l : List (Nat × Byte)) : State :=
  let mem := l.foldl (fun m e => wrByte m e.1 e.2) s.mem
  let whole (sec : Nat) : Bool := (List.range 16).all (fun i => l.any (fun e => decide (e.1 = 16 * sec + i)))
  let secs := ((l.map (fun e => e.1 / 16)).dedup).filter whole
  secs.foldl (fun s sec => setPoison s (16 * sec) false) { s with mem := mem }

/-- Whether bytes of a write lie in the records of a VD's launch queue. -/
def hitsRecords (s : State) (vd : Nat) (l : List (Nat × Byte)) : Bool :=
  (List.range (2 * 2 ^ (getVd s vd).qlog)).any (fun n => match queuePlace s vd (64 + 64 * n) with
    | some pa => l.any (fun e => decide (pa ≤ e.1 ∧ e.1 < pa + 64))
    | none => false)

/-- Whether bytes of a write lie in TAIL of a VD's launch queue. -/
def hitsTail (s : State) (vd : Nat) (l : List (Nat × Byte)) : Bool :=
  match queuePlace s vd 0 with
  | some pa => l.any (fun e => decide (pa ≤ e.1 ∧ e.1 < pa + 8))
  | none => false

/-- A CXL.mem write of the host is performed. Where the Zalna interface is the producer of a queue that it names, it is not performed and
is reported with its first 8 bytes (13 R355); a write of TAIL rings the VD. -/
def hostStore (s : State) (part : Nat) (a : HostAcc) : State :=
  let l := (a.data.zip (accOffs a)).filterMap (fun (b, o) => (hostByte s part o).map (fun pa => (pa, b)))
  match (partVds s part).find? (fun v => zalnaProduces s v && (hitsTail s v l || hitsRecords s v l)) with
  | some v => postRefusal s v cLaunchRefused 5 (w64 (bytesNat (a.data.take 8))) 0
  | none => ((partVds s part).filter (fun v => hitsTail s v l)).foldl ringVd (hostWrite s l)

/-- What a host read of a byte gives, and whether it carries CXL poison: all ones outside the window, or with poison where memory is
lost. -/
def hostRead (s : State) (pn off : Nat) : Byte × Bool :=
  match windowPa s pn off with
  | none => (0xFF, false)
  | some pa => if hostReach s pa then (rdByte s.mem pa, poisoned s pa) else (0xFF, true)

/-- A CXL.mem read of the host is performed: it changes nothing but that a poisoned sector that it consumes is reported to Firex
(19 R479). -/
def hostLoad (s : State) (part : Nat) (a : HostAcc) : State :=
  let bad := (accOffs a).filterMap (fun o => match hostByte s part o with
    | some pa => if (hostRead s part o).2 then some (pa / 16) else none
    | none => none)
  bad.dedup.foldl (fun s sec => reportSector s sec [part] { cause := cDataError, unit := 8, addr := w64 (16 * sec) }) s

/-- Performs a host access, where its partition is awake and the ranges that it reaches are restored; the first of them that is not is
demanded. Answers whether it is done. -/
def hostPerform (s : State) (part : Nat) (a : HostAcc) : Bool × State :=
  let awake := match getPart s part with
    | some p => decide (p.clamp = .awake)
    | none => true
  if !awake then (false, s)
  else match firstSome (fun o => (hostByte s part o).bind (unrestoredAt s part)) (accOffs a) with
    | some r => (false, demandRange s part r)
    | none => (true, if a.write then hostStore s part a else hostLoad s part a)

/-- Goes through the host accesses that wait for a partition, in their order (14 R398, R399). -/
def serveHostq (s : State) (part : Nat) : State :=
  match getPart s part with
  | none => s
  | some p => p.hostq.foldl (fun s a =>
      match hostPerform s part a with
      | (true, s1) => s1
      | (false, s1) => match getPart s1 part with
        | some q => setPart s1 part { q with hostq := q.hostq ++ [a] }
        | none => s1) (setPart s part { p with hostq := [] })

/-- A host access: one inside the window wakes the partition and stands behind those that wait; what may go is performed. -/
def hostAccess (s : State) (part : Nat) (a : HostAcc) : State :=
  if inWindow s part a then
    let s1 := hostTouch s part
    match getPart s1 part with
    | some p => serveHostq (setPart s1 part { p with hostq := p.hostq ++ [a] }) part
    | none => s1
  else s

def execCxlMemWrite (part off : Nat) (data : List Byte) (s : State) : Host.Outcome State Fault Refusal :=
  .next (hostAccess s part { write := true, off := off, len := data.length, data := data })

def execCxlMemRead (part off len : Nat) (s : State) : Host.Outcome State Fault Refusal :=
  .next (hostAccess s part { write := false, off := off, len := len, data := [] })

/-! Clamping (14 R396, R397). -/

/-- Whether a VD is idle: no work, no copy or GAE run, and no CXL.mem access to its partition outstanding. -/
def vdIdle (s : State) (vd : Nat) : Bool :=
  let runs (st : EngState) : Bool := match st with
    | .stopped _ _ => false
    | _ => true
  !hasWork s vd && (match getPart s (partOf vd) with | some p => p.hostq.isEmpty | none => true) && !(vdCopies s vd).any (fun e => runs e.2.2.st) && !(vdGaeq s vd).any (fun e => runs e.2.2.st)

/-- The smallest IDLE of a partition's VDs in nanoseconds; none where it never clamps. -/
def idleNs (s : State) (pn : Nat) : Option Nat :=
  match minBy (fun v => (getVd s v).idle) (partVds s pn) with
  | some v => if (getVd s v).idle = 0 then none else some ((getVd s v).idle * 100000)
  | none => none

/-- Whether every VD of a partition has been idle for long enough. -/
def clampDue (s : State) (pn : Nat) : Bool :=
  match idleNs s pn with
  | some n => (partVds s pn).all (fun v => vdIdle s v && decide (n ≤ s.timeNs - (getVd s v).idleSince))
  | none => false

/-- The class to which a partition clamps. -/
def clampClass (s : State) (pn : Nat) : Nat :=
  match minBy (fun v => (getVd s v).wcls) (partVds s pn) with
  | some v => (getVd s v).wcls
  | none => 1

/-- Restores every range that is left, before die memory is copied again. -/
def restoreAll (s : State) (pn : Nat) : State :=
  match getPart s pn with
  | some p => (p.unrestored.flatMap (fun e => (List.range (e.2 - e.1)).map (fun i => e.1 + i))).foldl (fun s r => restoreRange s pn r) s
  | none => s

/-- Copies die memory to the save area (R397). -/
def saveDie (s : State) (p : Part) (pn : Nat) : State :=
  let bs := saveBlocks s pn
  let mem0 := s.mem.filter (fun c => !(isFar c.1 && elemOf (farBlockOf c.1) bs))
  let mem := s.mem.foldl (fun m c => match windowOff s p c.1 with
    | some w => match bs[w / 2 ^ 31]? with
      | some b => wrByte m (farPa (b * 2 ^ 31 + w % 2 ^ 31)) c.2
      | none => m
    | none => m) mem0
  { s with mem := mem }

/-- Powers a partition's die memory off: its contents are gone until they are restored. -/
def powerOff (s : State) (p : Part) : State := { s with mem := s.mem.filter (fun c => !inBays p c.1) }

/-- Clamps a partition. Under W1 and W2 the current VD is switched out first and L2 written back; under W2 die memory is also copied to the
save area and powered off. What the wake before had not yet restored is restored first. -/
def doClamp (s : State) (pn : Nat) : State :=
  let cls := clampClass s pn
  match getPart s pn with
  | none => s
  | some p =>
    if cls = 0 then setPart s pn { p with clamp := .clamped 0, proposal := none }
    else
      let s1 := match p.cur with
        | some v => switchOut s pn v
        | none => s
      let s0 := dropSlices s1 (fun sl => hasBay p (sl / 4))
      let s2 := if cls = 2 then powerOff (saveDie (restoreAll s0 pn) p pn) p else s0
      match getPart s2 pn with
      | some q => setPart s2 pn { q with clamp := .clamped cls, proposal := none, cur := none, switchTo := none }
      | none => s2

/-- Whether every unit of a partition's current VD has stopped. -/
def curStopped (s : State) (p : Part) : Bool :=
  match p.cur with
  | some v => unitsStopped s v
  | none => true

/-- The idle time of a partition has expired: Firex clamps it, or in host-assisted sequencing posts a proposal (R388, 17 R429). -/
def execClamp (part : Nat) (s : State) : Host.Outcome State Fault Refusal :=
  match getPart s part with
  | none => .next s
  | some p =>
    if p.clamp ≠ .awake ∨ !clampDue s part ∨ !curStopped s p then .next s
    else if p.pmode.getLsbD 4 then
      if p.proposal.isSome ∨ s.timeNs < p.propAfter then .next s
      else
        let num := p.propNext % 2 ^ 16
        .next (postPart (setPart s part { p with proposal := some num, propNext := num + 1 }) part true
          { cause := 0x45, detail := clampClass s part + part * 2 ^ 8, info := w64 num })
    else .next (doClamp s part)

/-- The host confirms a proposal: the partition clamps if it still may (R396). -/
def execClampackConfirm (part num : Nat) (s : State) : Host.Outcome State Fault Refusal :=
  match getPart s part with
  | none => .next s
  | some p =>
    if p.proposal = some num ∧ p.clamp = .awake ∧ clampDue s part = true ∧ curStopped s p = true then .next (doClamp s part) else .next s

/-- The host declines: Firex proposes again only after a further period of the smallest IDLE. -/
def execClampackDecline (part num : Nat) (s : State) : Host.Outcome State Fault Refusal :=
  match getPart s part with
  | none => .next s
  | some p =>
    if p.proposal = some num then
      .next (setPart s part { p with proposal := none, propAfter := s.timeNs + (idleNs s part).getD 0 })
    else .next s

end Sys2Proof.Machine
end

