-- ==== Sys2Proof/Machine/Power.lean ====
section
/-! DEFINITION. Operating points, the power and thermal controllers, core rails, loss of a die, and the end of a wake (13 R373, R374, 14
R397 to R399, R403 to R406, 21 R499 to R507, R511). -/

namespace Sys2Proof.Machine

/-! Regions (01 R29, 14 R403). -/

/-- The package regions. -/
def regions (s : State) : List Nat := List.range (4 * dieCount s)

/-- The core clock in MHz and the rail voltage in millivolts of an operating point (R403). -/
def pointMHz (n : Nat) : Nat := ([3300, 2800, 2200, 1600] : List Nat).getD n 800
def pointMilliVolts (n : Nat) : Nat := ([900, 820, 740, 680] : List Nat).getD n 600

/-- Whether a partition has cores in a region. -/
def inRegion (p : Part) (j : Nat) : Bool := (List.range 4).any (fun b => hasBay p (16 * (j / 4) + 4 * (j % 4) + b))

/-- The partitions with cores in a region, and those with bays on a die. -/
def regionParts (s : State) (j : Nat) : List Nat := (s.parts.filter (fun e => inRegion e.2 j)).map Prod.fst
def dieParts (s : State) (d : Nat) : List Nat := (s.parts.filter (fun e => partOnDie e.2 d)).map Prod.fst
def allParts (s : State) : List Nat := s.parts.map Prod.fst

/-- The rail of a region: key 2 × die + rail. -/
def regionRail (j : Nat) : Nat := 2 * (j / 4) + j % 4 / 2

/-- Whether some partition with cores in a region is not clamped. -/
def regionActive (s : State) (j : Nat) : Bool := s.parts.any (fun e => inRegion e.2 j && decide (e.2.clamp = .awake))

/-- The vote of a partition for a region, at most 4 (R404). -/
def voteOf (p : Part) (j : Nat) : Nat := Nat.min 4 (fld p.pvote (4 * j + 2) (4 * j))

/-- The lowest-numbered vote among the partitions with cores in a region that are not clamped. -/
def votedPoint (s : State) (j : Nat) : Option Nat :=
  (minBy (fun e => voteOf e.2 j) (s.parts.filter (fun e => inRegion e.2 j && decide (e.2.clamp = .awake)))).map (fun e => voteOf e.2 j)

/-- The thermal stage of a die-memory stack, and of a far-memory channel: keys die and 4 + channel. -/
def thermalOf (s : State) (key : Nat) : Nat := Store.get 0 s.thermal key
/-- The far-memory channels of a die. -/
def dieChannels (s : State) (d : Nat) : List Nat := (List.range 32).filter (fun c => decide (channelDie s c = d))
/-- Whether a unit of a die stands at stage 3. -/
def dieHot (s : State) (d : Nat) : Bool :=
  decide (thermalOf s d = 3) || (dieChannels s d).any (fun c => decide (thermalOf s (4 + c) = 3))

/-- Whether a step of the power controller holds a region's point. -/
def raisedIn (s : State) (j : Nat) : Bool := s.power.any (fun x => match x with
  | .raised l => elemOf j l
  | .halved _ => false)

/-- The regions that a rail feeds (R403). -/
def regionsOfRail (r : Nat) : List Nat := [2 * r, 2 * r + 1]

/-- Each rail stands at the voltage of the lowest-numbered point among its regions (R404). -/
def refreshRails (s : State) : State :=
  (List.range (2 * dieCount s)).foldl (fun s r =>
    { s with volts := Store.set 900 s.volts r (pointMilliVolts ((regionsOfRail r).foldl (fun n j => Nat.min n (Store.get 0 s.point j)) 4)) }) s

/-- Sets every region's point from the votes, unless the controllers hold it or its rail is disabled (R404, R406, 21 R503, R506). -/
def refreshPoints (s : State) : State :=
  refreshRails <| (regions s).foldl (fun s j =>
    let disabled := decide (Store.get Rail.up s.rails (regionRail j) = .disabled)
    if dieHot s (j / 4) then { s with point := Store.set 0 s.point j 4 }
    else if raisedIn s j || disabled then s
    else match votedPoint s j with
      | some v => { s with point := Store.set 0 s.point j v }
      | none => s) s

/-- The bits of PVOTE that a package holds: three for each region that it has (R404). -/
def voteMask (s : State) (x : DWord) : DWord := x &&& 0x7777777777777777 &&& w64 (2 ^ (16 * dieCount s) - 1)

/-- A write of PVOTE. -/
def execPvoteWrite (part : Nat) (value : DWord) (s : State) : Host.Outcome State Fault Refusal :=
  match getPart s part with
  | none => .next s
  | some p => .next (refreshPoints (setPart s part { p with pvote := voteMask s value }))

/-- The live-tag cap and the point of a region. -/
def ltcapOf (s : State) (j : Nat) : Nat := Store.get 16 s.ltcap j
def pointOf (s : State) (j : Nat) : Nat := Store.get 0 s.point j

/-- One step of the power controller (R406): it halves LTCAP in every active region, down to 1, and then raises the point of the
highest-clocked regions. -/
def execPowerLimitStep (s : State) : Host.Outcome State Fault Refusal :=
  let act := (regions s).filter (regionActive s)
  if act.any (fun j => decide (1 < ltcapOf s j)) then
    let old := act.map (fun j => (j, ltcapOf s j))
    .next { s with
      power := .halved old :: s.power
      ltcap := old.foldl (fun m e => Store.set 16 m e.1 (Nat.max 1 (e.2 / 2))) s.ltcap }
  else
    let up := act.filter (fun j => decide (pointOf s j < 4))
    match minBy (pointOf s) up with
    | none => .next s
    | some j0 =>
      let l := up.filter (fun j => decide (pointOf s j = pointOf s j0))
      .next (refreshRails { s with
        power := .raised l :: s.power
        point := l.foldl (fun m j => Store.set 0 m j (pointOf s j + 1)) s.point })

/-- The power controller undoes its latest step. -/
def execPowerLimitRelax (s : State) : Host.Outcome State Fault Refusal :=
  match s.power with
  | [] => .next s
  | .halved old :: rest => .next { s with power := rest, ltcap := old.foldl (fun m e => Store.set 16 m e.1 e.2) s.ltcap }
  | .raised l :: rest =>
    .next (refreshPoints { s with power := rest, point := l.foldl (fun m j => Store.set 0 m j (pointOf s j - 1)) s.point })

/-! Energy (14 R405). -/

/-- The cores of a partition in a region: three for each of its bays there. -/
def coresIn (p : Part) (j : Nat) : Nat := 3 * ((List.range 4).countP (fun b => hasBay p (16 * (j / 4) + 4 * (j % 4) + b)))

/-- The partitions that are charged for what a region or its rail takes above a partition's vote, with their cores: those that voted higher
in the region, or, where none did, in the other region of the rail. -/
def higherVoters (s : State) (j v : Nat) : List (Nat × Nat) :=
  let inIt (r : Nat) : List (Nat × Nat) :=
    (s.parts.filter (fun e => inRegion e.2 r && decide (voteOf e.2 r < v ∧ e.2.clamp = .awake))).map (fun e => (e.1, coresIn e.2 r))
  if inIt j = [] then inIt (if j % 2 = 0 then j + 1 else j - 1) else inIt j

/-- The energy that a share of a region's cores takes in the time that passed: at a core clock's point and a rail's point (log 6). -/
def energyOf (s : State) (pn j clock rail cores : Nat) : Nat := (Config.energy s.freeIx pn j clock rail).toNat * cores

/-- What the passing time adds to PENERGY of a partition in a region, by partition: its own cores at its own voted point, and the excess of
its cores at the region's and the rail's point, charged to those who voted higher, in proportion to their cores. -/
def energyCharges (s : State) (e : Nat × Part) (j : Nat) : List (Nat × Nat) :=
  let v := voteOf e.2 j
  let n := coresIn e.2 j
  let railPoint := (regionsOfRail (regionRail j)).foldl (fun x r => Nat.min x (Store.get 0 s.point r)) 4
  let own := energyOf s e.1 j v v n
  let excess := energyOf s e.1 j (Nat.min v (Store.get 0 s.point j)) (Nat.min v railPoint) n - own
  let hs := higherVoters s j v
  let total := hs.foldl (fun x h => x + h.2) 0
  (e.1, own) :: hs.map (fun h => (h.1, excess * h.2 / total))

/-- PENERGY of every awake partition counts the energy of the time that passed (R405): how much a core takes is a free value. -/
def spendEnergy (s : State) : State :=
  let charges := (s.parts.filter (fun e => decide (e.2.clamp = .awake))).flatMap (fun e =>
    ((regions s).filter (inRegion e.2)).flatMap (energyCharges s e))
  let s1 := charges.foldl (fun s c => match getPart s c.1 with
    | some p => setPart s c.1 { p with penergy := p.penergy + w64 c.2 }
    | none => s) s
  { s1 with freeIx := s1.freeIx + 1 }

/-! Thermal stages (21 R503). -/

/-- The bandwidth factor of a stage in 64ths. -/
def stageFactor : Nat → Nat
  | 0 => 64
  | 1 => 60
  | _ => 45

/-- The least far-memory factor of a die. -/
def farFactor (s : State) (d : Nat) : Nat := (dieChannels s d).foldl (fun n c => Nat.min n (stageFactor (thermalOf s (4 + c)))) 64

/-- A UNIT_LOST record (21 R500). -/
def unitLost (unit reason hi : Nat) (info : Nat) : Rec := { cause := cUnitLost, unit := unit, detail := reason + hi * 2 ^ 8, info := w64 info }

/-- The partitions that own blocks in a far-memory channel. -/
def channelParts (s : State) (ch : Nat) : List Nat :=
  ((s.firex.farOwner.filter (fun e => decide (blockChannel e.1 = ch))).map Prod.snd).dedup

/-- The sensor of a die-memory stack or of a far-memory channel enters or leaves a stage. -/
def execThermalStage (far : Bool) (unit stage : Nat) (s : State) : Host.Outcome State Fault Refusal :=
  let key := if far then 4 + unit else unit
  let die := if far then channelDie s unit else unit
  if 3 < stage ∨ dieCount s ≤ die ∨ (far ∧ 32 ≤ unit) then .next s
  else
    let old := stageFactor (thermalOf s key)
    let s1 := refreshPoints { s with thermal := Store.set 0 s.thermal key stage }
    if stageFactor stage = old then .next s1
    else
      let ff := if far then stageFactor stage else farFactor s1 die
      .next (postShared s1 (if far then channelParts s unit else dieParts s die)
        (unitLost 8 8 die (stageFactor (thermalOf s1 die) + ff * 2 ^ 8)))

/-! Rails (21 R505, R506). -/

/-- The cores and regions of a rail. -/
def railCores (die rail : Nat) : List Nat := (List.range 24).map (fun i => 48 * die + 24 * rail + i)
def railRegions (die rail : Nat) : List Nat := [4 * die + 2 * rail, 4 * die + 2 * rail + 1]

/-- The state of a rail, for a rail that exists. -/
def railState (s : State) (die rail : Nat) : Option Rail :=
  if die < dieCount s ∧ rail < 2 then some (Store.get Rail.up s.rails (2 * die + rail)) else none
def setRail (s : State) (die rail : Nat) (x : Rail) : State := { s with rails := Store.set Rail.up s.rails (2 * die + rail) x }

/-- A droop of more than 5 % stretches clocks; only Firex's log records it, as a UNIT_LOST record of reason 0 (log 21). -/
def execRailDroop (die rail : Nat) (s : State) : Host.Outcome State Fault Refusal :=
  if railState s die rail = some .up then
    .next (logFirex (setRail s die rail .droop) [] (unitLost 11 0 (4 * die + 2 * rail) 0))
  else .next s

/-- The voltage recovers. -/
def execRailVoltageRecovered (die rail : Nat) (s : State) : Host.Outcome State Fault Refusal :=
  if railState s die rail = some .droop then .next (setRail s die rail .up) else .next s

/-- The tasks of the nests on a list of cores. -/
def nestsOn (s : State) (cores : List Nat) : List Nat :=
  (cores.flatMap (fun c => (rootsOn s c).flatMap (nestTasks s))).filter (fun k => match getTask s k with
    | some t => decide (t.st ≠ .ended)
    | none => false)

/-- Kills the jobs of a list of tasks. -/
def killTasks (s : State) (ks : List Nat) (cause : Nat) : State :=
  ((ks.map (fun k => (keyVd k, handleJob (keyHandle k)))).dedup).foldl (fun s e => killJob s e.1 e.2 cause) s

/-- A core whose registers, SRAM, stores and slots are lost: engine operations stay, since they run on the fabric rail. -/
def loseCore (c : Core) : Core := { scrubCore c with monitor := [] }

/-- A rail is shut: its cores lose everything, and the jobs of their tasks are killed. -/
def shutRail (s : State) (die rail : Nat) : State :=
  let cores := railCores die rail
  let s1 := killTasks s (nestsOn s cores) cUnitLost
  setRail { s1 with cores := s1.cores.map (fun e => if elemOf e.1 cores then (e.1, loseCore e.2) else e) } die rail .shut

def execRailShut (die rail : Nat) (s : State) : Host.Outcome State Fault Refusal :=
  match railState s die rail with
  | some .up | some .droop => .next (shutRail s die rail)
  | _ => .next s

/-- Disables a rail's cores until power-on reset. -/
def disableRail (s : State) (die rail : Nat) : State :=
  let cores := railCores die rail
  let s1 := cores.foldl (fun s c => setCore s c { getCore s c with disabled := true }) (setRail s die rail .disabled)
  let mask := cores.foldl (fun n c => n + 2 ^ (c % 48)) 0
  (railRegions die rail).foldl (fun s j => postShared s (regionParts s j) (unitLost 11 2 j mask)) s1

/-- Firex restarts a rail once. -/
def execRailRestart (die rail : Nat) (ok : Bool) (s : State) : Host.Outcome State Fault Refusal :=
  if railState s die rail = some .shut then
    if ok then
      .next ((railRegions die rail).foldl (fun s j => postShared s (regionParts s j) (unitLost 11 1 j 0)) (setRail s die rail .up))
    else .next (disableRail s die rail)
  else .next s

/-! Loss of a die (21 R507). -/

/-- Whether a job holds a task on a die's dispatcher: one of the die's tasks is not DONE. Of one more index than are listed as DONE, one is
not. -/
def holdsOn (j : Job) (die : Nat) : Bool :=
  let n := dieRank j die
  elemOf die j.dies && (List.range (j.done.length + 1)).any (fun i =>
    decide (dieLo j n + i < dieLo j (n + 1)) && (Store.find j.done (dieLo j n + i)).isNone)

/-- A die is lost: every job that holds a task on its dispatcher is killed, its engines end, and it leaves service. -/
def loseDie (s : State) (die : Nat) : State :=
  let jobs := (s.jobs.filter (fun e => holdsOn e.2 die)).map (fun e => (e.2.vd, e.2.num))
  let s1 := jobs.foldl (fun s e => killJob s e.1 e.2 cUnitLost) s
  let here := s1.cores.filter (fun e => decide (dieOfCore e.1 = die))
  let comps := here.flatMap (fun e => e.2.copies.map (fun c => (c.2.task, c.2.comp)) ++ e.2.gaeq.map (fun c => (c.2.task, c.2.comp)))
  let s2 := { s1 with
    cores := s1.cores.map (fun e => if dieOfCore e.1 = die then (e.1, { Core.empty with badcell := e.2.badcell, disabled := e.2.disabled }) else e)
    tasks := s1.tasks.filter (fun e => decide (e.2.die ≠ die)) }
  let s3 := comps.foldl (fun s e => poisonComp s e.1 e.2 cUnitLost) s2
  postShared { s3 with lostDies := Store.set false s3.lostDies die true } (dieParts s3 die) (unitLost 11 3 die 0)

def execDieLost (die : Nat) (s : State) : Host.Outcome State Fault Refusal := if dieUp s die then .next (loseDie s die) else .next s

/-! The end of a wake (14 R397 to R399, 21 R501). -/

/-- The bound of a wake class in microseconds. -/
def wakeBound : Nat → Nat
  | 0 => 200
  | 1 => 2000
  | _ => 20000

/-- The failed steps of a wake: codes 0 to 7 name a rail as 2 × die + rail, and 8 to 11 die 0 to 3 whose memory does not return. -/
def wakeFailure (s : State) (code : Nat) : State :=
  if code < 8 then (if (railState s (code / 2) (code % 2)).isSome then disableRail (shutRail s (code / 2) (code % 2)) (code / 2) (code % 2) else s)
  else if code < 12 ∧ dieUp s (code - 8) then loseDie s (code - 8) else s

/-- The rails of a partition's cores that Firex is recovering, as 2 × die + rail. -/
def railsShut (s : State) (p : Part) : List Nat :=
  (List.range 8).filter (fun x => decide (railState s (x / 2) (x % 2) = some .shut) && (railCores (x / 2) (x % 2)).any (fun c => hasBay p (bayOfCore c)))

/-- A wake completes, once no rail of the partition is being recovered (21 R502), without the parts that failed; a late one is reported once. The wake has taken at least `micros`. -/
def execWakeComplete (part micros : Nat) (failed : List Nat) (s : State) : Host.Outcome State Fault Refusal :=
  match getPart s part with
  | none => .next s
  | some p => match p.clamp with
    | .waking cls vd since =>
      if (railsShut s p).any (fun x => !elemOf x failed) then .next s
      else
      let now := Nat.max s.timeNs (since + 1000 * micros)
      let took := (now - since) / 1000
      let total := dieWindows s p / 2 ^ 16
      let p1 := { p with
        clamp := .awake
        unrestored := if cls = 2 then [(0, total)] else p.unrestored
        demand := if cls = 2 then [] else p.demand }
      let s1 := failed.foldl wakeFailure (setPart { s with timeNs := now } part p1)
      let s2 := serveHostq (refreshPoints s1) part
      if wakeBound cls < took then
        .next (postPartH s2 part
          { cause := cWakeLate, unit := 11, detail := cls + part * 2 ^ 8, addr := w64 vd, vd := vd,
            gen := if vd = 0 then 0 else (getVd s vd).gen, info := w64 took })
      else .next s2
    | _ => .next s

/-- The range that Firex restores next: the one demanded first, else the lowest (14 R399). -/
def nextRange (p : Part) : Option Nat :=
  match p.demand with
  | r :: _ => some r
  | [] => (p.unrestored.head?).map Prod.fst

/-- Restores the 64 KiB range that holds an offset, when it is the next; the accesses that wait look again. -/
def execW2Restore (part off : Nat) (s : State) : Host.Outcome State Fault Refusal :=
  match getPart s part with
  | none => .next s
  | some p =>
    if p.clamp = .awake ∧ nextRange p = some (off / 2 ^ 16) then .next ((partVds s part).foldl releaseDirty (serveHostq (restoreRange s part (off / 2 ^ 16)) part))
    else .next s

end Sys2Proof.Machine
end

