-- ==== Sys2Proof/Machine/Errors.lean ====
section
/-! DEFINITION. Data errors, triage, links and memory channels (17 R421, R422, R429, R433, R434, 19 R479, 20 R484, R485, 21 R508 to R511,
R514). -/

namespace Sys2Proof.Machine

/-! Links (21 R508, R509, R514). -/

def linkReset : LinkState := { failed := [], disabled := false }

/-- The groups of 32 lanes that a direction has disabled: those of the lanes that failed after its spares, and those retired. -/
def deadGroups (spares : Nat) (l : LinkState) : List Nat := ((l.failed.drop spares).map (fun n => n / 32) ++ l.groups).dedup

/-- The working lanes of a direction of a boundary. -/
def workingLanes (l : LinkState) : Nat := 512 - 32 * (deadGroups 16 l).length

/-- The state of a boundary's direction after a change: narrowed or disabled where spares are exhausted. -/
def noteBound (s : State) (i dir : Nat) (l : LinkState) : State :=
  let n := workingLanes l
  let put (x : LinkState) : State := { s with bounds := Store.put s.bounds (2 * i + dir) x }
  if deadGroups 16 l = [] then put l
  else if n < 256 then
    if l.disabled then put l else postShared (put { l with disabled := true }) (allParts s) (unitLost 10 5 i 0)
  else postShared (put l) (allParts s) (unitLost 10 4 i n)

/-- A lasting lane error of a boundary. -/
def failBound (s : State) (i dir lane : Nat) : State :=
  let l := Store.get linkReset s.bounds (2 * i + dir)
  if elemOf lane l.failed then s else noteBound s i dir { l with failed := l.failed ++ [lane] }

/-- A lane's group is disabled without a spare. -/
def retireBound (s : State) (i dir lane : Nat) : State :=
  let l := Store.get linkReset s.bounds (2 * i + dir)
  noteBound s i dir { l with groups := (l.groups ++ [lane / 32]).dedup }

/-- The boundaries of a package: one on Krydy 2D, four in a ring on Krydy 4D (01 R16). -/
def boundCount (s : State) : Nat := if s.fit.fourDies then 4 else 1

def execBoundaryLaneError (i dir lane : Nat) (s : State) : Host.Outcome State Fault Refusal :=
  if i < boundCount s ∧ dir < 2 ∧ lane < 512 then .next (failBound s i dir lane) else .next s

/-- The state of a port's direction after a change: past its 8 spares the port is disabled. -/
def noteZalna (s : State) (port dir : Nat) (l : LinkState) : State :=
  let put (x : LinkState) : State := { s with zlinks := Store.put s.zlinks (2 * port + dir) x }
  if deadGroups 8 l = [] ∨ l.disabled then put l
  else postShared (put { l with disabled := true }) (allParts s) (unitLost 10 9 port 0)

/-- A lasting lane error of a Zalna port. -/
def failZalna (s : State) (port dir lane : Nat) : State :=
  let l := Store.get linkReset s.zlinks (2 * port + dir)
  if elemOf lane l.failed then s else noteZalna s port dir { l with failed := l.failed ++ [lane] }
def retireZalna (s : State) (port dir lane : Nat) : State :=
  let l := Store.get linkReset s.zlinks (2 * port + dir)
  noteZalna s port dir { l with groups := (l.groups ++ [lane / 32]).dedup }

def execZalnaLaneError (port dir lane : Nat) (s : State) : Host.Outcome State Fault Refusal :=
  if s.fit.fourDies && s.fit.zports.getLsbD port && decide (port < 8 ∧ dir < 2) then .next (failZalna s port dir lane) else .next s

/-- Link `n` of an error: directions of boundaries from 0, and of Zalna ports from 8. Its lane is the lowest that works (log 22). -/
def firstLane (l : LinkState) : Nat := ((List.range 528).find? (fun n => !elemOf n l.failed)).getD 0
def failLink (s : State) (n : Nat) : State :=
  if n < 2 * boundCount s then failBound s (n / 2) (n % 2) (firstLane (Store.get linkReset s.bounds n))
  else if 8 ≤ n ∧ n < 24 then failZalna s ((n - 8) / 2) (n % 2) (firstLane (Store.get linkReset s.zlinks (n - 8)))
  else s
def retireLink (s : State) (n : Nat) : State :=
  if n < 2 * boundCount s then retireBound s (n / 2) (n % 2) (firstLane (Store.get linkReset s.bounds n))
  else if 8 ≤ n ∧ n < 24 then retireZalna s ((n - 8) / 2) (n % 2) (firstLane (Store.get linkReset s.zlinks (n - 8)))
  else s

/-! Memory channels (21 R510, R511). -/

/-- The partition of a slice of a die, if any. -/
def slicePart (s : State) (die slice : Nat) : List Nat :=
  ((s.parts.filter (fun e => hasBay e.2 (16 * die + slice / 4))).map Prod.fst).take 1

/-- A lasting fault of a die-memory channel: its contents go to a spare, or with none left the channel is lost. -/
def spareChannel (s : State) (die slice : Nat) : State :=
  let used := Store.get 0 s.sparesUsed die
  let post (s : State) (info : Nat) : State := postShared s (slicePart s die slice) (unitLost 8 7 (64 * die + slice) info)
  if Store.get false s.lostSlices (64 * die + slice) then s
  else if used < 4 then post { s with sparesUsed := Store.set 0 s.sparesUsed die (used + 1) } 1
  else post { s with lostSlices := Store.set false s.lostSlices (64 * die + slice) true } 2

/-- A slice is retired and its channel is lost. -/
def retireSlice (s : State) (die slice : Nat) : State :=
  if Store.get false s.lostSlices (64 * die + slice) then s
  else postShared { s with lostSlices := Store.set false s.lostSlices (64 * die + slice) true } (slicePart s die slice)
    (unitLost 8 7 (64 * die + slice) 2)

/-- A far-memory channel is lost with its 16 blocks. -/
def execFarChannelLost (channel : Nat) (s : State) : Host.Outcome State Fault Refusal :=
  if s.fit.farm ∧ channel < 32 ∧ !Store.get false s.lostFarCh channel then
    .next (postShared { s with lostFarCh := Store.set false s.lostFarCh channel true } (channelParts s channel)
      (unitLost 8 6 channel 0xFFFF))
  else .next s

/-! Containment and fencing (17 R433, R434). -/

/-- Whether a partition triages errors with the host (14 R388). -/
def hostTriage (s : State) (pn : Option Nat) : Bool :=
  match pn with
  | some p => hostMode s p 5
  | none => false

/-- The cell blamed for a token that fails at a hop: the one that sent it, if a cell did (20 R484; log 22). -/
def tokenCell (s : State) (core n : Nat) : Option Nat :=
  ((Store.find (getCore s core).flight n).map (fun t => t.src)).filter (fun c => decide (c < 64))

/-- The sector of die memory that holds the first bytes of an entry of a core's overflow table: 256 bytes each, in the core's 4 MiB of the
region that Firex reserves (12 R333; log 70). -/
def overflowSector (s : State) (core n : Nat) : Option ErrPlace :=
  let die := core / 48
  ((partOfCore s core).bind (getPart s)).bind (fun p =>
    (p.areas.find? (fun a => decide (a.kind = .overflow ∧ a.die = die))).bind (fun a =>
      let rank := 3 * ((List.range (bayOfCore core % 16)).countP (fun b => hasBay p (16 * die + b))) + core % 3
      (diePa p die (a.base + 2 ^ 22 * rank + 256 * n)).map (fun pa => .dieSector die (pa - die * 2 ^ 36))))

/-- The partition whose unit an error concerns; for a link, the lowest that triages with the host. -/
def placePart (s : State) : ErrPlace → Option Nat
  | .dieSector die off | .l2Sector die off => (slicePart s die (off / 2 ^ 30 % 64)).head?
  | .farSector off => Store.find s.firex.farOwner (off / 2 ^ 31)
  | .register task _ _ _ | .uniform task _ _ | .predicate task _ _ _ | .spillWord task _ _ _ => some (taskPart task)
  | .sharedWord task _ => some (taskPart task)
  | .constWord core _ => partOfCore s core
  | .parkRecord _ _ => none
  | .cell core _ => partOfCore s core
  | .token core _ | .overflowEntry core _ => partOfCore s core
  | .link _ => (allParts s).find? (fun p => hostMode s p 5)

/-- The partitions whose work the unit of an error served (17 R426). -/
def placeParts (s : State) : ErrPlace → List Nat
  | .link _ => allParts s
  | .farSector off => channelParts s (blockChannel (off / 2 ^ 31))
  | .parkRecord die rec => ((Store.find s.parks (die * 2 ^ 48 + rec)).map (fun p => taskPart p.task)).toList
  | place => (placePart s place).toList

/-- UNIT, CORE and ADDR of a record of an error (17 R423). -/
def placeRec (s : State) (place : ErrPlace) (syndrome : DWord) : Rec :=
  let r : Rec := { cause := cDataError, info := syndrome }
  match place with
  | .dieSector die off => { r with unit := 8, addr := w64 (die * 2 ^ 36 + off) }
  | .l2Sector die off => { r with unit := 7, addr := w64 (die * 2 ^ 36 + off) }
  | .farSector off => { r with unit := 8, addr := w64 (farPa off) }
  | .register task warp _ _ | .uniform task warp _ | .predicate task warp _ _ | .spillWord task warp _ _ => match getTask s task with
    | some t => { r with core := t.core.getD t.lastCore, warp := warp, vd := t.vd, task := t.handle, gen := (getVd s t.vd).gen }
    | none => r
  | .sharedWord task off => match getTask s task with
    | some t => { r with core := t.core.getD t.lastCore, addr := w64 off, vd := t.vd, task := t.handle, gen := (getVd s t.vd).gen }
    | none => r
  | .constWord core off => { r with core := core, addr := w64 off }
  | .parkRecord _ rec => { r with unit := 9, addr := w64 rec }
  | .cell core cell => { r with unit := 1, core := core, addr := w64 cell }
  | .token core n => { r with unit := 1, core := core, addr := w64 n }
  | .overflowEntry core n => match overflowSector s core n with
    | some (.dieSector die off) => { r with unit := 8, core := core, addr := w64 (die * 2 ^ 36 + off) }
    | _ => { r with unit := 8, core := core }
  | .link n => { r with unit := 10, addr := w64 n }

/-- The number under which transient errors of a unit are counted. -/
def placeUnit : ErrPlace → Nat
  | .dieSector die off => 64 * die + off / 2 ^ 30 % 64
  | .l2Sector die off => 256 + 64 * die + off / 2 ^ 30 % 64
  | .farSector off => 1000 + off / 2 ^ 35
  | .register task _ _ _ | .uniform task _ _ | .predicate task _ _ _ | .spillWord task _ _ _ => 2 ^ 32 + task
  | .sharedWord task _ => 2 ^ 32 + task
  | .constWord core _ => 2000 + core
  | .parkRecord die _ => 3000 + die
  | .cell core cell => 10000 + 64 * core + cell
  | .token core _ => 4000 + core
  | .overflowEntry core _ => 6000 + core
  | .link n => 5000 + n

/-- Marks a 4-byte word of the constant images of a core as lost; they stand one after another in the store. -/
def loseConst : List ConstImg → Nat → List ConstImg
  | [], _ => []
  | x :: t, off => if off < x.len then { x with lost := Store.set false x.lost (off / 4) true } :: t else x :: loseConst t (off - x.len)

/-- The cell of an error of the lattice. -/
def placeCell (s : State) : ErrPlace → Option (Nat × Nat)
  | .cell core cell => some (core, cell)
  | .token core n => (tokenCell s core n).map (fun c => (core, c))
  | _ => none

/-- The warp of a token is drained to the iteration of the token's tag, which the front end executes again; after a lost token of a link no
marker can be relied on, so that the warp is purged (R433, 20 R481, R484). -/
def drainToken (s : State) (core : Nat) (t : Token) (purge : Bool) : State :=
  match warpAtSlot s core t.tag.wslot with
  | none => s
  | some (k, i) => if purge then leftLattice (purgeWarp s k i false) core k else startDrain s k i core .fault t.tag t.level

/-- The sector of an overflow-table entry is poisoned, and the entry's token lost. -/
def loseEntry (s : State) (core n : Nat) : State :=
  let c := getCore s core
  let s1 := match overflowSector s core n with
    | some (.dieSector die off) => setPoison s (die * 2 ^ 36 + off) true
    | _ => s
  match (c.store.filter (fun e => decide (e.1 = .overflow)))[n]? with
  | none => s1
  | some x =>
    drainToken (setCore s1 core { c with store := c.store.filter (fun e => !decide (e = x)) }) core x.2 false

/-- Contains a lasting error of storage (R433). -/
def contain (s : State) (place : ErrPlace) : State :=
  match place with
  | .dieSector die off | .l2Sector die off =>
    let pa := die * 2 ^ 36 + off
    let s1 := setPoison s pa true
    { s1 with firex := { s1.firex with reported := Store.set false s1.firex.reported (pa / 16) true } }
  | .farSector off =>
    let s1 := setPoison s (farPa off) true
    { s1 with firex := { s1.firex with reported := Store.set false s1.firex.reported (farPa off / 16) true } }
  | .register task warp reg lane =>
    modWarp s task warp (fun w => { w with lostRegs := Store.set false w.lostRegs (32 * reg + lane) true })
  | .uniform task warp reg => modWarp s task warp (fun w => { w with lostRegs := Store.set false w.lostRegs (lostK (reg % 64)) true })
  | .predicate task warp pred lane =>
    modWarp s task warp (fun w => { w with lostRegs := Store.set false w.lostRegs (lostP (pred % 7) (lane % 32)) true })
  | .spillWord task warp off lane =>
    modWarp s task warp (fun w => { w with lostSpill := Store.set false w.lostSpill (8 * (off / 4 * 4) + lane) true })
  | .sharedWord task off => match getTask s task with
    | some t => setTask s task { t with lostShared := Store.set false t.lostShared (off / 4) true }
    | none => s
  | .constWord core off => setCore s core { getCore s core with consts := loseConst (getCore s core).consts off }
  | .parkRecord die rec => match Store.find s.parks (die * 2 ^ 48 + rec) with
    | some p =>
      let lock := match (getTask s p.task).bind (fun t => getWarp t p.warp) with
        | some w => (match w.blocked with
          | .lock _ _ _ => true
          | _ => false)
        | none => false
      pollGates (poisonRec s (keyVd p.task) die p.loc lock cDataError)
    | none => s
  | .token core n => match Store.find (getCore s core).flight n with
    | some t => drainToken s core t true
    | none => s
  | .overflowEntry core n => loseEntry s core n
  | .cell _ _ | .link _ => s

/-- Fences a unit as hardware triage does (R434). -/
def fencePlace (s : State) (place : ErrPlace) : State :=
  match place with
  | .dieSector die off => spareChannel s die (off / 2 ^ 30 % 64)
  | .l2Sector die off => retireSlice s die (off / 2 ^ 30 % 64)
  | .link n => failLink s n
  | p => match placeCell s p with
    | some (core, cell) => fenceCell s core cell
    | none => s

/-- Retires a unit without a spare (17 R429). -/
def retirePlace (s : State) (place : ErrPlace) : State :=
  match place with
  | .dieSector die off | .l2Sector die off => retireSlice s die (off / 2 ^ 30 % 64)
  | .link n => retireLink s n
  | p => match placeCell s p with
    | some (core, cell) => fenceCell s core cell
    | none => s

/-- Whether an error's unit is one that is fenced. -/
def fenceable (s : State) (place : ErrPlace) : Bool :=
  match place with
  | .dieSector _ _ | .l2Sector _ _ | .link _ => true
  | p => (placeCell s p).isSome

/-- Posts an error for triage: event 0x47 (17 R429). An image that uses the cell is purged and not placed again until the answer. -/
def askTriage (s : State) (pn : Nat) (place : ErrPlace) (syndrome : DWord) : State :=
  match getPart s pn with
  | none => s
  | some p =>
    let num := p.triNext % 2 ^ 16
    let place1 : ErrPlace := match placeCell s place with
      | some (core, cell) => .cell core cell
      | none => place
    let r := placeRec s place1 0
    let s1 := setPart s pn { p with triage := p.triage ++ [{ num := num, place := place1 }], triNext := num + 1 }
    let s2 := postPart s1 pn true
      { cause := 0x47, unit := r.unit, core := r.core, addr := r.addr, info := w64 (num * 2 ^ 48 + syndrome.toNat % 2 ^ 48) }
    match place1 with
    | .cell core cell => unplace s2 core (inCell cell)
    | _ => s2

/-- Firex posts the record of a lasting error, which it has logged, to the partitions that the unit served (R426; log 75). -/
def postLasting (s : State) (ps : List Nat) (r : Rec) : State := ps.foldl (fun s p => postPart s p false r) s

/-- A lasting error: recorded, contained, fenced or posted for triage, and posted to its partitions (R422, R426, R433, R434). -/
def lastingError (s : State) (place : ErrPlace) (syndrome : DWord) : State :=
  let pn := placePart s place
  let r : Rec := { placeRec s place syndrome with last := true }
  let ps := placeParts s place
  let s1 := logFirex s ps r
  let blamed : ErrPlace := match placeCell s1 place, place with
    | some (core, cell), _ => .cell core cell
    | none, .overflowEntry core n => (overflowSector s1 core n).getD place
    | none, _ => place
  let s2 := contain s1 place
  let s3 := if !fenceable s2 blamed then s2
    else match pn with
      | some p => if hostMode s2 p 5 then askTriage s2 p blamed syndrome else fencePlace s2 blamed
      | none => fencePlace s2 blamed
  postLasting s3 ps r

/-- Counts a transient error of a unit, and tells whether it is the sixteenth within a second, which counts as lasting (R422). -/
def countTransient (s : State) (place : ErrPlace) : Bool × State :=
  let u := placeUnit place
  let times := ((Store.get [] s.firex.transient u).filter (fun t => decide (s.timeNs - t ≤ 1000000000))) ++ [s.timeNs]
  if 16 ≤ times.length then (true, { s with firex := { s.firex with transient := Store.del s.firex.transient u } })
  else (false, { s with firex := { s.firex with transient := Store.put s.firex.transient u times } })

/-- A transient error: only Firex's log has it. -/
def transientError (s : State) (place : ErrPlace) (syndrome : DWord) : State :=
  match countTransient s place with
  | (true, s1) => lastingError s1 place syndrome
  | (false, s1) => logFirex s1 (placeParts s1 place) (placeRec s1 place syndrome)

/-- A check has failed, and its retry has passed or failed. -/
def execDataErrorDetected (place : ErrPlace) (syndrome : DWord) (lasting : Bool) (s : State) : Host.Outcome State Fault Refusal :=
  .next (if lasting then lastingError s place syndrome else transientError s place syndrome)

/-- A flit fails CRC and is resent; a lasting error maps a lane to a spare (R421, 21 R508). -/
def execFlitCrcError (link : Nat) (lasting : Bool) (s : State) : Host.Outcome State Fault Refusal :=
  .next (if lasting then lastingError s (.link link) 0 else transientError s (.link link) 0)

/-- A lasting fault of a die-memory channel: the sectors that cannot be read are poisoned, and the channel is spared, lost, or posted for
triage (21 R510). -/
def execChannelFault (die slice : Nat) (unreadable : List Nat) (s : State) : Host.Outcome State Fault Refusal :=
  if dieCount s ≤ die ∨ 64 ≤ slice then .next s
  else
    let s1 := unreadable.foldl (fun s o => setPoison s (slicePa die slice (o % 2 ^ 30)) true) s
    let place : ErrPlace := .dieSector die (slice * 2 ^ 30)
    let pn := placePart s1 place
    let r : Rec := { placeRec s1 place 0 with last := true }
    let s2 := logFirex s1 pn.toList r
    let s3 := match pn with
      | some p => if hostMode s2 p 5 then askTriage s2 p place 0 else spareChannel s2 die slice
      | none => spareChannel s2 die slice
    .next (postLasting s3 pn.toList r)

/-- An error that a patrol finds: it is retried under R422, and a lasting one, or the sixteenth transient one, poisons the sector. No record
goes beyond Firex's log (19 R479). -/
def patrolError (s : State) (place : ErrPlace) (lasting : Bool) : State :=
  let (last, s1) := if lasting then (true, s) else countTransient s place
  let s2 := logFirex s1 (placeParts s1 place) { placeRec s1 place 0 with last := last }
  if last then contain s2 place else s2

/-- The patrol of a memory controller finds an error in a burst; `die` 4 stands for far memory (19 R479). -/
def execPatrolRead (die off : Nat) (lasting : Bool) (s : State) : Host.Outcome State Fault Refusal :=
  if die = 4 then .next (if s.fit.farm then patrolError s (.farSector off) lasting else s)
  else if dieUp s die then .next (patrolError s (.dieSector die off) lasting)
  else .next s

/-! Answers (17 R429). -/

/-- Takes a triage number off the outstanding ones. -/
def takeTriage (s : State) (pn num : Nat) : Option (ErrPlace × State) :=
  match getPart s pn with
  | none => none
  | some p => match p.triage.find? (fun t => decide (t.num = num)) with
    | some t => some (t.place, setPart s pn { p with triage := p.triage.filter (fun x => decide (x.num ≠ num)) })
    | none => none

/-- ACTION 1: the unit is fenced or spared. -/
def execTriageFence (part num : Nat) (s : State) : Host.Outcome State Fault Refusal :=
  match takeTriage s part num with
  | some (place, s1) => .next (fencePlace s1 place)
  | none => .next s

/-- ACTION 2: the unit is retired without a spare. -/
def execTriageRetire (part num : Nat) (s : State) : Host.Outcome State Fault Refusal :=
  match takeTriage s part num with
  | some (place, s1) => .next (retirePlace s1 place)
  | none => .next s

end Sys2Proof.Machine
end

