-- ==== Sys2Proof/Machine/Firmware.lean ====
section
/-! DEFINITION. Firex: partitions, capacity moves, attestation, firmware, its log, power-on reset, and writes to the register windows (14
R375 to R389, R393, R401, R407 to R409, 17 R428 to R430, 19 R460, R463, R465, R468, 20 R486, 21 R512 to R518). -/

namespace Sys2Proof.Machine

/-! The mailbox (14 R379, 21 R518). -/

/-- Whether Firex takes a command: it is not busy, and some firmware runs (R516). -/
def firexTakes (s : State) : Bool := !s.firex.busy && s.firex.running.isSome

/-- Firex ends a command with a result code. -/
def mbEnd (s : State) (code : Nat) : State :=
  { s with firex := { s.firex with busy := false, code := BitVec.ofNat 8 code } }

/-- A refusal for which the manual gives no code: a free nonzero one (log 6). -/
def mbRefuse (s : State) : State :=
  let (x, s1) := freshFree s
  mbEnd s1 (1 + x.toNat % 255)

/-- A partition at its creation (R377, R388, R401, R404, R405). PMODE takes the mode word that PCREATE names, where R388 has it reset to zero
at creation (DESIGN CHOICE, log 71). -/
def newPart (bays mode : DWord) : Part :=
  { bays := bays, pmode := mode &&& 0x7F, pctl := 0, pvote := 0, penergy := 0, eq := EventQueue.reset, ff := [], stalecnt := 0,
    parkCap := [], growReq := [], clamp := .awake, proposal := none, propNext := 0, propAfter := 0, triage := [], triNext := 0,
    cur := none, sliceFrom := 0, switchTo := none, unrestored := [], demand := [], hostq := [], held := [], headWait := [], areas := [] }

/-- The bays of the dies that are in service. -/
def liveBays (s : State) : Nat := ((List.range (dieCount s)).filter (dieUp s)).foldl (fun n d => n + 65535 * 2 ^ (16 * d)) 0

/-- The far-block list of PCREATE in host memory: a count of 64 bits, and as many block numbers of 64 bits (log 23). -/
def farList (s : State) (list : DWord) : List Nat :=
  let n := rdBytes s.mem (hostPa list.toNat) 8
  (List.range (Nat.min n 513)).map (fun i => rdBytes s.mem (hostPa (list.toNat + 8 + 8 * i)) 8)

/-- Whether a partition may be created from bays and blocks that belong to none (R375, R378, 21 R507, R511). -/
def createOk (s : State) (part : Nat) (bays : DWord) (blocks : List Nat) : Bool :=
  decide (part < 64 ∧ bays ≠ 0) && (getPart s part).isNone && decide (bays &&& ~~~(w64 (liveBays s)) = 0)
    && s.parts.all (fun e => decide (e.2.bays &&& bays = 0))
    && (blocks = [] || s.fit.farm) && decide (blocks.length ≤ 512) && decide (blocks.dedup.length = blocks.length)
    && blocks.all (fun b => decide (b < 512) && (Store.find s.firex.farOwner b).isNone && !farLost s b)

/-- A partition with the regions that Firex reserves for it (R377). -/
def laidPart (bays mode : DWord) (farm : Bool) : Part :=
  let p := newPart bays mode
  { p with areas := layAreas p farm }

/-- PCREATE (R377). -/
def createPart (s : State) (part : Nat) (bays list mode : DWord) : State :=
  let blocks := farList s list
  if createOk s part bays blocks then
    let own := blocks.foldl (fun m b => Store.put m b part) s.firex.farOwner
    mbEnd (refreshPoints (setPart { s with firex := { s.firex with farOwner := own } } part (laidPart bays mode s.fit.farm))) 0
  else mbRefuse s

def execPcreate (part : Nat) (bays : DWord) (list : DWord) (mode : DWord) (s : State) : Host.Outcome State Fault Refusal :=
  if firexTakes s then .next (createPart s part bays list mode) else .next s

/-- Writes zeros over far blocks. -/
def zeroBlocks (s : State) (bs : List Nat) : State :=
  { s with
    mem := s.mem.filter (fun c => !(isFar c.1 && elemOf (farBlockOf c.1) bs))
    poison := s.poison.filter (fun e => !(isFar (16 * e.1) && elemOf (farBlockOf (16 * e.1)) bs)) }

/-- Destroys a partition (R378): its VDs are disabled, and its memory and cores are written with zeros. -/
def destroyPart (s : State) (part : Nat) (p : Part) : State :=
  let s1 := (partVds s part).foldl (fun s v => writeVdcfg s v 0) s
  let bs := farBlocks s1 part
  let s2 := zeroBlocks s1 bs
  let keep (e : Nat × Nat) : Bool := decide (e.2 ≠ part)
  { s2 with
    mem := s2.mem.filter (fun c => !inBays p c.1)
    poison := s2.poison.filter (fun e => !inBays p (16 * e.1))
    cores := s2.cores.map (fun e => if hasBay p (bayOfCore e.1) then
      (e.1, { Core.empty with badcell := e.2.badcell, disabled := e.2.disabled }) else e)
    dtlb := s2.dtlb.filter (fun e => decide (e.1 / 4 ≠ part))
    l2 := (dropSlices s2 (fun sl => hasBay p (sl / 4))).l2
    vds := s2.vds.filter (fun e => decide (partOf e.1 ≠ part))
    parts := Store.del s2.parts part
    firex := { s2.firex with farOwner := s2.firex.farOwner.filter keep, reserved := s2.firex.reserved.filter keep } }

def execPdestroy (part : Nat) (s : State) : Host.Outcome State Fault Refusal :=
  if firexTakes s then
    match getPart s part with
    | some p => .next (mbEnd (refreshPoints (destroyPart s part p)) 0)
    | none => .next (mbRefuse s)
  else .next s

/-! Capacity moves (R381, 21 R512). -/

/-- The lowest of a list of blocks. -/
def lowBlock (l : List Nat) : Nat := (minBy id l).getD 0

/-- A move fails with a reason at a step: every block stays with its partition. -/
def moveFails (s : State) (src reason step low count : Nat) : State :=
  let s1 := mbEnd { s with firex := { s.firex with move := none } } reason
  postPartH s1 src { cause := cCapmove, unit := 11, detail := reason + step * 2 ^ 8, addr := w64 low, info := w64 count }

/-- The highest-numbered blocks of a partition that hold no reserved region. -/
def chooseBlocks (s : State) (src count : Nat) : List Nat :=
  let l := freeFar s src
  l.drop (l.length - count)

/-- Step 1 of a move: the hot-remove request (event 0x42). -/
def startMove (s : State) (src dst count : Nat) : State :=
  if (getPart s src).isNone ∨ (getPart s dst).isNone then mbRefuse s
  else
    let l := chooseBlocks s src count
    if l.length < count ∨ count = 0 then moveFails s src 1 1 (lowBlock l) count
    else
      let mv : CapMove := { src := src, dst := dst, blocks := l, step := 2, since := s.timeNs }
      let s1 := { s with firex := { s.firex with busy := true, move := some mv } }
      postPart s1 src true { cause := 0x42, detail := dst * 2 ^ 8, addr := w64 (lowBlock l), info := w64 count }

def execCapmove (src dst count : Nat) (s : State) : Host.Outcome State Fault Refusal :=
  if firexTakes s then .next (startMove s src dst count) else .next s

/-- Steps 3 and 4 of a move, after the host's confirmation: the blocks are written with zeros and join the other partition. -/
def finishMove (s : State) (mv : CapMove) (badBlock : Option Nat) : State :=
  let low := lowBlock mv.blocks
  let n := mv.blocks.length
  if (getPart s mv.src).isNone ∨ (getPart s mv.dst).isNone then moveFails s mv.src 4 3 low n
  else match badBlock with
    | some b =>
      if elemOf b mv.blocks then
        let s1 := zeroBlocks s (mv.blocks.filter (fun x => decide (x ≠ b)))
        moveFails { s1 with firex := { s1.firex with lostFar := Store.set false s1.firex.lostFar b true } } mv.src 3 3 low n
      else s
    | none =>
      let s1 := zeroBlocks s mv.blocks
      let own := mv.blocks.foldl (fun m b => Store.put m b mv.dst) s1.firex.farOwner
      let s2 := mbEnd { s1 with firex := { s1.firex with farOwner := own, move := none } } 0
      postPart s2 mv.dst false { cause := 0x43, detail := mv.src * 2 ^ 8, addr := w64 low, info := w64 n }

/-- The host confirms that it has removed every mapping of the blocks; `badBlock` is one whose scrub meets a lasting error. -/
def execCapmoveConfirm (badBlock : Option Nat) (s : State) : Host.Outcome State Fault Refusal :=
  match s.firex.move with
  | some mv => .next (finishMove s mv badBlock)
  | none => .next s

/-- The host has not confirmed within 10 s of the package timer. -/
def execCapmoveTimeout (s : State) : Host.Outcome State Fault Refusal :=
  match s.firex.move with
  | some mv => if 10000000000 ≤ s.timeNs - mv.since then .next (moveFails s mv.src 2 mv.step (lowBlock mv.blocks) mv.blocks.length) else .next s
  | none => .next s

/-! Attestation and firmware (R407 to R409, 21 R516, R517). -/

/-- `n` fresh free words, for values that the manual leaves open (log 6). -/
def freeWords : Nat → State → List DWord × State
  | 0, s => ([], s)
  | n + 1, s =>
    let (x, s1) := freshFree s
    let (l, s2) := freeWords n s1
    (x :: l, s2)

/-- Whether Firex reaches `n` bytes of host memory: the host's translation gives each of their pages to function 0, number 1,024 here
(R379, 21 R518; log 65). -/
def firexReach (s : State) (a : DWord) (n : Nat) : Bool :=
  (List.range ((a.toNat % 4096 + n + 4095) / 4096)).all (fun i => (atsPage s 1024 (a.toNat / 4096 + i)).isSome)

/-- The partition table with its PMODE words, and the ownership table, as numbers (R377, R380). -/
def tableWords (s : State) : List Nat :=
  s.parts.flatMap (fun e => [e.1, e.2.bays.toNat, e.2.pmode.toNat]) ++ s.firex.farOwner.flatMap (fun e => [e.1, e.2])

/-- Writes a report to host memory (R408). The form in which the tables are digested is not given, so that their digest is an open function
of them, and the signature is a free value (log 6). -/
def writeReport (s : State) (nonce report : DWord) (slot : FwSlot) : State :=
  let (sig, s2) := freeWords 8 s
  let head := [w64 (1 + slot.version.toNat * 2 ^ 32), w64 (s.firex.counter.toNat + (capWord s 0).toNat % 2 ^ 32 * 2 ^ 32)]
  let bytes := wordsBytes head ++ rdList s.mem (hostPa nonce.toNat) 32 ++ slot.digest
    ++ wordsBytes ((List.range 8).map (Config.tableDigest (tableWords s))) ++ List.replicate 16 0 ++ wordsBytes sig
  { s2 with mem := wrList s2.mem (hostPa report.toNat) bytes }

/-- ATTEST (R408, 21 R518). -/
def attest (s : State) (nonce report : DWord) : State :=
  if !firexReach s nonce 32 || !firexReach s report 256 then mbEnd s 5
  else match s.firex.running.bind (Store.find s.firex.slots) with
    | some slot => mbEnd (writeReport s nonce report slot) 0
    | none => mbEnd s 6

def execAttest (nonce report : DWord) (s : State) : Host.Outcome State Fault Refusal :=
  if firexTakes s then .next (attest s nonce report) else .next s

/-- A refused or fallen-back image (21 R517). -/
def fwRefused (s : State) (reason : Nat) (version : Word) : State :=
  postShared s (allParts s) { cause := cFwRefused, unit := 11, detail := reason, info := version.zeroExtend 64 }

/-- The slot that FWSTAGE writes: the one that does not run. -/
def idleSlot (s : State) : Nat := if s.firex.running = some 0 then 1 else 0

/-- FWSTAGE verifies an image in host memory; it runs from the next power-on reset. -/
def stageImage (s : State) (image len : DWord) (raise : Bool) : State :=
  let b := rdList s.mem (hostPa image.toNat) len.toNat
  let ver := Config.imageVersion b
  if !firexReach s image len.toNat then mbEnd s 5
  else if Config.imageFormatOk b = false then mbEnd (fwRefused s 3 ver) 3
  else if Config.imageVerifies b = false then mbEnd (fwRefused s 1 ver) 1
  else if ver.toNat < s.firex.counter.toNat then mbEnd (fwRefused s 2 ver) 2
  else
    let slot : FwSlot := { version := ver, digest := sha512 b, raise := raise, order := s.seq }
    mbEnd { s with seq := s.seq + 1, firex := { s.firex with slots := Store.put s.firex.slots (idleSlot s) slot } } 0

def execFwstage (image len : DWord) (raise : Bool) (s : State) : Host.Outcome State Fault Refusal :=
  if s.firex.busy then .next s else .next (stageImage s image len raise)

/-- The slots that may run: their version is not below the counter, and `f` holds. -/
def bootable (s : State) (f : Nat → Bool) : Option Nat :=
  let l := s.firex.slots.filter (fun e => f e.1 && decide (s.firex.counter.toNat ≤ e.2.version.toNat))
  (l.foldl (fun best e => match best with
    | none => some e
    | some b => if b.2.order ≤ e.2.order then some e else some b) none).map Prod.fst

/-- Power-on reset: everything returns to its reset values but what the package keeps: its units, the list of fenced cells, the firmware
slots and the counter, and the far memory that is lost for good (R516, 20 R486, 21 R511). Host memory and the host's translations are
not the package's. -/
def execPowerOnReset (s : State) : Host.Outcome State Fault Refusal :=
  let run := bootable s (fun _ => true)
  let r := State.reset
  .next { r with
    fit := s.fit
    mem := s.mem.filter (fun c => isHost c.1)
    ats := s.ats
    agenda := s.agenda
    lostFarCh := s.lostFarCh
    cores := s.firex.fences.foldl (fun m e => Store.put m e.1 { Core.empty with badcell := e.2 }) []
    freeIx := s.freeIx
    seq := s.seq
    firex := { r.firex with
      lostFar := s.firex.lostFar
      fences := s.firex.fences
      slots := s.firex.slots
      running := run
      counter := s.firex.counter
      healthy := false } }

/-- The running firmware reports healthy: a counter raise that its staging asked for is made (R407, R516). -/
def execFwHealthyReport (s : State) : Host.Outcome State Fault Refusal :=
  match s.firex.running with
  | none => .next s
  | some n => match Store.find s.firex.slots n with
    | none => .next s
    | some slot =>
      let c := if slot.raise ∧ s.firex.counter.toNat < slot.version.toNat then slot.version else s.firex.counter
      .next { s with firex := { s.firex with healthy := true, counter := c, slots := Store.put s.firex.slots n { slot with raise := false } } }

/-- The running firmware has not reported healthy within 1 s: the boot ROM runs the other slot, or none (R516). -/
def execFwHealthTimeout (s : State) : Host.Outcome State Fault Refusal :=
  match s.firex.running with
  | none => .next s
  | some n =>
    if s.firex.healthy ∨ s.timeNs - s.firex.bootAt < 1000000000 then .next s
    else
      let other := if s.firex.fellBack then none else bootable s (fun m => decide (m ≠ n))
      let ver := ((Store.find s.firex.slots n).map (fun x => x.version)).getD 0
      .next (fwRefused { s with firex := { s.firex with running := other, fellBack := true, bootAt := s.timeNs } } 4 ver)

/-- ERRLOG copies the newest records that name a partition, or of all, to host memory (17 R430). -/
def copyLog (s : State) (part : Nat) (buffer maxCount : DWord) : State :=
  if part ≠ 0xFF ∧ (getPart s part).isNone then mbEnd s 7
  else if !firexReach s buffer (64 * Nat.min 4096 maxCount.toNat) then mbEnd s 5
  else
    let l := (s.firex.log.filter (fun e => decide (part = 0xFF) || elemOf part e.1)).take (Nat.min 4096 maxCount.toNat)
    let s1 := { s with mem := wrList s.mem (hostPa buffer.toNat) (l.flatMap (fun (e : List Nat × List DWord) => wordsBytes e.2)) }
    mbEnd { s1 with firex := { s1.firex with args := Store.set 0 s1.firex.args 0 (w64 l.length) } } 0

def execErrlog (part : Nat) (buffer : DWord) (maxCount : DWord) (s : State) : Host.Outcome State Fault Refusal :=
  if firexTakes s then .next (copyLog s part buffer maxCount) else .next s

/-! Register windows (14 R379, R383). -/

/-- A write of MBCMD, which takes its arguments from MBARG0 to MBARG3. While a capacity move awaits its confirmation, CAPMOVE with
MBARG0 = 1 confirms it (R381). -/
def mbCommand (s : State) (cmd : Nat) : State :=
  let a (i : Nat) : DWord := Store.get 0 s.firex.args i
  match s.firex.move with
  | some mv => if cmd = 3 ∧ a 0 = 1 then finishMove s mv none else s
  | none =>
    if s.firex.busy then s
    else if cmd = 5 then stageImage s (a 0) (a 1) ((a 3).getLsbD 0)
    else if s.firex.running.isNone then s
    else match cmd with
      | 1 => createPart s (a 0).toNat (a 1) (a 2) (a 3)
      | 2 => match getPart s (a 0).toNat with
        | some p => mbEnd (refreshPoints (destroyPart s (a 0).toNat p)) 0
        | none => mbRefuse s
      | 3 => startMove s (a 0).toNat (a 1).toNat (a 2).toNat
      | 4 => attest s (a 0) (a 1)
      | 6 => copyLog s (a 0).toNat (a 1) (a 2)
      | _ => mbRefuse s

/-- A write to the mailbox. -/
def writeMailbox (s : State) (off : Nat) (x : DWord) : State :=
  if off = 0 then mbCommand s (fld x 7 0)
  else if off = 0x10 ∨ off = 0x18 ∨ off = 0x20 ∨ off = 0x28 then
    { s with firex := { s.firex with args := Store.set 0 s.firex.args (off / 8 - 2) x } }
  else s

/-- A write of a 64-bit word of the Zalna launch table (13 R359). -/
def writeLaunchTable (s : State) (off : Nat) (x : DWord) : State :=
  if off < 65536 ∧ off % 8 = 0 then
    let v := if off / 8 % 8 = 0 then x &&& 0x83FFFFFFFFFFFFFF else x
    { s with zlaunch := Store.set 0 s.zlaunch (off / 8) v }
  else s

/-- A write of an event queue's registers, by their offset from EQBASE (17 R428). -/
def writeEq (q : EventQueue) (off : Nat) (x : DWord) : EventQueue :=
  match off with
  | 0x00 => if q.en then q else { q with base := w64 (x.toNat / 64 * 64) }
  | 0x08 =>
    let n := fld x 4 0
    if n < 6 ∨ 16 < n then q
    else { q with en := x.getLsbD 31, qlog := n, drop := (w32 q.drop &&& ~~~(w32 (fld x 23 8))).toNat }
  | 0x10 => { q with head := x }
  | _ => q

/-- A write of a frame ring's registers, by their offset from its base register (19 R460). -/
def writeRing (r : FrameRing) (off : Nat) (x : DWord) : FrameRing :=
  match off with
  | 0x00 => if r.en then r else { r with base := x }
  | 0x08 =>
    let n := fld x 4 0
    if n < 6 ∨ 16 < n then r else { r with en := x.getLsbD 31, x := x.getLsbD 10, w := x.getLsbD 9, rd := x.getLsbD 8, qlog := n }
  | 0x18 => { r with tail := x }
  | _ => r

/-- The state that a step of the device leaves. -/
def outState (s : State) (o : Host.Outcome State Fault Refusal) : State :=
  match o with
  | .next t => t
  | .fault _ => s
  | .refused _ => s

/-- A write to a partition's window (14 R383, R388, R401). -/
def writePart (s : State) (pn off : Nat) (x : DWord) : State :=
  match getPart s pn with
  | none => s
  | some p =>
    match off with
    | 0x000 => if partVds s pn = [] then setPart s pn { p with pmode := x &&& 0x7F } else s
    | 0x008 => setPart s pn { p with pctl := x &&& 1 }
    | 0x010 => outState s (execPvoteWrite pn x s)
    | 0x020 | 0x028 | 0x030 => setPart s pn { p with eq := writeEq p.eq (off - 0x020) x }
    | 0x0C0 => outState s (if fld x 63 56 = 0 then execPkgrowRefuse pn x s else execPkgrowGrant pn x s)
    | 0x0C8 => setPart s pn { p with stalecnt := lowWord x }
    | 0x0D0 => outState s (if x.getLsbD 0 then execClampackConfirm pn (fld x 47 32) s else execClampackDecline pn (fld x 47 32) s)
    | 0x0D8 => match fld x 1 0 with
      | 1 => outState s (execTriageFence pn (fld x 47 32) s)
      | 2 => outState s (execTriageRetire pn (fld x 47 32) s)
      | _ => s
    | _ =>
      if 0x040 ≤ off ∧ off < 0x0C0 then
        let d := (off - 0x040) / 0x20
        setPart s pn { p with ff := Store.put p.ff d (writeRing (Store.get FrameRing.reset p.ff d) ((off - 0x040) % 0x20) x) }
      else s

/-- ENGCTL (19 R468). -/
def writeEngctl (s : State) (vd : Nat) (x : DWord) : State :=
  match fld x 1 0 with
  | 1 => engCtl s vd (fld x 63 48) (fld x 39 32) (fld x 13 8) true
  | 2 => engCtl s vd (fld x 63 48) (fld x 39 32) (fld x 13 8) false
  | _ => s

/-- DLCTL (14 R393, 19 R478): OVF is cleared by writing 1. -/
def writeDlctl (v : Vd) (x : DWord) : Vd :=
  let n := fld x 4 0
  if n < 10 ∨ 20 < n then v else { v with dllog := n, logen := x.getLsbD 31, ovf := v.ovf && !x.getLsbD 30 }

/-- A write to a VD's host window (14 R383). -/
def writeHost (s : State) (vd off : Nat) (x : DWord) : State :=
  let v := getVd s vd
  if vd < 1024 ∧ (getPart s (partOf vd)).isSome then
    match off with
    | 0x000 => writeVdcfg s vd x
    | 0x010 => if v.en then s else setVd s vd { v with qbase := x }
    | 0x018 => if v.en then s else setVd s vd { v with s2root := x }
    | 0x020 => setVd s vd { v with invva2 := x }
    | 0x028 => writeInvCtl s vd true (lowWord x)
    | 0x030 => setVd s vd { v with dlbase := x }
    | 0x038 => setVd s vd (writeDlctl v x)
    | 0x040 => outState s (execDlheadWrite vd x s)
    | 0x050 => if x = 1 then outState s (execVdreset vd s) else s
    | 0x058 => wakeWrite s (partOf vd) vd
    | 0x060 | 0x068 | 0x070 => setVd s vd { v with eq := writeEq v.eq (off - 0x060) x }
    | 0x080 => outState s (execPresp vd x s)
    | 0x088 => writeEngctl s vd x
    | _ => s
  else s

/-- A write to a VD's tenant window, while the VD exists (14 R383, R389). -/
def writeTenant (s : State) (vd off : Nat) (x : DWord) : State :=
  let v := getVd s vd
  if v.en then
    match off with
    | 0x000 => setVd s vd { v with s1root := x }
    | 0x008 => setVd s vd { v with invva := x }
    | 0x010 => if x.getLsbD 2 then s else writeInvCtl s vd false (lowWord x)
    | 0x018 => wakeWrite s (partOf vd) vd
    | 0x040 => setVd s vd { v with adoptWait := x }
    | 0x048 => outState s (execAdoptAnswer vd x s)
    | 0x060 => writeEngctl s vd x
    | 0x070 | 0x078 | 0x088 => setVd s vd { v with tff := writeRing v.tff (off - 0x070) x }
    | _ => s
  else s

/-- The window and offset in it of an offset of BAR0 of physical function 0 (R379); none where nothing is listed. -/
def bar0Window (off : Nat) : Option (RegWindow × Nat) :=
  if off < 0x30 then some (.mailbox, off)
  else if 0x010000 ≤ off ∧ off < 0x020000 then some (.launchTable, off - 0x010000)
  else if 0x100000 ≤ off ∧ off < 0x140000 then some (.part ((off - 0x100000) / 0x1000), off % 0x1000)
  else if 0x200000 ≤ off ∧ off < 0x600000 then some (.host ((off - 0x200000) / 0x1000), off % 0x1000)
  else none

/-- A write to a register of a window. -/
def writeWindow (w : RegWindow) (off : Nat) (x : DWord) (s : State) : State :=
  match w with
  | .host vd => writeHost s vd off x
  | .tenant vd => writeTenant s vd off x
  | .part p => writePart s p off x
  | .mailbox => writeMailbox s off x
  | .launchTable => writeLaunchTable s off x
  | .bar0 => s

/-- A write to a register window, or to BAR0 by its offset there. Offsets that are not listed ignore it. -/
def execRegisterWrite (w : RegWindow) (off : Nat) (value : DWord) (s : State) : Host.Outcome State Fault Refusal :=
  match w with
  | .bar0 => match bar0Window off with
    | some (x, o) => .next (writeWindow x o value s)
    | none => .next s
  | w => .next (writeWindow w off value s)

end Sys2Proof.Machine
end

