-- ==== Sys2Proof/Machine/WarpOps.lean ====
section
/-! DEFINITION. Warp operations: group 0x4 (07 R204 to R207). The lanes of a warp are those of its launch mask, which is the mask on which
a warp-wide instruction acts; the value of any lane can be read as a source (log 10). -/

namespace Sys2Proof.Machine

/-- The lanes of a mask on which a value is not zero. -/
def nonzeroMask (m : Word) (f : Nat → DWord) : Word := maskOf (fun l => inMask m l && decide (f l ≠ 0))

/-- VOTE: the value that every lane receives (R205). -/
def voteValue (sub : Nat) (m nz : Word) : Word :=
  match sub with
  | 0 => boolWord (decide (nz = m))
  | 1 => boolWord (decide (nz ≠ 0))
  | 2 => boolWord (decide (nz = m ∨ nz = 0))
  | _ => nz

/-- The segment width of a lane's c (R206). -/
def lxchWidth (c : Word) : Nat := if c = 0 then 32 else c.toNat
def lxchLegal (c : Word) : Bool := elemOf c.toNat [0, 1, 2, 4, 8, 16, 32]

/-- The source lane of a lane, or none where `.sft` leaves the segment (R206). -/
def lxchSource (sub l : Nat) (b c : Word) : Option Nat :=
  let w := lxchWidth c
  let base := l - l % w
  let o := l % w
  match sub with
  | 0 => some (base + b.toNat % w)
  | 1 => some (base + (o + b.toNat) % w)
  | 2 =>
    let t : Int := o + b.toInt
    if t < 0 ∨ (w : Int) ≤ t then none else some (base + t.toNat)
  | _ => some (base + (o ^^^ b.toNat % w))

/-- The mask of the lanes of `m` whose value equals lane `l`'s (R205). -/
def matchMask (m : Word) (f : Nat → DWord) (l : Nat) : Word := maskOf (fun j => inMask m j && decide (f j = f l))

/-- Whether a reduction is of FP32 values, and the identity and step of each operation (R207). -/
def redIdentity (ty : Ty) (op : Nat) : Word :=
  match ty, op with
  | .f32, 0 => 0
  | .f32, 1 => w32 (fp32.inf false)
  | .f32, _ => w32 (fp32.inf true)
  | _, 1 => wrapN 32 (tyMax ty)
  | _, 2 => wrapN 32 (tyMin ty)
  | _, 3 => 0xFFFFFFFF
  | _, _ => 0
def redStep (ty : Ty) (op : Nat) (x y : Word) : Word :=
  let a : DWord := x.zeroExtend 64
  let b : DWord := y.zeroExtend 64
  match ty, op with
  | .f32, 0 => lowWord (laneFadd fp32 dfltMods a b)
  | .f32, 1 => lowWord (laneFmin fp32 dfltMods a b)
  | .f32, _ => lowWord (laneFmax fp32 dfltMods a b)
  | _, 0 => x + y
  | _, 1 => lowWord (laneMin { dfltMods with ty := ty } a b)
  | _, 2 => lowWord (laneMax { dfltMods with ty := ty } a b)
  | _, 3 => x &&& y
  | _, 4 => x ||| y
  | _, _ => x ^^^ y

/-- The result of a reduction over lanes in order. -/
def reduceLanes (ty : Ty) (op : Nat) (a : Nat → Word) (l : List Nat) : Word :=
  l.foldl (fun acc j => redStep ty op acc (a j)) (redIdentity ty op)

/-- SEGRED and SCAN of a lane (R207). -/
def segredLane (f : RArith) (w : Warp) (l : Nat) : DWord :=
  (reduceLanes f.ty f.sub.toNat (src32 w f.a) (maskLanes (src32 w f.b l))).zeroExtend 64
def scanStart (b : Nat → Word) : Nat → Nat
  | 0 => 0
  | n + 1 => if b (n + 1) ≠ 0 then n + 1 else scanStart b n
def scanLane (f : RArith) (w : Warp) (l : Nat) : DWord :=
  let s := scanStart (src32 w f.b) l
  let stop := if f.sub.getLsbD 3 then l else l + 1
  (reduceLanes f.ty (f.sub.toNat % 8) (src32 w f.a) ((List.range stop).filter (fun j => decide (s ≤ j)))).zeroExtend 64

/-- SEGRED and SCAN are checked instructions at FP32 (08 R230). -/
def redRes (s : State) (c : Ctx) (f : RArith) (v : Nat → DWord) : Res :=
  if f.ty = .f32 then fpOp s c fp32 1 f.d v else .warp (writeLanes c 1 f.d v)

/-- The 32-bit lanes on which an LXCH has an illegal width. -/
def lxchBad (c : Ctx) (f : RArith) : Word := maskOf (fun l => inMask c.g l && !lxchLegal (src32 c.w f.c l))

def bodyLxch (f : RArith) (s : State) (c : Ctx) : Res :=
  let n := tyRegs f.ty
  if lxchBad c f ≠ 0 then .fault { cause := cOutOfRange, lanes := lxchBad c f, detail := 8 } s
  else
    .warp (writeLanes c n f.d (fun l =>
      match lxchSource f.sub.toNat l (src32 c.w f.b l) (src32 c.w f.c l) with
      | some j => srcN c.w n f.a j
      | none => 0))

/-! The meanings. -/

def execVote (f : RArith) (s : State) : Host.Outcome State Fault Refusal :=
  warpInstr (.vote f) s (fun c =>
    .warp (writeLanes c 1 f.d (fun _ => (voteValue f.sub.toNat c.g (nonzeroMask c.g (srcN c.w 1 f.a))).zeroExtend 64)))
def execLxch (f : RArith) (s : State) : Host.Outcome State Fault Refusal := warpInstr (.lxch f) s (fun c => bodyLxch f s c)
def execMatch (f : RArith) (s : State) : Host.Outcome State Fault Refusal :=
  warpInstr (.match f) s (fun c =>
    let v := srcN c.w (tyRegs f.ty) f.a
    .warp (writeLanes c 1 f.d (fun l =>
      if f.sub = 0 then (matchMask c.g v l).zeroExtend 64 else boolRes (decide (lowLane (matchMask c.g v l) = some l)))))
def execSegred (f : RArith) (s : State) : Host.Outcome State Fault Refusal :=
  warpInstr (.segred f) s (fun c => redRes s c f (segredLane f c.w))
def execScan (f : RArith) (s : State) : Host.Outcome State Fault Refusal :=
  warpInstr (.scan f) s (fun c => redRes s c f (scanLane f c.w))
def execActm (f : RArith) (s : State) : Host.Outcome State Fault Refusal :=
  warpInstr (.actm f) s (fun c => .warp (writeLanes c 1 f.d (fun _ => c.w.active.zeroExtend 64)))
def execElect (f : RArith) (s : State) : Host.Outcome State Fault Refusal :=
  warpInstr (.elect f) s (fun c => .warp (writeLanes c 1 f.d (fun l => boolRes (decide (lowLane c.g = some l)))))

end Sys2Proof.Machine
end

