-- ==== Sys2Proof/Machine/Dispatch.lean ====
section
/-! DEFINITION. One arm for each instruction and each step of the device: the meaning that it calls. -/

namespace Sys2Proof.Machine

def exec (i : Instr) (s : State) : Host.Outcome State Fault Refusal :=
  match i with
  | .add f => Sys2Proof.Machine.execAdd f s
  | .addImm f => Sys2Proof.Machine.execAddImm f s
  | .sub f => Sys2Proof.Machine.execSub f s
  | .subImm f => Sys2Proof.Machine.execSubImm f s
  | .addc f => Sys2Proof.Machine.execAddc f s
  | .subb f => Sys2Proof.Machine.execSubb f s
  | .mul f => Sys2Proof.Machine.execMul f s
  | .mulImm f => Sys2Proof.Machine.execMulImm f s
  | .mulh f => Sys2Proof.Machine.execMulh f s
  | .mad f => Sys2Proof.Machine.execMad f s
  | .madw f => Sys2Proof.Machine.execMadw f s
  | .div f => Sys2Proof.Machine.execDiv f s
  | .rem f => Sys2Proof.Machine.execRem f s
  | .min f => Sys2Proof.Machine.execMin f s
  | .minImm f => Sys2Proof.Machine.execMinImm f s
  | .max f => Sys2Proof.Machine.execMax f s
  | .maxImm f => Sys2Proof.Machine.execMaxImm f s
  | .abs f => Sys2Proof.Machine.execAbs f s
  | .neg f => Sys2Proof.Machine.execNeg f s
  | .sad f => Sys2Proof.Machine.execSad f s
  | .and f => Sys2Proof.Machine.execAnd f s
  | .andImm f => Sys2Proof.Machine.execAndImm f s
  | .or f => Sys2Proof.Machine.execOr f s
  | .orImm f => Sys2Proof.Machine.execOrImm f s
  | .xor f => Sys2Proof.Machine.execXor f s
  | .xorImm f => Sys2Proof.Machine.execXorImm f s
  | .not f => Sys2Proof.Machine.execNot f s
  | .andn f => Sys2Proof.Machine.execAndn f s
  | .andnImm f => Sys2Proof.Machine.execAndnImm f s
  | .blut f => Sys2Proof.Machine.execBlut f s
  | .shl f => Sys2Proof.Machine.execShl f s
  | .shlImm f => Sys2Proof.Machine.execShlImm f s
  | .shr f => Sys2Proof.Machine.execShr f s
  | .shrImm f => Sys2Proof.Machine.execShrImm f s
  | .sra f => Sys2Proof.Machine.execSra f s
  | .sraImm f => Sys2Proof.Machine.execSraImm f s
  | .rot f => Sys2Proof.Machine.execRot f s
  | .rotImm f => Sys2Proof.Machine.execRotImm f s
  | .fshl f => Sys2Proof.Machine.execFshl f s
  | .bfx f => Sys2Proof.Machine.execBfx f s
  | .bfi f => Sys2Proof.Machine.execBfi f s
  | .popc f => Sys2Proof.Machine.execPopc f s
  | .clz f => Sys2Proof.Machine.execClz f s
  | .ctz f => Sys2Proof.Machine.execCtz f s
  | .brev f => Sys2Proof.Machine.execBrev f s
  | .bpick f => Sys2Proof.Machine.execBpick f s
  | .setp f => Sys2Proof.Machine.execSetp f s
  | .sel f => Sys2Proof.Machine.execSel f s
  | .plop f => Sys2Proof.Machine.execPlop f s
  | .mov f => Sys2Proof.Machine.execMov f s
  | .movi f => Sys2Proof.Machine.execMovi f s
  | .movk f => Sys2Proof.Machine.execMovk f s
  | .movkImm f => Sys2Proof.Machine.execMovkImm f s
  | .cvti f => Sys2Proof.Machine.execCvti f s
  | .lea f => Sys2Proof.Machine.execLea f s
  | .srd f => Sys2Proof.Machine.execSrd f s
  | .clk f => Sys2Proof.Machine.execClk f s
  | .bra f => Sys2Proof.Machine.execBra f s
  | .brx f => Sys2Proof.Machine.execBrx f s
  | .call f => Sys2Proof.Machine.execCall f s
  | .ret f => Sys2Proof.Machine.execRet f s
  | .exit f => Sys2Proof.Machine.execExit f s
  | .nop f => Sys2Proof.Machine.execNop f s
  | .yield f => Sys2Proof.Machine.execYield f s
  | .vote f => Sys2Proof.Machine.execVote f s
  | .lxch f => Sys2Proof.Machine.execLxch f s
  | .match f => Sys2Proof.Machine.execMatch f s
  | .segred f => Sys2Proof.Machine.execSegred f s
  | .scan f => Sys2Proof.Machine.execScan f s
  | .actm f => Sys2Proof.Machine.execActm f s
  | .elect f => Sys2Proof.Machine.execElect f s
  | .fadd f => Sys2Proof.Machine.execFadd f s
  | .faddImm f => Sys2Proof.Machine.execFaddImm f s
  | .fsub f => Sys2Proof.Machine.execFsub f s
  | .fmul f => Sys2Proof.Machine.execFmul f s
  | .fmulImm f => Sys2Proof.Machine.execFmulImm f s
  | .ffma f => Sys2Proof.Machine.execFfma f s
  | .fmin f => Sys2Proof.Machine.execFmin f s
  | .fminImm f => Sys2Proof.Machine.execFminImm f s
  | .fmax f => Sys2Proof.Machine.execFmax f s
  | .fmaxImm f => Sys2Proof.Machine.execFmaxImm f s
  | .fsetp f => Sys2Proof.Machine.execFsetp f s
  | .fsel f => Sys2Proof.Machine.execFsel f s
  | .frcp f => Sys2Proof.Machine.execFrcp f s
  | .frsq f => Sys2Proof.Machine.execFrsq f s
  | .fsqrt f => Sys2Proof.Machine.execFsqrt f s
  | .fdiv f => Sys2Proof.Machine.execFdiv f s
  | .frnd f => Sys2Proof.Machine.execFrnd f s
  | .fclass f => Sys2Proof.Machine.execFclass f s
  | .fscale f => Sys2Proof.Machine.execFscale f s
  | .frexp f => Sys2Proof.Machine.execFrexp f s
  | .pkadd f => Sys2Proof.Machine.execPkadd f s
  | .pkmul f => Sys2Proof.Machine.execPkmul f s
  | .pkfma f => Sys2Proof.Machine.execPkfma f s
  | .fchkTest f => Sys2Proof.Machine.execFchkTest f s
  | .fchkTrap f => Sys2Proof.Machine.execFchkTrap f s
  | .fpmode f => Sys2Proof.Machine.execFpmode f s
  | .fpmodeImm f => Sys2Proof.Machine.execFpmodeImm f s
  | .fpmodeGet f => Sys2Proof.Machine.execFpmodeGet f s
  | .dadd f => Sys2Proof.Machine.execDadd f s
  | .dmul f => Sys2Proof.Machine.execDmul f s
  | .dfma f => Sys2Proof.Machine.execDfma f s
  | .dsetp f => Sys2Proof.Machine.execDsetp f s
  | .fex2 f => Sys2Proof.Machine.execFex2 f s
  | .flg2 f => Sys2Proof.Machine.execFlg2 f s
  | .fsin f => Sys2Proof.Machine.execFsin f s
  | .fcos f => Sys2Proof.Machine.execFcos f s
  | .tmv f => Sys2Proof.Machine.execTmv f s
  | .cvt f => Sys2Proof.Machine.execCvt f s
  | .cvtn f => Sys2Proof.Machine.execCvtn f s
  | .cvtw f => Sys2Proof.Machine.execCvtw f s
  | .pack f => Sys2Proof.Machine.execPack f s
  | .unpack f => Sys2Proof.Machine.execUnpack f s
  | .ld f => Sys2Proof.Machine.execLd f s
  | .st f => Sys2Proof.Machine.execSt f s
  | .ldk f => Sys2Proof.Machine.execLdk f s
  | .atomAdd f => Sys2Proof.Machine.execAtomAdd f s
  | .atomMin f => Sys2Proof.Machine.execAtomMin f s
  | .atomMax f => Sys2Proof.Machine.execAtomMax f s
  | .atomAnd f => Sys2Proof.Machine.execAtomAnd f s
  | .atomOr f => Sys2Proof.Machine.execAtomOr f s
  | .atomXor f => Sys2Proof.Machine.execAtomXor f s
  | .atomExch f => Sys2Proof.Machine.execAtomExch f s
  | .atomCas f => Sys2Proof.Machine.execAtomCas f s
  | .atomFadd f => Sys2Proof.Machine.execAtomFadd f s
  | .atomFmin f => Sys2Proof.Machine.execAtomFmin f s
  | .atomFmax f => Sys2Proof.Machine.execAtomFmax f s
  | .redAdd f => Sys2Proof.Machine.execRedAdd f s
  | .redMin f => Sys2Proof.Machine.execRedMin f s
  | .redMax f => Sys2Proof.Machine.execRedMax f s
  | .redAnd f => Sys2Proof.Machine.execRedAnd f s
  | .redOr f => Sys2Proof.Machine.execRedOr f s
  | .redXor f => Sys2Proof.Machine.execRedXor f s
  | .redFadd f => Sys2Proof.Machine.execRedFadd f s
  | .redFmin f => Sys2Proof.Machine.execRedFmin f s
  | .redFmax f => Sys2Proof.Machine.execRedFmax f s
  | .fence f => Sys2Proof.Machine.execFence f s
  | .fnew f => Sys2Proof.Machine.execFnew f s
  | .fput f => Sys2Proof.Machine.execFput f s
  | .fget f => Sys2Proof.Machine.execFget f s
  | .ftry f => Sys2Proof.Machine.execFtry f s
  | .lkacq f => Sys2Proof.Machine.execLkacq f s
  | .lkrel f => Sys2Proof.Machine.execLkrel f s
  | .spawn f => Sys2Proof.Machine.execSpawn f s
  | .tend f => Sys2Proof.Machine.execTend f s
  | .barInit f => Sys2Proof.Machine.execBarInit f s
  | .barArr f => Sys2Proof.Machine.execBarArr f s
  | .barWait f => Sys2Proof.Machine.execBarWait f s
  | .barSync f => Sys2Proof.Machine.execBarSync f s
  | .copy f => Sys2Proof.Machine.execCopy f s
  | .copy2 f => Sys2Proof.Machine.execCopy2 f s
  | .copy3 f => Sys2Proof.Machine.execCopy3 f s
  | .gather f => Sys2Proof.Machine.execGather f s
  | .scatter f => Sys2Proof.Machine.execScatter f s
  | .prefetch f => Sys2Proof.Machine.execPrefetch f s
  | .cwb f => Sys2Proof.Machine.execCwb f s
  | .cinv f => Sys2Proof.Machine.execCinv f s
  | .mma f => Sys2Proof.Machine.execMma f s
  | .mmas f => Sys2Proof.Machine.execMmas f s
  | .ldm f => Sys2Proof.Machine.execLdm f s
  | .stm f => Sys2Proof.Machine.execStm f s
  | .trn f => Sys2Proof.Machine.execTrn f s
  | .gaset f => Sys2Proof.Machine.execGaset f s
  | .garow f => Sys2Proof.Machine.execGarow f s
  | .garun f => Sys2Proof.Machine.execGarun f s
  | .gaq f => Sys2Proof.Machine.execGaq f s
  | .trap f => Sys2Proof.Machine.execTrap f s
  | .bkpt f => Sys2Proof.Machine.execBkpt f s
  | .eret f => Sys2Proof.Machine.execEret f s
  | .srwRead f => Sys2Proof.Machine.execSrwRead f s
  | .srwWrite f => Sys2Proof.Machine.execSrwWrite f s
  | .capt f => Sys2Proof.Machine.execCapt f s
  | .jigld f => Sys2Proof.Machine.execJigld f s
  | .jigst f => Sys2Proof.Machine.execJigst f s
  | .drain f => Sys2Proof.Machine.execDrain f s
  | .drainFree f => Sys2Proof.Machine.execDrainFree f s
  | .live f => Sys2Proof.Machine.execLive f s
  | .capq f => Sys2Proof.Machine.execCapq f s
  | .pmcr f => Sys2Proof.Machine.execPmcr f s
  | .pmcrClr f => Sys2Proof.Machine.execPmcrClr f s
  | .steer t => Sys2Proof.Machine.execSteer t s
  | .merge t => Sys2Proof.Machine.execMerge t s
  | .wadv t => Sys2Proof.Machine.execWadv t s
  | .fan t => Sys2Proof.Machine.execFan t s
  | .tagpsh t => Sys2Proof.Machine.execTagpsh t s
  | .tagpop t => Sys2Proof.Machine.execTagpop t s
  | .bexit t => Sys2Proof.Machine.execBexit t s
  | .inj t => Sys2Proof.Machine.execInj t s
  | .unassignedWordFetch reason field => Sys2Proof.Machine.execUnassignedWordFetch reason field s
  | .contextFiring t => Sys2Proof.Machine.execContextFiring t s
  | .tokenArrival core n => Sys2Proof.Machine.execTokenArrival core n s
  | .orderQueueLoadIssue w => Sys2Proof.Machine.execOrderQueueLoadIssue w s
  | .iterationCommit w => Sys2Proof.Machine.execIterationCommit w s
  | .wadvAdmit core x => Sys2Proof.Machine.execWadvAdmit core x s
  | .drainComplete w => Sys2Proof.Machine.execDrainComplete w s
  | .latticeWatchdog w => Sys2Proof.Machine.execLatticeWatchdog w s
  | .placerDone core r => Sys2Proof.Machine.execPlacerDone core r s
  | .blockEntry h => Sys2Proof.Machine.execBlockEntry h s
  | .jigldComplete w => Sys2Proof.Machine.execJigldComplete w s
  | .adoptAnswer vd cand => Sys2Proof.Machine.execAdoptAnswer vd cand s
  | .tailWrite vd tail => Sys2Proof.Machine.execTailWrite vd tail s
  | .launchAccept vd => Sys2Proof.Machine.execLaunchAccept vd s
  | .taskPlacement part die => Sys2Proof.Machine.execTaskPlacement part die s
  | .dispatchHeadTimeout part die => Sys2Proof.Machine.execDispatchHeadTimeout part die s
  | .zalnaLaunchPacket port src key vd record whole => Sys2Proof.Machine.execZalnaLaunchPacket port src key vd record whole s
  | .timeSliceEnd part => Sys2Proof.Machine.execTimeSliceEnd part s
  | .hostPreemptRequest vd => Sys2Proof.Machine.execHostPreemptRequest vd s
  | .vdSwitchRestore part => Sys2Proof.Machine.execVdSwitchRestore part s
  | .copyChunk core entry => Sys2Proof.Machine.execCopyChunk core entry s
  | .gaeRow core => Sys2Proof.Machine.execGaeRow core s
  | .engctlResume vd gen core entry => Sys2Proof.Machine.execEngctlResume vd gen core entry s
  | .engctlAbort vd gen core entry => Sys2Proof.Machine.execEngctlAbort vd gen core entry s
  | .tableWalk vd die va needs => Sys2Proof.Machine.execTableWalk vd die va needs s
  | .pageFaultService vd die va needs => Sys2Proof.Machine.execPageFaultService vd die va needs s
  | .presp vd value => Sys2Proof.Machine.execPresp vd value s
  | .priResponse vd gen page core entry ok => Sys2Proof.Machine.execPriResponse vd gen page core entry ok s
  | .invalidateStart vd stage2 value => Sys2Proof.Machine.execInvalidateStart vd stage2 value s
  | .invalidationComplete vd => Sys2Proof.Machine.execInvalidationComplete vd s
  | .dlheadWrite vd value => Sys2Proof.Machine.execDlheadWrite vd value s
  | .dirtyLogFull vd => Sys2Proof.Machine.execDirtyLogFull vd s
  | .parkGrowthHw part die granted => Sys2Proof.Machine.execParkGrowthHw part die granted s
  | .pkgrowGrant part value => Sys2Proof.Machine.execPkgrowGrant part value s
  | .pkgrowRefuse part value => Sys2Proof.Machine.execPkgrowRefuse part value s
  | .eventQueueRoom q => Sys2Proof.Machine.execEventQueueRoom q s
  | .vdCreate vd cfg => Sys2Proof.Machine.execVdCreate vd cfg s
  | .vdDisable vd cfg => Sys2Proof.Machine.execVdDisable vd cfg s
  | .vdreset vd => Sys2Proof.Machine.execVdreset vd s
  | .functionLevelReset vd => Sys2Proof.Machine.execFunctionLevelReset vd s
  | .wake vd => Sys2Proof.Machine.execWake vd s
  | .cxlMemWrite part off data => Sys2Proof.Machine.execCxlMemWrite part off data s
  | .cxlMemRead part off len => Sys2Proof.Machine.execCxlMemRead part off len s
  | .clamp part => Sys2Proof.Machine.execClamp part s
  | .clampackConfirm part num => Sys2Proof.Machine.execClampackConfirm part num s
  | .clampackDecline part num => Sys2Proof.Machine.execClampackDecline part num s
  | .wakeComplete part micros failed => Sys2Proof.Machine.execWakeComplete part micros failed s
  | .w2Restore part off => Sys2Proof.Machine.execW2Restore part off s
  | .triageFence part num => Sys2Proof.Machine.execTriageFence part num s
  | .triageRetire part num => Sys2Proof.Machine.execTriageRetire part num s
  | .pcreate part bays list mode => Sys2Proof.Machine.execPcreate part bays list mode s
  | .pdestroy part => Sys2Proof.Machine.execPdestroy part s
  | .capmove src dst count => Sys2Proof.Machine.execCapmove src dst count s
  | .capmoveConfirm badBlock => Sys2Proof.Machine.execCapmoveConfirm badBlock s
  | .capmoveTimeout => Sys2Proof.Machine.execCapmoveTimeout s
  | .attest nonce report => Sys2Proof.Machine.execAttest nonce report s
  | .fwstage image len raise => Sys2Proof.Machine.execFwstage image len raise s
  | .errlog part buffer maxCount => Sys2Proof.Machine.execErrlog part buffer maxCount s
  | .pvoteWrite part value => Sys2Proof.Machine.execPvoteWrite part value s
  | .powerLimitStep => Sys2Proof.Machine.execPowerLimitStep s
  | .powerLimitRelax => Sys2Proof.Machine.execPowerLimitRelax s
  | .thermalStage far unit stage => Sys2Proof.Machine.execThermalStage far unit stage s
  | .railDroop die rail => Sys2Proof.Machine.execRailDroop die rail s
  | .railShut die rail => Sys2Proof.Machine.execRailShut die rail s
  | .railRestart die rail ok => Sys2Proof.Machine.execRailRestart die rail ok s
  | .dieLost die => Sys2Proof.Machine.execDieLost die s
  | .flitCrcError link lasting => Sys2Proof.Machine.execFlitCrcError link lasting s
  | .boundaryLaneError bound dir lane => Sys2Proof.Machine.execBoundaryLaneError bound dir lane s
  | .zalnaLaneError port dir lane => Sys2Proof.Machine.execZalnaLaneError port dir lane s
  | .channelFault die slice unreadable => Sys2Proof.Machine.execChannelFault die slice unreadable s
  | .farChannelLost channel => Sys2Proof.Machine.execFarChannelLost channel s
  | .dataErrorDetected place syndrome lasting => Sys2Proof.Machine.execDataErrorDetected place syndrome lasting s
  | .patrolRead die off lasting => Sys2Proof.Machine.execPatrolRead die off lasting s
  | .powerOnReset => Sys2Proof.Machine.execPowerOnReset s
  | .fwHealthTimeout => Sys2Proof.Machine.execFwHealthTimeout s
  | .registerWrite w off value => Sys2Proof.Machine.execRegisterWrite w off value s
  | .railVoltageRecovered die rail => Sys2Proof.Machine.execRailVoltageRecovered die rail s
  | .fwHealthyReport => Sys2Proof.Machine.execFwHealthyReport s

end Sys2Proof.Machine
end

