-- ==== Sys2Proof/Machine/Slots.lean ====
section
/-! DEFINITION. The issue slots that each instruction takes of its bench on the front end (07 R209, 08 R236, 09 R268, 10 R294, 11 R523). -/

namespace Sys2Proof.Machine

/-- Whether a type is one of 64 bits. -/
def isWideTy (t : Ty) : Bool := decide (tyRegs t = 2)

/-- Slots of an instruction with `n` in its 64-bit form. -/
def slots64 (t : Ty) (n : Nat) : Nat := if isWideTy t then n else 1

/-- Slots of a load or store: a `.b128` access takes two. -/
def slots128 (t : Ty) : Nat := if t = .b128 then 2 else 1

/-- The issue slots of an instruction; a word that is no instruction takes one. -/
def issueSlots : Instr → Nat
  | .add f | .sub f | .min f | .max f | .abs f | .neg f | .setp f | .sel f | .mov f | .lxch f | .match f => slots64 f.ty 2
  | .cvti f => if isWideTy f.ty || isWideTy (subTy f.sub) then 2 else 1
  | .lea _ | .madw _ | .segred _ | .scan _ => 2
  | .mul f => slots64 f.ty 4
  | .div f | .rem f => if isWideTy f.ty then 8 else 4
  | .fmin f | .fmax f | .fsel f | .frnd f | .fclass f | .fscale f | .frexp f => slots64 f.ty 4
  | .dadd _ | .dmul _ | .dfma _ | .dsetp _ => 4
  | .frcp f | .fsqrt f | .fdiv f => if isWideTy f.ty then 16 else 4
  | .cvtn _ | .cvtw _ => 2
  | .ld f | .st f | .ldk f => slots128 f.ty
  | .redAdd f | .redMin f | .redMax f | .redAnd f | .redOr f | .redXor f | .redFadd f | .redFmin f | .redFmax f => slots128 f.ty
  | .atomAdd _ | .atomMin _ | .atomMax _ | .atomAnd _ | .atomOr _ | .atomXor _ | .atomExch _ | .atomCas _ | .atomFadd _ | .atomFmin _
  | .atomFmax _ => 2
  | .fnew _ | .fput _ | .fget _ | .ftry _ | .lkacq _ | .lkrel _ | .barInit _ | .barArr _ | .barWait _ | .barSync _ => 2
  | .copy _ | .copy2 _ | .copy3 _ | .gather _ | .scatter _ | .spawn _ => 4
  | .prefetch _ | .cwb _ | .cinv _ | .tend _ => 2
  | .mma _ | .mmas _ | .trn _ | .garow _ => 2
  | .ldm f | .stm f => if f.wid.toNat = 2 then 4 else 2
  | .garun _ | .jigld _ | .jigst _ => 4
  | .drain _ | .drainFree _ => 2
  | _ => 1

end Sys2Proof.Machine
end

