-- ==== Sys2Proof/Machine/Agents.lean ====
section
/-! DEFINITION. What moves in one step: a bench that issues an instruction (13 R367, R368), a lattice cell that fires (12 R331), a step of
the device or of the world outside, time, and the evictions of caches. The agenda names the agent that moves; where it is empty the
model takes the agents that can move in turn (log 4). -/

namespace Sys2Proof.Machine

/-! Issue. -/

/-- A warp of a bench: its task, its number, its warp slot and itself. -/
structure BenchWarp where
  k : Nat
  i : Nat
  slot : Nat
  w : Warp
  deriving DecidableEq, Repr

/-- The resident warps on a bench of a core. -/
def benchWarpsOf (s : State) (core bench : Nat) : List BenchWarp :=
  s.tasks.flatMap (fun e =>
    if e.2.core = some core then
      (List.range e.2.warps.length).filterMap (fun i => match e.2.warps[i]?, e.2.wslots[i]? with
        | some w, some ws => if ws / 8 = bench then some { k := e.1, i := i, slot := ws, w := w } else none
        | _, _ => none)
    else [])

/-- Whether a `TEND` of a task lets a warp issue: only its own warp may, once the task's lattice warps have drained (09 R254). -/
def mayIssue (s : State) (k i : Nat) (t : Task) : Bool :=
  match t.ending with
  | some j => decide (j = i) && (taskLattice s k).isEmpty
  | none => true

/-- Whether a resident warp is ready (R367): its VD runs, it is not blocked, not in the lattice and has lanes, and its task is not being
pre-empted (13 R366, R371) or ended. -/
def warpReady (s : State) (b : BenchWarp) : Bool :=
  vdRuns s (keyVd b.k) && !((getTask s b.k).any (fun t => t.evicting || !mayIssue s b.k b.i t)) && decide (b.w.blocked = .ready) && b.w.lat.isNone && !warpEnded b.w

/-- The older of warps: the lower stamp, then the lower warp slot. -/
def ageOf (b : BenchWarp) : Nat := b.w.stamp * 64 + b.slot

/-- The warp that a bench picks (R368). -/
def pickWarp (l : List BenchWarp) : Option BenchWarp :=
  match minBy ageOf (l.filter (fun b => decide (896 ≤ b.w.passed))) with
  | some b => some b
  | none => match minBy ageOf (l.filter (fun b => decide (b.w.yieldLeft = 0))) with
    | some b => some b
    | none => minBy ageOf l

/-- What an instruction of `n` issue slots does to the counts of a bench's warps: the ready ones that it passes over count its slots, and
yields run on (R203, R367, R368). -/
def noteIssue (s : State) (core bench n : Nat) (p : BenchWarp) : State :=
  (benchWarpsOf s core bench).foldl (fun s b => modWarp s b.k b.i (fun w =>
    { w with
      passed := if b.slot = p.slot then 0 else if warpReady s b then w.passed + n else w.passed
      yieldLeft := w.yieldLeft - n })) s

/-- Runs the next instruction of a warp of a bench: its divergence stack pops (02 R60), its constant image stands on the core (02 R45), its
word is fetched and decoded, it takes its issue slots, and the instruction has its meaning. A fault that its instruction has raised is
delivered instead, once its vector entry can be read (11 R297). -/
def runWarp (s : State) (core bench : Nat) (b : BenchWarp) : Host.Outcome State Fault Refusal :=
  let s0 := modWarp s b.k b.i beforeFetch
  match getTask s0 b.k with
  | none => .next s0
  | some t =>
    match getWarp t b.i, taskKernel s0 t with
    | some w, some kn =>
      match w.raised with
      | some f => .next (takeFault s0 b.k b.i f)
      | none =>
        match loadConst s0 core b.k b.i t w kn with
        | (some s1, _) => .next s1
        | (none, s1) =>
          match fetchWord s1 core b.k b.i t w w.pc with
          | (.held x, s2) => .next (blockWarp s2 b.k b.i x)
          | (.fault f, s2) => .next (takeFetchFault s2 b.k b.i f)
          | (.word x, s2) =>
            let instr := fetchInstr kn.encv x
            exec instr { noteIssue s2 core bench (issueSlots instr) b with cur := some { task := b.k, warp := b.i }, latCur := none }
    | _, _ => .next s0

/-- A bench of a core starts an instruction. -/
def runIssue (s : State) (core bench : Nat) : Host.Outcome State Fault Refusal :=
  if !coreRuns s core then .next s
  else match pickWarp ((benchWarpsOf s core bench).filter (warpReady s)) with
    | none => .next s
    | some b => runWarp s core bench b

/-! Firing. -/

/-- The instruction of a context's word. -/
def latInstr (t : TForm) : Instr :=
  match t.op.toNat with
  | 0x3C0 => .steer t
  | 0x3C1 => .merge t
  | 0x3C2 => .wadv t
  | 0x3C3 => .fan t
  | 0x3C4 => .tagpsh t
  | 0x3C5 => .tagpop t
  | 0x3C6 => .bexit t
  | 0x3C7 => .inj t
  | _ => .contextFiring t

/-- Whether the lattice works for a VD: it holds the slice of an awake partition. A switch lets its warps drain. -/
def latticeRuns (s : State) (vd : Nat) : Bool :=
  match getPart s (partOf vd) with
  | some p => decide (p.cur = some vd ∧ p.clamp = .awake)
  | none => false

/-- A context of a cell fires. -/
def runFire (s : State) (core cell ctx : Nat) : Host.Outcome State Fault Refusal :=
  if !coreRuns s core then .next s
  else match cellPick s core cell with
    | none => .next s
    | some f =>
      if f.node = nodeOf cell ctx ∧ latticeRuns s (keyVd f.k) = true then
        exec (latInstr f.t) { s with cur := none, latCur := some { core := core, node := f.node } }
      else .next s

/-! Time. -/

/-- The runs of a task after clocks of its core: their watchdogs count (20 R491). -/
def watchTask (s : State) (core clocks : Nat) (k : Nat) (t : Task) : List Warp :=
  (t.warps.zip (List.range t.warps.length)).map (fun (w, i) => match w.lat, t.wslots[i]? with
    | some r, some ws => if watchdogRuns s core ws k r then { w with lat := some { r with watchdog := r.watchdog + clocks } } else w
    | _, _ => w)

/-- A resident task after clocks of its core (11 R312). -/
def ageTask (s : State) (clocks : Nat → Nat) (k : Nat) (t : Task) : Task :=
  match t.core with
  | none => t
  | some core =>
    let n := clocks (regionOf core)
    { t with
      warps := if latticeRuns s t.vd then watchTask s core n k t else t.warps
      waitClocks := if t.st = .waiting then t.waitClocks + w64 n else t.waitClocks }

/-- Time passes: the package timer, the clocks of each active region, which run independently of each other (01 R29), and what counts
them. -/
def passTime (s : State) (clocks : Nat → Nat) (ns : Nat) : State :=
  let s1 : State := { s with
    timeNs := s.timeNs + ns
    tasks := s.tasks.map (fun e => (e.1, ageTask s clocks e.1 e.2))
    clocks := ((regions s).filter (regionActive s)).foldl (fun m j => Store.set 0 m j (Store.get 0 m j + clocks j)) s.clocks }
  let s2 : State := (s1.vds.filter (fun e => e.2.en && !vdIdle s1 e.1)).foldl (fun s e => touchVd s e.1) s1
  spendEnergy s2

/-- The clocks that a region counts in a time at its operating point (14 R403). -/
def pointClocks (s : State) (ns j : Nat) : Nat :=
  pointMHz (pointOf s j) * (s.timeNs + ns) / 1000 - pointMHz (pointOf s j) * s.timeNs / 1000

/-! Caches. -/

/-- A core's L1 evicts a sector (03 R87). -/
def evictSector (s : State) (core sec : Nat) : State :=
  setCore s core { getCore s core with l1 := Store.del (getCore s core).l1 sec }

/-- A TLB evicts what it holds for an address (03 R96). -/
def evictEntry (s : State) (core : Option Nat) (die va : Nat) : State :=
  let keep (l : List TlbEntry) : List TlbEntry := l.filter (fun e => !decide (e.base ≤ va ∧ va < e.base + e.size))
  match core with
  | some c => setCore s c { getCore s c with tlb := keep (getCore s c).tlb, copyTlb := keep (getCore s c).copyTlb }
  | none => { s with dtlb := s.dtlb.map (fun e => (e.1, if e.1 % 4 = die then keep e.2 else e.2)) }

/-! Agents. -/

/-- Whether an instruction is a step of the device or the world, and not one that a warp or a context runs. -/
def isEvent (i : Instr) : Bool :=
  match i with
  | .unassignedWordFetch _ _ => false
  | i => (encode i).isNone

/-- One agent moves. A warp's or a context's instruction is no event. -/
def moveAgent (s : State) (a : Agent) : Host.Outcome State Fault Refusal :=
  match a with
  | .issue core bench => runIssue s core bench
  | .fire core cell ctx => runFire s core cell ctx
  | .event i => if isEvent i then exec i { s with cur := none, latCur := none } else .next s
  | .tick clocks ns => .next (passTime s (fun j => Store.get 0 clocks j) ns)
  | .evictL1 core sec => .next (evictSector s core sec)
  | .evictTlb core die va => .next (evictEntry s core die va)
  | .hostMap vd page host => .next { s with ats := Store.set (some page) s.ats (vd * 2 ^ 52 + page) host }

/-- One agent moves, and gates that its stores or actions have changed act (02 R57). -/
def runAgent (s : State) (a : Agent) : Host.Outcome State Fault Refusal :=
  match moveAgent s a with
  | .next t => .next (pollGates t)
  | o => o

/-! The model's own choice. -/

/-- The steps of a partition: its switch, its slice, its clamp and its placements. -/
def partAgents (s : State) (e : Nat × Part) : List Agent :=
  let pn := e.1
  let p := e.2
  if p.clamp ≠ .awake then []
  else if p.switchTo.isSome then (if p.cur.any (unitsStopped s) then [.event (.vdSwitchRestore pn)] else [])
  else
    let slice : Bool := match p.cur with
      | none => (nextWithWork s pn (16 * pn + 15)).isSome
      | some v => decide (sliceNs (getVd s v) ≤ s.timeNs - p.sliceFrom) || (!hasWork s v && (nextWithWork s pn v).isSome)
    let fits (d lv v : Nat) : Bool := (offers s v d lv).any (fun o => (offerCore s p d o).isSome)
    let dies : List Nat := (List.range (dieCount s)).filter (fun d => p.cur.any (fun v => (List.range 4).any (fun lv => fits d lv v)))
    let ends : List Agent := if slice then [Agent.event (Instr.timeSliceEnd pn)] else []
    let clamps : List Agent := if clampDue s pn then [Agent.event (Instr.clamp pn)] else []
    let grows : List Agent := if p.pmode.getLsbD 2 then [] else p.growReq.map (fun d => Agent.event (Instr.parkGrowthHw pn d true))
    let late (d v : Nat) : Bool := (offers s v d 0).any (fun o => headOverdue s pn d 0 o && (offerCore s p d o).isNone && (headFor s d v o).isSome)
    let heads : List Agent := ((List.range (dieCount s)).filter (fun d => p.cur.any (late d))).map
      (fun d => Agent.event (Instr.dispatchHeadTimeout pn d))
    [ends, clamps, heads, dies.map (fun d => Agent.event (Instr.taskPlacement pn d)), grows].flatten

/-- The steps of a VD: its launch queue, its invalidations and its held records. -/
def vdAgents (s : State) (e : Nat × Vd) : List Agent :=
  let v := e.2
  let launch : List Agent :=
    if v.en && v.rung && !v.stopped && v.devHeld.isNone && partAwake s (partOf e.1) then [Agent.event (Instr.launchAccept e.1)] else []
  let inval : List Agent := if v.invq.isEmpty then [] else [Agent.event (Instr.invalidationComplete e.1)]
  let room : List Agent := if v.held.isEmpty || queueFull v.eq then [] else [Agent.event (Instr.eventQueueRoom (QueueId.vd e.1))]
  [launch, inval, room].flatten

/-- The steps of a core's lattice for one warp. -/
def latAgents (s : State) (core : Nat) (e : Nat × Nat) : List Agent :=
  match getRun s e.1 e.2, slotOfWarp s e.1 e.2 with
  | some r, some (_, ws) =>
    let x : WarpAt := { core := core, wslot := ws }
    let drains : List Agent := if r.drain.isSome then [Agent.event (Instr.drainComplete x)] else []
    let dogs : List Agent := if watchdogLimit ≤ r.watchdog then [Agent.event (Instr.latticeWatchdog x)] else []
    [[Agent.event (Instr.orderQueueLoadIssue x), Agent.event (Instr.iterationCommit x)], drains, dogs].flatten
  | _, _ => []

/-- The context at which a token waits for admission. -/
def gateNode (e : Nat × Token) : Option Nat :=
  match e.2.dest with
  | .slot n _ => some n
  | .south _ _ => none

/-- The warp slots of a core whose warps wait in a `JIGLD`. -/
def jigSlots (s : State) (core : Nat) : List Nat :=
  s.tasks.flatMap (fun e =>
    if e.2.core = some core then
      (List.range e.2.warps.length).filterMap (fun i => match getWarp e.2 i, e.2.wslots[i]? with
        | some w, some ws => if w.blocked = .jig then some ws else none
        | _, _ => none)
    else [])

/-- The steps of a core: its benches, its lattice and its engines. -/
def coreAgents (s : State) (core : Nat) (c : Core) : List Agent :=
  if !coreRuns s core then []
  else
    let issue : List Agent := ((List.range 8).filter (fun b => (benchWarpsOf s core b).any (warpReady s))).map (fun b => Agent.issue core b)
    let cells : List Agent :=
      if c.store.isEmpty then []
      else (List.range 64).filterMap (fun x => (cellPick s core x).map (fun f => Agent.fire core x (f.node % 8)))
    let flights : List Agent := c.flight.map (fun e => Agent.event (Instr.tokenArrival core e.1))
    let gates : List Agent := ((c.gate.filterMap gateNode).dedup).map (fun n => Agent.event (Instr.wadvAdmit core { cell := cellOf n, ctx := n % 8 }))
    let lats : List Agent := (latticeWarps s core).flatMap (latAgents s core)
    let copies : List Agent := (c.copies.filter (fun e => decide (e.2.st = .going))).map (fun e => Agent.event (Instr.copyChunk core e.1))
    let rows : List Agent := if (gaeNext s core).isSome then [Agent.event (Instr.gaeRow core)] else []
    let places : List Agent := if c.places.isEmpty then [] else [Agent.event (Instr.placerDone core .failed)]
    let jigs : List Agent := (jigSlots s core).map (fun ws => Agent.event (Instr.jigldComplete { core := core, wslot := ws }))
    [issue, cells, flights, gates, lats, copies, rows, places, jigs].flatten

/-- The agents that the model moves when the agenda names none. -/
def autoAgents (s : State) : List Agent :=
  let cores : List Agent := (List.range (coreCount s)).flatMap (fun core =>
    if (rootsOn s core).isEmpty && (Store.find s.cores core).isNone then [] else coreAgents s core (getCore s core))
  [s.parts.flatMap (partAgents s), s.vds.flatMap (vdAgents s), cores].flatten

/-- A step that no agenda names: the agents that can move take turns, and a nanosecond passes. -/
def runAuto (s : State) : Host.Outcome State Fault Refusal :=
  let l := autoAgents s
  match l[s.timeNs % l.length]? with
  | none => .next (passTime s (pointClocks s 1) 1)
  | some a => match runAgent s a with
    | .next t => .next (passTime t (pointClocks t 1) 1)
    | o => o

end Sys2Proof.Machine
end

