-- ==== Sys2Proof/Machine/Load.lean ====
section
/-! DEFINITION. Loading a word from outside so that the next step runs it: a partition, a virtual device, a job and a warp stand ready on
core 0 (log 24). No instruction and no step of the device uses this file. -/

namespace Sys2Proof.Machine

/-- A kernel of one warp at encoding version 3, whose code is the 64-bit word at 0x1_0000. -/
def loadedKernel : Kernel :=
  { addr := 0x2000, ltl := 0, nbar := 16, regs := 32, warps := 1, nargs := 0, cappol := 0, encv := 3, entry := 0x10000, spill := 1,
    shmem := 65536, constAddr := 0, constLen := 0, trapvec := 0, jigs := [] }

/-- Its job on die 0, whose futures stand at 0x3000. -/
def loadedJob : Job :=
  { mkJob 0 1 loadedKernel 1 [] [0] 0 0x3000 none none with gateOpen := true }

/-- The key of its one task. -/
def loadedKey : Nat := taskKey 0 (mkHandle 1 0)

/-- Where its spill backing and save block stand: the lowest places of the regions of a partition of one bay. -/
def loadedRoom : Nat × Nat :=
  let areas := layAreas (newPart 1 0) true
  let low (k : AreaKind) : Nat := ((areas.find? (fun a => decide (a.kind = k))).map Area.base).getD 0
  (low .spill, low .save)

/-- The task, resident on core 0. -/
def loadedTask : Task :=
  { newTask loadedJob 0 0 none 0 loadedRoom with core := some 0, lastCore := 0, st := .running, wslots := [0] }

/-- The words of its tables by window offset: both stages map the first GiB to the window of die 0, with every permission. -/
def loadedTables : List (Nat × DWord) := [(0x100000, 0x110001), (0x110000, 0xFB), (0x120000, 0x130001), (0x130000, 0xFB)]

/-- The cached translation of that GiB. -/
def loadedTlb : TlbEntry :=
  { vd := 0, base := 0, size := 2 ^ 30, loc := 0, die := 0, pa := 0, x := true, w := true, rd := true, dirty := true, accessed := true }

/-- The package with the task standing ready on core 0 of partition 0, which has bay 0 of die 0. -/
def loadTask (s : State) : State :=
  let p : Part := { laidPart 1 0 s.fit.farm with cur := some 0 }
  let v : Vd := { Vd.reset with en := true, s2root := 0x100000, s1root := 0x120000, s1eff := 0x120000 }
  let s1 : State := setCore (setVd (setPart s 0 p) 0 v) 0 { Core.empty with tlb := [loadedTlb] }
  let s2 : State := loadedTables.foldl (fun s e => wr64 s ((leafPa s 0 0 0 e.1).getD 0) e.2) s1
  setTask (setJob s2 loadedJob) loadedKey loadedTask

/-- A word at the kernel's entry, which the next step fetches. -/
def loadFront (s : State) (d : DWord) : State :=
  let s1 := loadTask s
  { wr64 s1 ((leafPa s1 0 0 0 0x10000).getD 0) d with agenda := [.issue 0 0] }

/-- The operand tokens of a context: as many of each slot as a firing may take. -/
def loadedToks (t : TForm) (tag : Tag) (level : Nat) : List (HoldPlace × Token) :=
  let slots : List Nat := match mmaSeqs t with
    | [] => [0, 1, 2]
    | l => l.flatMap (fun e => List.replicate e.2 e.1)
  (slots.zip (List.range slots.length)).map (fun e =>
    (.matched, { dest := .slot 0 e.1, tag := tag, level := level, mask := 0xFFFFFFFF, w64 := false,
                 data := List.replicate 32 0, mark := false, arr := e.2, src := 64 }))

/-- An image of one context, whose tokens stand ready in cell 0 of core 0; the next step fires it. -/
def loadBlock (s : State) (t : TForm) : State :=
  let level := if t.op = 0x3C5 then 1 else 0
  let row := decide (t.op = 0x300 ∨ t.op = 0x341)
  let im : Image :=
    { vd := 0, kdesc := loadedKernel.addr, encv := 3, expl := false, tdepth := level, heads := [0x10000, 0x10000], joins := [0x10000, 0x10000],
      ddepth := 0, nodes := [(0, t)], livein := [], carried := [], liveout := [], exits := [],
      seqs := if row then [] else [(0, 0, level)], rows := if row then [(0, 0)] else [], drain := [], checksum := [],
      fw := 1, fh := 1, origin := 0, captured := none, withdrawn := false, levels := [(0, level)], afterPop := [] }
  let s1 := loadTask s
  let s2 := setCore s1 0 { getCore s1 0 with slots := [(0, im)] }
  let s3 := enterImage s2 loadedKey 0 0 0 im
  let tag : Tag := { wslot := 0, islot := 0, o := 0, m := 0, i := 0 }
  { setCore s3 0 { getCore s3 0 with store := loadedToks t tag level } with seq := 128, agenda := [.fire 0 0 0] }

/-- Where the next step fetches its word, if the agenda's next agent is a bench with a warp that is ready. -/
def fetchPa (s : State) : Option Nat :=
  match s.agenda with
  | .issue core bench :: _ =>
    match pickWarp ((benchWarpsOf s core bench).filter (warpReady s)) with
    | none => none
    | some b =>
      let w := beforeFetch b.w
      match getTask s b.k with
      | none => none
      | some t => match fetchPlace s core t w.active w.pc with
        | (.ok pa, _) => if coreRuns s core then some pa else none
        | _ => none
  | _ => none

/-- A state whose next step runs a word: a context's word fires, and any other word stands where the front end fetches it. -/
def loadWord (s : State) (d : DWord) : State :=
  let lattice : Bool := isBlockWord d && (match decodeWord 3 true d with
    | .ok _ => true
    | .error _ => false)
  if lattice then loadBlock s (getT d)
  else match fetchPa s with
    | some pa => putBytes s pa 8 d.toNat
    | none => loadFront s d

end Sys2Proof.Machine
end

