-- ==== Sys2Proof/Machine/Step.lean ====
section
/-! DEFINITION. One step of the package: the agent that the agenda names next moves, or one of those that can (log 4); and the placing of
a word where the next step runs it. -/

namespace Sys2Proof.Machine

def step (s : State) : Host.Outcome State Fault Refusal :=
  match s.agenda with
  | [] => runAuto s
  | a :: rest => runAgent { s with agenda := rest } a

/-- `s` with a word placed so that the next step runs it (log 24). An instruction has 64 bits. -/
def State.withFetchWord (s : State) (_nbits w : Nat) : State := loadWord s (BitVec.ofNat 64 w)

end Sys2Proof.Machine
end

