-- ==== Sys2Proof/Safety.lean ====
section
/-! DEFINITION. What counts as a safe run, and the terms in which claims speak of an instruction: that it runs, what it writes, and that
nothing else changes. -/

namespace Sys2Proof

/-- A step that neither stops nor is refused. -/
def Safe (s : Machine.State) : Prop := ∃ t, Machine.step s = .next t

namespace Claims

open Sys2Proof.Machine

/-- The current warp is about to run the instruction, and the instruction passes the checks of stages 2 to 4 of 18 R436. -/
def Runs (s : State) (i : Instr) (c : Ctx) : Prop := curCtx s i = some c ∧ preCheck s i c = none

/-- Whether a result of `n` registers in the lanes of `m` writes thread register `r` of lane `l`. -/
def writesReg (m : Word) (d : Opnd) (n r l : Nat) : Bool :=
  match d with
  | .v q => inMask m l && decide (q.toNat ≤ r ∧ r < q.toNat + n)
  | _ => false

/-- Whether a result in the lanes of `m` writes predicate `p` of lane `l`; a write to `p7` is discarded (06 R155). -/
def writesPred (m : Word) (d : Opnd) (p l : Nat) : Bool :=
  match d with
  | .p q => inMask m l && decide (p = q.toNat ∧ p ≠ 7)
  | _ => false

/-- The thread registers of `w` are those of `w₀` but for a result of `n` registers `x lane word` in the lanes of `m`. -/
structure RegResult (w₀ w : Warp) (m : Word) (d : Opnd) (n : Nat) (x : Nat → Nat → Word) : Prop where
  /-- The destination registers hold the result in each lane. -/
  regs : ∀ q j l, d = .v q → j < n → l < 32 → inMask m l = true → getV w (q.toNat + j) l = x l j
  /-- Every other register of every lane keeps its value, and its mark of a lost value. -/
  others : ∀ r l, r < 256 → l < 32 → writesReg m d n r l = false →
    getV w r l = getV w₀ r l ∧ Store.get false w.lostRegs (32 * r + l) = Store.get false w₀.lostRegs (32 * r + l)

/-- The predicates of `w` are those of `w₀` but for a result in the lanes of `m`. -/
structure PredResult (w₀ w : Warp) (m : Word) (d : Opnd) (x : Nat → Nat → Word) : Prop where
  /-- A destination predicate is set where the result is not zero. -/
  preds : ∀ q l, d = .p q → q ≠ 7 → l < 32 → inMask m l = true → inMask (predMask w q.toNat) l = decide (x l 0 ≠ 0)
  /-- Every other predicate of every lane keeps its value, and its mark of a lost value. -/
  others : ∀ p l, p < 8 → l < 32 → writesPred m d p l = false → inMask (predMask w p) l = inMask (predMask w₀ p) l
    ∧ Store.get false w.lostRegs (lostP p l) = Store.get false w₀.lostRegs (lostP p l)
  /-- Every uniform register keeps its mark of a lost value. -/
  uniform : ∀ n, n < 64 → Store.get false w.lostRegs (lostK n) = Store.get false w₀.lostRegs (lostK n)

/-- Everything of a warp but its thread registers and predicates is as it was, and it has issued one more instruction. -/
def OnlyRegs (w₀ w : Warp) : Prop :=
  w = { w₀ with pc := w₀.pc + 8, issued := w₀.issued + 1, regs := w.regs, preds := w.preds, lostRegs := w.lostRegs }

/-- The two words of a result of one or two registers. -/
def wordsOf (v : Nat → DWord) (l j : Nat) : Word := if j = 0 then lowWord (v l) else highWord (v l)

/-- The instruction completes: in each lane on which it acts its destination of `n` registers receives `v`, the warp moves to the next
instruction, and nothing else of the warp or of the package changes. -/
def Computes (s : State) (i : Instr) (c : Ctx) (d : Opnd) (n : Nat) (v : Nat → DWord) : Prop :=
  ∃ w, exec i s = .next (setWarp s c.k c.i w) ∧ RegResult c.w w c.g d n (wordsOf v) ∧ PredResult c.w w c.g d (wordsOf v) ∧
    OnlyRegs c.w w

/-- What a translation may change: page-table bits and pages that are served from a ring, the queues and rings of VDs and partitions, and
the TLBs and the state of L2 lines; a page that is served loses its poison marks. Everything else of the package is as it was. -/
structure AccessFrame (s t : State) : Prop where
  rest : t = { s with mem := t.mem, poison := t.poison, parts := t.parts, vds := t.vds, dtlb := t.dtlb, l2 := t.l2, cores := t.cores }
  cores : ∀ n, getCore t n = { getCore s n with tlb := (getCore t n).tlb, copyTlb := (getCore t n).copyTlb }
  memory : Memory.wf s.mem = true → Memory.wf t.mem = true
  poison : ∀ n, Store.get false t.poison n = true → Store.get false s.poison n = true

end Claims

end Sys2Proof
end

