-- ==== Sys2Proof/Certificates/Slice0/Obligations.lean ====
section
/-! DEFINITION. The statements for the provers, each a proposition about the model that formalises rules of the manual, with the
terms in which they speak. A statement about an instruction of a warp holds for every state, warp, guard and operand form: its only
premise is that the warp is about to run the instruction and that the instruction passes its checks (`Claims.Runs`). -/

open Sys2Proof Sys2Proof.Machine Sys2Proof.Claims

/-! Integer, logic, compare and move instructions (07 R180 to R198). -/

namespace Sys2Proof.Claims

/-- A source of a lane read under a 32-bit or 64-bit integer type (07 R181). -/
def intSrc (ty : Ty) (w : Warp) (o : Opnd) (l : Nat) : Int :=
  match ty with
  | .z32 => (src32 w o l).toNat
  | .s64 => (src64 w o l).toInt
  | .z64 => (src64 w o l).toNat
  | _ => (src32 w o l).toInt

/-- The least and greatest values of the 32-bit and 64-bit integer types (05 R123). -/
def leastOf : Ty → Int
  | .z32 | .z64 => 0
  | .s64 => -9223372036854775808
  | _ => -2147483648
def greatestOf : Ty → Int
  | .z32 => 4294967295
  | .z64 => 18446744073709551615
  | .s64 => 9223372036854775807
  | _ => 2147483647

/-- `x mod 2^w` of 07 R184. -/
def wrapTo (ty : Ty) (x : Int) : DWord := if tyRegs ty = 2 then BitVec.ofInt 64 x else (BitVec.ofInt 32 x).zeroExtend 64

/-- The result of 07 R184: saturated, or wrapped. -/
def intResult (ty : Ty) (sat : Bool) (x : Int) : DWord :=
  wrapTo ty (if sat then max (leastOf ty) (min (greatestOf ty) x) else x)

/-- The quotient of 07 R186. -/
def quotientOf (ty : Ty) (sat : Bool) (a b : Int) : Int :=
  if b = 0 then greatestOf ty - leastOf ty
  else if a = leastOf ty ∧ b = -1 ∧ leastOf ty < 0 then (if sat then greatestOf ty else leastOf ty)
  else Int.tdiv a b

/-- Number of leading and trailing zero bits of a word, 32 for zero (07 R187). -/
def clzOf (x : Word) : Nat := ((List.range 32).find? (fun i => x.getLsbD (31 - i))).getD 32
def ctzOf (x : Word) : Nat := ((List.range 32).find? (fun i => x.getLsbD i)).getD 32

/-- A 32-bit word as the value of a result of one register. -/
def one (x : Word) : DWord := x.zeroExtend 64

/-- The comparison of 07 R192. -/
def comparison (code : Nat) (a b : Int) : Prop :=
  (code = 0 ∧ a = b) ∨ (code = 1 ∧ a ≠ b) ∨ (code = 2 ∧ a < b) ∨ (code = 3 ∧ a ≤ b) ∨ (code = 4 ∧ b < a) ∨ (code = 5 ∧ b ≤ a)

/-- An instruction that computes some value with the property in every lane on which it acts. -/
def ComputesWhere (s : State) (i : Instr) (c : Ctx) (d : Opnd) (n : Nat) (p : Nat → DWord → Prop) : Prop :=
  ∃ v, Computes s i c d n v ∧ ∀ l, l < 32 → inMask c.g l = true → p l (v l)

end Sys2Proof.Claims

/-- 07 R183, R184: the results of integer arithmetic, wrapped or saturated, for every type, operand form and guard. -/
def Sys2Proof.Claims.IntegerArithmeticResults : Prop :=
  ∀ (s : State) (c : Ctx) (f : RArith),
    let a := intSrc f.ty c.w f.a
    let b := intSrc f.ty c.w f.b
    let e := intSrc f.ty c.w f.c
    (Runs s (.add f) c → Computes s (.add f) c f.d (tyRegs f.ty) (fun l => intResult f.ty f.sat (a l + b l))) ∧
    (Runs s (.sub f) c → Computes s (.sub f) c f.d (tyRegs f.ty) (fun l => intResult f.ty f.sat (a l - b l))) ∧
    (Runs s (.mul f) c → Computes s (.mul f) c f.d (tyRegs f.ty) (fun l => wrapTo f.ty (a l * b l))) ∧
    (Runs s (.mulh f) c → Computes s (.mulh f) c f.d 1 (fun l => wrapTo f.ty (a l * b l / 2 ^ 32))) ∧
    (Runs s (.mad f) c → Computes s (.mad f) c f.d 1 (fun l => intResult f.ty f.sat (a l * b l + e l))) ∧
    (Runs s (.madw f) c → Computes s (.madw f) c f.d 2
      (fun l => BitVec.ofInt 64 (a l * b l + intSrc (if f.ty = .z32 then .z64 else .s64) c.w f.c l))) ∧
    (Runs s (.min f) c → Computes s (.min f) c f.d (tyRegs f.ty) (fun l => wrapTo f.ty (min (a l) (b l)))) ∧
    (Runs s (.max f) c → Computes s (.max f) c f.d (tyRegs f.ty) (fun l => wrapTo f.ty (max (a l) (b l)))) ∧
    (Runs s (.abs f) c → Computes s (.abs f) c f.d (tyRegs f.ty) (fun l => intResult f.ty f.sat |a l|)) ∧
    (Runs s (.neg f) c → Computes s (.neg f) c f.d (tyRegs f.ty) (fun l => intResult f.ty f.sat (-(a l)))) ∧
    (Runs s (.sad f) c → Computes s (.sad f) c f.d 1 (fun l => wrapTo f.ty (|a l - b l| + e l)))

/-- 07 R185: sum and difference with carry; the carry-out goes to operand c where it names one of `p0` to `p6`. -/
def Sys2Proof.Claims.CarryResults : Prop :=
  ∀ (s : State) (c : Ctx) (f : RArith) (i : Instr) (r : Nat → Word) (cout : Nat → Bool),
    let cin := fun l => if src32 c.w f.c l ≠ 0 then 1 else 0
    (i = .addc f ∧ (∀ l, r l = src32 c.w f.a l + src32 c.w f.b l + BitVec.ofNat 32 (cin l)) ∧
        (∀ l, cout l = decide (2 ^ 32 ≤ (src32 c.w f.a l).toNat + (src32 c.w f.b l).toNat + cin l))
      ∨ i = .subb f ∧ (∀ l, r l = src32 c.w f.a l - src32 c.w f.b l - BitVec.ofNat 32 (cin l)) ∧
        (∀ l, cout l = decide ((src32 c.w f.a l).toNat < (src32 c.w f.b l).toNat + cin l))) →
    Runs s i c →
    ∃ w, exec i s = .next (setWarp s c.k c.i w) ∧ RegResult c.w w c.g f.d 1 (fun l _ => r l) ∧ OnlyRegs c.w w ∧
      ∀ p l, l < 32 → inMask (predMask w p) l =
        if inMask c.g l = true ∧ p < 7 ∧ f.c = .p (BitVec.ofNat 3 p) then cout l
        else if inMask c.g l = true ∧ p < 7 ∧ f.d = .p (BitVec.ofNat 3 p) then decide (r l ≠ 0)
        else inMask (predMask c.w p) l

/-- 07 R186: quotient and remainder, with their results for a zero divisor and for the quotient that does not fit. The remainder is
that of division toward zero, which takes the sign of the dividend. -/
def Sys2Proof.Claims.DivisionResults : Prop :=
  ∀ (s : State) (c : Ctx) (f : RArith),
    let a := intSrc f.ty c.w f.a
    let b := intSrc f.ty c.w f.b
    (Runs s (.div f) c → Computes s (.div f) c f.d (tyRegs f.ty) (fun l => wrapTo f.ty (quotientOf f.ty f.sat (a l) (b l)))) ∧
    (Runs s (.rem f) c → Computes s (.rem f) c f.d (tyRegs f.ty) (fun l => wrapTo f.ty (Int.tmod (a l) (b l))))

/-- 07 R187 to R191: logic, counts, shifts, and bit fields; every shift count, position and length is legal. -/
def Sys2Proof.Claims.LogicAndBitResults : Prop :=
  ∀ (s : State) (c : Ctx) (f : RArith) (r : RRaw),
    let a := src32 c.w f.a
    let b := src32 c.w f.b
    let e := src32 c.w f.c
    (Runs s (.and f) c → Computes s (.and f) c f.d 1 (fun l => one (a l &&& b l))) ∧
    (Runs s (.or f) c → Computes s (.or f) c f.d 1 (fun l => one (a l ||| b l))) ∧
    (Runs s (.xor f) c → Computes s (.xor f) c f.d 1 (fun l => one (a l ^^^ b l))) ∧
    (Runs s (.not f) c → Computes s (.not f) c f.d 1 (fun l => one (~~~(a l)))) ∧
    (Runs s (.andn f) c → Computes s (.andn f) c f.d 1 (fun l => one (a l &&& ~~~(b l)))) ∧
    (Runs s (.blut r) c → ComputesWhere s (.blut r) c r.d 1 (fun l x => ∀ i, i < 32 → x.getLsbD i =
      r.opm.getLsbD (((src32 c.w r.a l).getLsbD i).toNat + 2 * ((src32 c.w r.b l).getLsbD i).toNat
        + 4 * ((src32 c.w r.c l).getLsbD i).toNat))) ∧
    (Runs s (.shl f) c → Computes s (.shl f) c f.d 1 (fun l => one (a l <<< (b l).toNat))) ∧
    (Runs s (.shr f) c → Computes s (.shr f) c f.d 1 (fun l => one (a l >>> (b l).toNat))) ∧
    (Runs s (.sra f) c → Computes s (.sra f) c f.d 1 (fun l => one ((a l).sshiftRight (b l).toNat))) ∧
    (Runs s (.rot f) c → Computes s (.rot f) c f.d 1 (fun l => one ((a l).rotateLeft (b l).toNat))) ∧
    (Runs s (.fshl f) c → Computes s (.fshl f) c f.d 1 (fun l =>
      let x : DWord := a l ++ e l
      let m := min (b l).toNat 32
      if f.sub = 0 then one (highWord (x <<< m)) else one (lowWord (x >>> m)))) ∧
    (Runs s (.bfx f) c → Computes s (.bfx f) c f.d 1 (fun l =>
      let p := min ((b l).toNat % 256) 32
      let n := min ((b l).toNat / 256 % 256) 32
      if f.ty = .s32 then one (BitVec.ofInt 32 (Int.bmod ((a l).toInt / 2 ^ p) (2 ^ n)))
      else one (BitVec.ofNat 32 ((a l).toNat / 2 ^ p % 2 ^ n)))) ∧
    (Runs s (.bfi f) c → ComputesWhere s (.bfi f) c f.d 1 (fun l x =>
      let p := min ((e l).toNat % 256) 32
      let n := min ((e l).toNat / 256 % 256) (32 - p)
      ∀ i, i < 32 → x.getLsbD i = if p ≤ i ∧ i < p + n then (a l).getLsbD (i - p) else (b l).getLsbD i)) ∧
    (Runs s (.popc f) c → Computes s (.popc f) c f.d 1 (fun l => BitVec.ofNat 64 ((List.range 32).countP (fun i => (a l).getLsbD i)))) ∧
    (Runs s (.clz f) c → Computes s (.clz f) c f.d 1 (fun l => BitVec.ofNat 64 (clzOf (a l)))) ∧
    (Runs s (.ctz f) c → Computes s (.ctz f) c f.d 1 (fun l => BitVec.ofNat 64 (ctzOf (a l)))) ∧
    (Runs s (.brev f) c → Computes s (.brev f) c f.d 1 (fun l => one (a l).reverse)) ∧
    (Runs s (.bpick r) c → ComputesWhere s (.bpick r) c r.d 1 (fun l x => ∀ i, i < 4 →
      x.extractLsb' (8 * i) 8 = (src32 c.w r.b l ++ src32 c.w r.a l).extractLsb' (8 * (r.opm.extractLsb' (3 * i) 3).toNat) 8))

/-- 07 R192, R193, R195, R196: compare, select, predicate logic, moves, conversion of width, and address formation. -/
def Sys2Proof.Claims.CompareSelectMoveResults : Prop :=
  ∀ (s : State) (c : Ctx) (f : RArith) (r : RRaw) (m : IForm),
    (Runs s (.setp f) c → ComputesWhere s (.setp f) c f.d 1 (fun l x =>
      let t := comparison (f.sub.toNat % 8) (intSrc f.ty c.w f.a l) (intSrc f.ty c.w f.b l)
      let p := src32 c.w f.c l ≠ 0
      ((if f.sub.toNat < 8 then t ∧ p else t ∨ p) ∧ x = 1) ∨ (¬ (if f.sub.toNat < 8 then t ∧ p else t ∨ p) ∧ x = 0))) ∧
    (Runs s (.sel f) c → Computes s (.sel f) c f.d (tyRegs f.ty) (fun l =>
      let o := if src32 c.w f.c l ≠ 0 then f.a else f.b
      if f.ty = .z64 then src64 c.w o l else one (src32 c.w o l))) ∧
    (Runs s (.plop r) c → ComputesWhere s (.plop r) c r.d 1 (fun l x =>
      x = BitVec.ofNat 64 (r.opm.getLsbD ((decide (src32 c.w r.a l ≠ 0)).toNat + 2 * (decide (src32 c.w r.b l ≠ 0)).toNat
        + 4 * (decide (src32 c.w r.c l ≠ 0)).toNat)).toNat)) ∧
    (Runs s (.mov f) c → Computes s (.mov f) c f.d (tyRegs f.ty) (fun l =>
      if f.ty = .z64 then src64 c.w f.a l else one (src32 c.w f.a l))) ∧
    (Runs s (.movi m) c → Computes s (.movi m) c (.v m.d) 1 (fun _ => one m.imm)) ∧
    (Runs s (.cvti f) c → Computes s (.cvti f) c f.d (tyRegs (subTy f.sub)) (fun l =>
      let x := intOf f.ty (if tyRegs f.ty = 2 then src64 c.w f.a l else one (src32 c.w f.a l))
      let d := subTy f.sub
      let k := tyBits d
      let least : Int := if tySigned d then -(2 ^ (k - 1)) else 0
      let greatest : Int := if tySigned d then 2 ^ (k - 1) - 1 else 2 ^ k - 1
      let y := if f.sat then max least (min greatest x) else if tySigned d then Int.bmod x (2 ^ k) else x % 2 ^ k
      wrapTo d y)) ∧
    (Runs s (.lea f) c → Computes s (.lea f) c f.d 2 (fun l =>
      src64 c.w f.a l + BitVec.ofInt 64 ((if f.ty = .s32 then (src32 c.w f.b l).toInt else (src32 c.w f.b l).toNat) * 2 ^ f.sub.toNat)))

/-- 07 R182: the I forms compute with imm32 as operand b, at the default type, without saturation. -/
def Sys2Proof.Claims.ImmediateFormResults : Prop :=
  ∀ (s : State) (c : Ctx) (f : IForm),
    let a := src32 c.w (.v f.a)
    let d := Opnd.v f.d
    (Runs s (.addImm f) c → Computes s (.addImm f) c d 1 (fun l => one (a l + f.imm))) ∧
    (Runs s (.subImm f) c → Computes s (.subImm f) c d 1 (fun l => one (a l - f.imm))) ∧
    (Runs s (.mulImm f) c → Computes s (.mulImm f) c d 1 (fun l => one (a l * f.imm))) ∧
    (Runs s (.minImm f) c → Computes s (.minImm f) c d 1 (fun l => one (if (a l).sle f.imm then a l else f.imm))) ∧
    (Runs s (.maxImm f) c → Computes s (.maxImm f) c d 1 (fun l => one (if (a l).sle f.imm then f.imm else a l))) ∧
    (Runs s (.andImm f) c → Computes s (.andImm f) c d 1 (fun l => one (a l &&& f.imm))) ∧
    (Runs s (.orImm f) c → Computes s (.orImm f) c d 1 (fun l => one (a l ||| f.imm))) ∧
    (Runs s (.xorImm f) c → Computes s (.xorImm f) c d 1 (fun l => one (a l ^^^ f.imm))) ∧
    (Runs s (.andnImm f) c → Computes s (.andnImm f) c d 1 (fun l => one (a l &&& ~~~f.imm))) ∧
    (Runs s (.shlImm f) c → Computes s (.shlImm f) c d 1 (fun l => one (a l <<< f.imm.toNat))) ∧
    (Runs s (.shrImm f) c → Computes s (.shrImm f) c d 1 (fun l => one (a l >>> f.imm.toNat))) ∧
    (Runs s (.sraImm f) c → Computes s (.sraImm f) c d 1 (fun l => one ((a l).sshiftRight f.imm.toNat))) ∧
    (Runs s (.rotImm f) c → Computes s (.rotImm f) c d 1 (fun l => one ((a l).rotateLeft f.imm.toNat)))

/-- 07 R194: `MOVK` writes to its uniform register the value of its operand in the lowest active lane whose guard is true, the I form
the immediate; with no true lane it writes nothing. A written register loses its mark of a lost value (17 R421). -/
def Sys2Proof.Claims.UniformMoveResults : Prop :=
  ∀ (s : State) (c : Ctx) (i : Instr) (q : BitVec 6) (x : Word),
    ((∃ f, i = .movk f ∧ f.d = .k q ∧ ∀ l, lowLane c.g = some l → x = src32 c.w f.a l) ∨
      (∃ f, i = .movkImm f ∧ q = f.d.extractLsb' 0 6 ∧ x = f.imm)) →
    Runs s i c →
    ∃ w, exec i s = .next (setWarp s c.k c.i w) ∧
      w = { c.w with pc := c.w.pc + 8, issued := c.w.issued + 1, kregs := w.kregs, lostRegs := w.lostRegs } ∧
      (∀ m, getK w m = if m = q.toNat ∧ c.g ≠ 0 then x else getK c.w m) ∧
      ∀ m, Store.get false w.lostRegs m = if m = lostK q.toNat ∧ c.g ≠ 0 then false else Store.get false c.w.lostRegs m

/-- 07 R197, R198: special registers, and the core and package counters. -/
def Sys2Proof.Claims.SpecialRegisterAndClockReads : Prop :=
  ∀ (s : State) (c : Ctx) (r : RRaw) (f : RArith),
    (Runs s (.srd r) c → ComputesWhere s (.srd r) c r.d 1 (fun l x =>
      (r.opm = 0x000 → x = BitVec.ofNat 64 l) ∧
      (r.opm = 0x001 → x = one (BitVec.ofNat 32 c.i)) ∧
      (r.opm = 0x002 → x = one (BitVec.ofNat 32 c.kern.warps)) ∧
      (r.opm = 0x003 → x = one (BitVec.ofNat 32 (32 * c.i + l))) ∧
      (r.opm = 0x004 → x = one (c.t.handle.extractLsb' 0 32)) ∧
      (r.opm = 0x005 → ∀ j, taskJob s c.t = some j → x = one (BitVec.ofNat 32 j.ntask)) ∧
      (r.opm = 0x006 → x = (c.t.handle.extractLsb' 32 16).zeroExtend 64) ∧
      (r.opm = 0x007 → x = one (BitVec.ofNat 32 c.core)) ∧
      (r.opm = 0x008 → x = BitVec.ofNat 64 (c.i % 8)) ∧
      (r.opm = 0x009 → x = one c.w.active) ∧
      (r.opm = 0x00A → x = one c.w.launch) ∧
      (r.opm = 0x00B → x = BitVec.ofNat 64 (2 ^ l - 1)) ∧
      (r.opm = 0x00C → x = one (BitVec.ofNat 32 c.w.stack.length)) ∧
      (r.opm = 0x00D → x = BitVec.ofNat 64 (c.t.vd % 16)))) ∧
    (Runs s (.clk f) c → Computes s (.clk f) c f.d 2 (fun _ =>
      if f.sub = 0 then BitVec.ofNat 64 (Store.get 0 s.clocks (c.core / 12)) else BitVec.ofNat 64 s.timeNs))

/-! Control flow (02 R59, R60, 07 R199 to R203). -/

namespace Sys2Proof.Claims

/-- The instruction completes and leaves the warp `w`; nothing else of the package changes. -/
def Leaves (s : State) (i : Instr) (c : Ctx) (w : Warp) : Prop := exec i s = .next (setWarp s c.k c.i w)

/-- The current warp of a context as a later state holds it. -/
def warpIn (t : State) (c : Ctx) : Option Warp := (getTask t c.k).bind (fun x => getWarp x c.i)

/-- An address moved by a signed number of instruction words (07 R199). -/
def byWords {n : Nat} (a : DWord) (off : BitVec n) : DWord := a + BitVec.ofInt 64 (8 * off.toInt)

/-- A branch of a warp by the lanes that take it (02 R60): uniform, not taken, or divergent with one entry pushed. -/
def branched (w : Warp) (taken : Word) (target join : DWord) : Warp :=
  let next := w.pc + 8
  if taken = w.active then { w with pc := target, issued := w.issued + 1 }
  else if taken = 0 then { w with pc := next, issued := w.issued + 1 }
  else
    { w with
      pc := target, active := taken, issued := w.issued + 1
      stack := { join := join, restore := w.active, pendingPc := next, pending := w.active &&& ~~~taken } :: w.stack }

/-- The groups of a `BRX` (07 R200): one for each distinct target of the lanes that take it, in the order of their lowest lanes, then
the other active lanes at the next instruction. -/
structure BrxGroups (w : Warp) (taken : Word) (target : Nat → DWord) (gs : List (DWord × Word)) : Prop where
  split : ∃ ts, gs = ts ++ (if w.active &&& ~~~taken = 0 then [] else [(w.pc + 8, w.active &&& ~~~taken)]) ∧
    (∀ l, l < 32 → inMask taken l = true → ∃ x ∈ ts, x.1 = target l ∧ inMask x.2 l = true) ∧
    (∀ x ∈ ts, x.2 ≠ 0 ∧ ∀ l, l < 32 → (inMask x.2 l = true ↔ inMask taken l = true ∧ target l = x.1)) ∧
    ts.Pairwise (fun x y => lane0 x.2 < lane0 y.2)

/-- The masks of the first groups together. -/
def groupUnion (gs : List (DWord × Word)) (n : Nat) : Word := (gs.take n).foldl (fun m x => m ||| x.2) 0

/-- The entries that a `BRX` pushes, newest first (07 R200). -/
def brxEntries (join : DWord) (gs : List (DWord × Word)) : List DivEntry :=
  (List.range (gs.length - 1)).map (fun j =>
    { join := join, restore := groupUnion gs (j + 2), pendingPc := (gs.getD (j + 1) (0, 0)).1, pending := (gs.getD (j + 1) (0, 0)).2 })

/-- One turn of 02 R60 at a fetch: at the join of its newest entry, a warp starts the pending lanes, or pops. -/
inductive PopTurn : Warp → Warp → Prop where
  | pending (w : Warp) (e : DivEntry) (rest : List DivEntry) : w.stack = e :: rest → w.pc = e.join → e.pending ≠ 0 →
      PopTurn w { w with active := e.pending, pc := e.pendingPc, stack := { e with pending := 0 } :: rest }
  | pop (w : Warp) (e : DivEntry) (rest : List DivEntry) : w.stack = e :: rest → w.pc = e.join → e.pending = 0 →
      PopTurn w { w with active := e.restore, stack := rest }

/-- One turn of the unwinding of 07 R202: while no lane is active, the newest entry's pending lanes start, or it pops at its join. -/
inductive UnwindTurn : Warp → Warp → Prop where
  | pending (w : Warp) (e : DivEntry) (rest : List DivEntry) : w.active = 0 → w.stack = e :: rest → e.pending ≠ 0 →
      UnwindTurn w { w with active := e.pending, pc := e.pendingPc, stack := { e with pending := 0 } :: rest }
  | pop (w : Warp) (e : DivEntry) (rest : List DivEntry) : w.active = 0 → w.stack = e :: rest → e.pending = 0 →
      UnwindTurn w { w with active := e.restore, pc := e.join, stack := rest }

/-- A warp without the lanes of a mask (02 R59). -/
def withoutLanes (w : Warp) (m : Word) : Warp :=
  { w with
    launch := w.launch &&& ~~~m, active := w.active &&& ~~~m
    stack := w.stack.map (fun e => { e with restore := e.restore &&& ~~~m, pending := e.pending &&& ~~~m }) }

/-- The targets of the lanes on which an indirect branch acts are aligned and lie in the address space (18 R447). -/
def GoodTarget (c : Ctx) (target : Nat → DWord) : Prop :=
  ∀ l, l < 32 → inMask c.g l = true → (target l).toNat % 8 = 0 ∧ (target l).toNat < 2 ^ 56

/-- Where an indirect branch traps (18 R447): a target that is not a multiple of 8 comes before one beyond the address space. The fault names
the lanes that have such a target, and the target of the lowest of them. -/
def BadTarget (s : State) (i : Instr) (c : Ctx) (target : Nat → DWord) : Prop :=
  (∀ m : Word, m ≠ 0 → (∀ l, l < 32 → inMask m l = (inMask c.g l && decide ((target l).toNat % 8 ≠ 0))) →
    exec i s = .next (takeFault s c.k c.i { cause := cMisaligned, lanes := m, detail := 0x103, addr := target (lane0 m) })) ∧
  (∀ m : Word, m ≠ 0 → (∀ l, l < 32 → inMask c.g l = true → (target l).toNat % 8 = 0) →
    (∀ l, l < 32 → inMask m l = (inMask c.g l && decide (2 ^ 56 ≤ (target l).toNat))) →
    exec i s = .next (takeFault s c.k c.i { cause := cOutOfRange, lanes := m, detail := 0x102, addr := target (lane0 m) }))

/-- The fault of an instruction that needs a stack of `n` entries (18 R446). -/
def overflowOf (c : Ctx) (n : Nat) : FaultInfo := { cause := cDivOverflow, lanes := c.w.active, detail := n % 128 }

end Sys2Proof.Claims

/-- 07 R199, 02 R60: a `BRA` goes to its target, goes on, or diverges under one new entry; a 65th entry is DIVERGENCE_OVERFLOW. A branch
forward changes its warp alone; a taken back edge is counted in the core's loop monitor besides, and may enter the lattice. -/
def Sys2Proof.Claims.BranchOutcome : Prop :=
  ∀ (s : State) (c : Ctx) (f : BForm), Runs s (.bra f) c →
    let w := branched c.w c.g (byWords c.w.pc f.off) (byWords c.w.pc f.join)
    (c.g ≠ c.w.active → c.g ≠ 0 → 64 ≤ c.w.stack.length →
      exec (.bra f) s = .next (takeFault s c.k c.i (overflowOf c (c.w.stack.length + 1)))) ∧
    ((c.g = c.w.active ∨ c.g = 0 ∨ c.w.stack.length < 64) → (0 ≤ f.off.toInt ∨ c.g = 0) → Leaves s (.bra f) c w) ∧
    ((c.g = c.w.active ∨ c.g = 0 ∨ c.w.stack.length < 64) → f.off.toInt < 0 → c.g ≠ 0 →
      ∃ t w', exec (.bra f) s = .next t ∧ warpIn t c = some w' ∧
        w' = { w with lat := w'.lat, drained := w'.drained, reenter := w'.reenter, rebuilt := w'.rebuilt, blocked := w'.blocked } ∧
        t.mem = s.mem ∧
        (∀ k, k ≠ c.k → getTask t k = getTask s k) ∧
        ∃ e ∈ (getCore t c.core).monitor, e.task = c.k ∧ e.branch = c.w.pc ∧ 1 ≤ e.count)

/-- 07 R200: a `BRX` runs its groups in turn: the first at once, the others from the divergence stack. A target that is not aligned or
lies beyond the address space, and a stack that would not fit, are faults instead (18 R446, R447). -/
def Sys2Proof.Claims.IndirectBranchGroups : Prop :=
  ∀ (s : State) (c : Ctx) (f : RRaw), Runs s (.brx f) c →
    BadTarget s (.brx f) c (src64 c.w f.a) ∧
    (c.w.active = 0 → c.g = 0 → Leaves s (.brx f) c { c.w with pc := c.w.pc + 8, issued := c.w.issued + 1 }) ∧
    (c.w.active ≠ 0 → GoodTarget c (src64 c.w f.a) → ∃ gs, BrxGroups c.w c.g (src64 c.w f.a) gs ∧
      let first := gs.getD 0 (0, 0)
      let depth := c.w.stack.length + (gs.length - 1)
      ((c.g = 0 ∨ depth ≤ 64) → Leaves s (.brx f) c { c.w with
        pc := first.1, active := first.2, issued := c.w.issued + 1
        stack := brxEntries (src64 c.w f.b 0) gs ++ c.w.stack }) ∧
      (c.g ≠ 0 → 64 < depth → exec (.brx f) s = .next (takeFault s c.k c.i (overflowOf c depth))))

/-- 07 R201: `CALL` branches and writes the link `k62:k63` unless no lane takes it; `RET` goes to its operand in all active lanes or in
none, and traps where its target is bad (18 R447). A call backward counts as a back edge besides (12 R321, the model's reading). -/
def Sys2Proof.Claims.CallAndReturn : Prop :=
  ∀ (s : State) (c : Ctx),
    (∀ f, Runs s (.call f) c → (c.g = c.w.active ∨ c.g = 0 ∨ c.w.stack.length < 64) →
      ∃ t w, exec (.call f) s = .next t ∧ warpIn t c = some w ∧ t.mem = s.mem ∧ (∀ k, k ≠ c.k → getTask t k = getTask s k) ∧
        ((0 ≤ f.off.toInt ∨ c.g = 0) → t = setWarp s c.k c.i w) ∧
        ∃ w₀, w = { w₀ with kregs := w.kregs, lostRegs := w.lostRegs } ∧ w₀.kregs = c.w.kregs ∧ w₀.lostRegs = c.w.lostRegs ∧
          w₀ = (if c.g = 0 then { c.w with pc := c.w.pc + 8, issued := c.w.issued + 1 }
            else branched c.w c.g (byWords c.w.pc f.off) (c.w.pc + 8)) ∧
          (∀ m, getK w m =
            if c.g ≠ 0 ∧ m = 62 then lowWord (c.w.pc + 8) else if c.g ≠ 0 ∧ m = 63 then highWord (c.w.pc + 8) else getK c.w m) ∧
          ∀ m, Store.get false w.lostRegs m =
            if c.g ≠ 0 ∧ (m = lostK 62 ∨ m = lostK 63) then false else Store.get false c.w.lostRegs m) ∧
    (∀ f, Runs s (.call f) c → c.g ≠ c.w.active → c.g ≠ 0 → 64 ≤ c.w.stack.length →
      exec (.call f) s = .next (takeFault s c.k c.i (overflowOf c (c.w.stack.length + 1)))) ∧
    (∀ f, Runs s (.ret f) c → BadTarget s (.ret f) c (fun _ => src64 c.w f.a 0)) ∧
    (∀ f, Runs s (.ret f) c → GoodTarget c (fun _ => src64 c.w f.a 0) →
      Leaves s (.ret f) c { c.w with pc := if c.g = 0 then c.w.pc + 8 else src64 c.w f.a 0, issued := c.w.issued + 1 })

/-- 07 R202, R203: `EXIT` removes its lanes everywhere and unwinds the stack where no lane is left active; `NOP` does nothing; `YIELD`
gives way for the next 16 issue slots of its bench. -/
def Sys2Proof.Claims.ExitNopYield : Prop :=
  ∀ (s : State) (c : Ctx),
    (∀ f, Runs s (.exit f) c → c.w.launch &&& ~~~c.g ≠ 0 → ∃ w, Leaves s (.exit f) c { w with issued := c.w.issued + 1 } ∧
      w.issued = c.w.issued ∧
      (if c.w.active &&& ~~~c.g ≠ 0 ∨ c.g = 0 then w = { withoutLanes c.w c.g with pc := c.w.pc + 8 }
        else Relation.ReflTransGen UnwindTurn (withoutLanes c.w c.g) w ∧ (w.active ≠ 0 ∨ w.stack = []))) ∧
    (∀ f, Runs s (.nop f) c → Leaves s (.nop f) c { c.w with pc := c.w.pc + 8, issued := c.w.issued + 1 }) ∧
    (∀ f, Runs s (.yield f) c → Leaves s (.yield f) c
      { c.w with pc := c.w.pc + 8, issued := c.w.issued + 1, yieldLeft := if c.g = 0 then c.w.yieldLeft else 16 })

/-- 02 R60: a fetch stands after every pop that the divergence stack asks for: turn after turn, until the PC is not the newest join. -/
def Sys2Proof.Claims.FetchAfterReconvergence : Prop :=
  ∀ w : Warp, Relation.ReflTransGen PopTurn w (beforeFetch w) ∧ ¬ ∃ w', PopTurn (beforeFetch w) w'

/-! Warp operations (07 R204 to R207). Their checks make the guard, the active mask and the launch mask one mask. -/

namespace Sys2Proof.Claims

/-- The value of operand a of a lane, one register or a pair. -/
def valA (f : RArith) (w : Warp) (l : Nat) : DWord := if tyRegs f.ty = 2 then src64 w f.a l else one (src32 w f.a l)

/-- The lane that an `LXCH` reads, none where `.sft` leaves the segment (07 R206): `base` and `o` are the segment's first lane and the
lane's offset in it. -/
def exchangeLane (sub w l : Nat) (b : Word) : Option Nat :=
  let base := l - l % w
  let o := l % w
  if sub = 0 then some (base + b.toNat % w)
  else if sub = 1 then some (base + (o + b.toNat) % w)
  else if sub = 2 then (if 0 ≤ (o : Int) + b.toInt ∧ (o : Int) + b.toInt < w then some (base + ((o : Int) + b.toInt).toNat) else none)
  else some (base + (o ^^^ (b.toNat % w)))

/-- The identity and the step of an integer reduction (07 R207): 0 add, 1 min, 2 max, 3 and, 4 or, 5 xor. -/
def reduceUnit (ty : Ty) (op : Nat) : Word :=
  if op = 1 then (if ty = .z32 then 0xFFFFFFFF else 0x7FFFFFFF)
  else if op = 2 then (if ty = .z32 then 0 else 0x80000000)
  else if op = 3 then 0xFFFFFFFF else 0
def reduceWith (ty : Ty) (op : Nat) (x y : Word) : Word :=
  let less : Bool := if ty = .z32 then x.ule y else x.sle y
  match op with
  | 0 => x + y
  | 1 => if less then x else y
  | 2 => if less then y else x
  | 3 => x &&& y
  | 4 => x ||| y
  | _ => x ^^^ y

/-- The lanes of a mask, ascending. -/
def lanesOf (m : Word) : List Nat := (List.range 32).filter (fun l => m.getLsbD l)

/-- The start of a lane's segment in a `SCAN`: the highest lane up to it that is 0 or whose b is not zero (07 R207). -/
def IsSegmentStart (b : Nat → Word) (l s : Nat) : Prop :=
  s ≤ l ∧ (s = 0 ∨ b s ≠ 0) ∧ ∀ j, s < j → j ≤ l → b j = 0

end Sys2Proof.Claims

/-- 07 R204, R205: votes over the warp's lanes, the lanes that hold equal values, the active mask, and the lowest lane. -/
def Sys2Proof.Claims.VoteMatchElectResults : Prop :=
  ∀ (s : State) (c : Ctx) (f : RArith),
    (Runs s (.vote f) c → ComputesWhere s (.vote f) c f.d 1 (fun _ x =>
      let nonzero := fun j => src32 c.w f.a j ≠ 0
      let inWarp := fun j => j < 32 ∧ inMask c.w.launch j = true
      (f.sub = 0 → (x = 1 ↔ ∀ j, inWarp j → nonzero j) ∧ (x = 0 ∨ x = 1)) ∧
      (f.sub = 1 → (x = 1 ↔ ∃ j, inWarp j ∧ nonzero j) ∧ (x = 0 ∨ x = 1)) ∧
      (f.sub = 2 → (x = 1 ↔ ((∀ j, inWarp j → nonzero j) ∨ ∀ j, inWarp j → ¬ nonzero j)) ∧ (x = 0 ∨ x = 1)) ∧
      (f.sub = 3 → ∀ j, x.getLsbD j = true ↔ inWarp j ∧ nonzero j))) ∧
    (Runs s (.match f) c → ComputesWhere s (.match f) c f.d 1 (fun l x =>
      let same := fun j => j < 32 ∧ inMask c.w.launch j = true ∧ valA f c.w j = valA f c.w l
      (f.sub = 0 → ∀ j, x.getLsbD j = true ↔ same j) ∧
      (f.sub = 1 → (x = 1 ↔ ∀ j, same j → l ≤ j) ∧ (x = 0 ∨ x = 1)))) ∧
    (Runs s (.actm f) c → Computes s (.actm f) c f.d 1 (fun _ => one c.w.active)) ∧
    (Runs s (.elect f) c → ComputesWhere s (.elect f) c f.d 1 (fun l x =>
      (x = 1 ↔ ∀ j, j < l → inMask c.g j = false) ∧ (x = 0 ∨ x = 1)))

/-- 07 R206: the lane exchange, each lane in its own segment; an illegal segment width is OUT_OF_RANGE with reason 8 instead, in the lanes
that hold it (18 R450). -/
def Sys2Proof.Claims.LaneExchangeResults : Prop :=
  ∀ (s : State) (c : Ctx) (f : RArith), Runs s (.lxch f) c →
    let legal := fun l => (src32 c.w f.c l).toNat ∈ [0, 1, 2, 4, 8, 16, 32]
    let width := fun l => if src32 c.w f.c l = 0 then 32 else (src32 c.w f.c l).toNat
    ((∀ l, l < 32 → inMask c.g l = true → legal l) →
      Computes s (.lxch f) c f.d (tyRegs f.ty) (fun l =>
        match exchangeLane f.sub.toNat (width l) l (src32 c.w f.b l) with
        | some j => valA f c.w j
        | none => 0)) ∧
    (∀ l₀, l₀ < 32 → inMask c.g l₀ = true → ¬ legal l₀ →
      ∃ x : FaultInfo, x.cause = cOutOfRange ∧ x.detail = 8 ∧ (∀ l, l < 32 → (inMask x.lanes l = true ↔ inMask c.g l = true ∧ ¬ legal l)) ∧
        exec (.lxch f) s = .next (takeFault s c.k c.i x))

/-- 07 R207: reductions over the lanes of a mask and prefixes over segments, in lane order, at the integer types. -/
def Sys2Proof.Claims.IntegerReductionResults : Prop :=
  ∀ (s : State) (c : Ctx) (f : RArith), f.ty ≠ .f32 →
    let a := src32 c.w f.a
    (Runs s (.segred f) c → Computes s (.segred f) c f.d 1 (fun l =>
      one (((lanesOf (src32 c.w f.b l)).map a).foldl (reduceWith f.ty f.sub.toNat) (reduceUnit f.ty f.sub.toNat)))) ∧
    (Runs s (.scan f) c → ∀ start : Nat → Nat, (∀ l, l < 32 → IsSegmentStart (src32 c.w f.b) l (start l)) →
      Computes s (.scan f) c f.d 1 (fun l =>
        let last := if f.sub.toNat < 8 then l + 1 else l
        one (((List.range' (start l) (last - start l)).map a).foldl (reduceWith f.ty (f.sub.toNat % 8))
          (reduceUnit f.ty (f.sub.toNat % 8)))))

/-! Floating point and conversion (05 R125 to R136, 08 R210 to R231). -/

namespace Sys2Proof.Claims

/-- The exact value of a finite floating value. -/
def ratOf (neg : Bool) (m : Nat) (e : Int) : ℚ := (if neg then -1 else 1) * m * 2 ^ e

/-- The order of floating values that are no NaN, in which −0 equals +0. -/
def valLt : FVal → FVal → Prop
  | .inf true, .inf false => True
  | .inf a, .fin _ _ _ => a = true
  | .fin _ _ _, .inf b => b = false
  | .fin a m e, .fin b n k => ratOf a m e < ratOf b n k
  | _, _ => False
def valEq : FVal → FVal → Prop
  | .inf a, .inf b => a = b
  | .fin a m e, .fin b n k => ratOf a m e = ratOf b n k
  | _, _ => False

/-- The condition of 08 R215 on the operands of a comparison. -/
def fpCondition (code : Nat) (x y : FVal) : Prop :=
  (code = 0 ∧ valEq x y) ∨ (code = 1 ∧ ¬ valEq x y) ∨ (code = 2 ∧ valLt x y) ∨ (code = 3 ∧ (valLt x y ∨ valEq x y)) ∨
  (code = 4 ∧ valLt y x) ∨ (code = 5 ∧ (valLt y x ∨ valEq x y)) ∨ (code = 6 ∧ x ≠ .nan ∧ y ≠ .nan) ∨
  (code = 7 ∧ (x = .nan ∨ y = .nan))

/-- A subnormal or zero code of a format that `.ftz` flushes reads as the zero of its sign (05 R131). -/
def flushed (F : Fmt) (ftz : Bool) (x : Nat) : Nat :=
  if ftz = true ∧ F ≠ fp64 ∧ F.expOf x = 0 then F.code (F.signOf x) 0 0 else x

/-- An operand's bits in a format, after FTZ, and its value. -/
def bitsIn (F : Fmt) (ftz : Bool) (x : DWord) : Nat := flushed F ftz (x.toNat % 2 ^ F.width)
def valueIn (F : Fmt) (ftz : Bool) (x : DWord) : FVal := F.decode (bitsIn F ftz x)

/-- An operand of a format: one register, or a pair for FP64. -/
def fpSrc (F : Fmt) (w : Warp) (o : Opnd) (l : Nat) : DWord := if F = fp64 then src64 w o l else one (src32 w o l)

/-- Registers of a value of a format. -/
def regsOf (F : Fmt) : Nat := if F = fp64 then 2 else 1

/-- A value rounded once to a format, in the instruction's mode, and flushed under `.ftz`. -/
def rounded (F : Fmt) (f : RArith) (v : FVal) : DWord := BitVec.ofNat 64 (flushed F f.ftz (F.ofVal f.rm v))

/-- Whether an enabled check of the mode word selects one of the `k` elements of a result (08 R228, R230). -/
def selected (w : Warp) (F : Fmt) (k : Nat) (x : DWord) : Prop :=
  ∃ j, j < k ∧ (w.fpmode.getLsbD 0 = true ∧ F.decode (x.toNat / 2 ^ (F.width * j) % 2 ^ F.width) = .nan ∨
    w.fpmode.getLsbD 1 = true ∧ ∃ n, F.decode (x.toNat / 2 ^ (F.width * j) % 2 ^ F.width) = .inf n)

/-- FP_NONFINITE in the lanes of which `p` holds: the record names them, and nothing is written (08 R230). -/
def RaisesNonfinite (s : State) (i : Instr) (c : Ctx) (p : Nat → Prop) : Prop :=
  ∃ x : FaultInfo, x.cause = cNonfinite ∧ (∀ l, l < 32 → (inMask x.lanes l = true ↔ inMask c.g l = true ∧ p l)) ∧
    exec i s = .next (takeFault s c.k c.i x)

/-- A checked instruction (08 R230): it computes `v`, unless an enabled check selects a result. -/
def Checked (s : State) (i : Instr) (c : Ctx) (F : Fmt) (k : Nat) (d : Opnd) (v : Nat → DWord) : Prop :=
  ((∀ l, l < 32 → inMask c.g l = true → ¬ selected c.w F k (v l)) → Computes s i c d (regsOf F) v) ∧
  ((∃ l, l < 32 ∧ inMask c.g l = true ∧ selected c.w F k (v l)) → RaisesNonfinite s i c (fun l => selected c.w F k (v l)))

/-- Two halves of a packed value computed independently (08 R222). -/
def halves (h : Nat → DWord) : DWord := h 0 ||| (h 1 <<< 16)
def halfOf (x : Word) (j : Nat) : DWord := (x.extractLsb' (16 * j) 16).zeroExtend 64

/-- Rounding of 05 R133 to the integers, of a nonnegative rational that carries a sign. -/
def IsRounding (rm : RMode) (neg : Bool) (x : ℚ) (q : Nat) : Prop :=
  match rm with
  | .rn => |(q : ℚ) - x| ≤ 1 / 2 ∧ (|(q : ℚ) - x| = 1 / 2 → q % 2 = 0)
  | .rz => (q : ℚ) ≤ x ∧ x < q + 1
  | .ru => if neg then (q : ℚ) ≤ x ∧ x < q + 1 else x ≤ q ∧ (q : ℚ) < x + 1
  | .rd => if neg then x ≤ q ∧ (q : ℚ) < x + 1 else (q : ℚ) ≤ x ∧ x < q + 1

end Sys2Proof.Claims

/-- 05 R125, R126, R133, R134: rounding a positive magnitude to a floating format. There is one exponent of the last place, that of the
magnitude's binade and not below the format's least; the magnitude is rounded once to a multiple of it; the code holds that multiple
exactly, and a multiple beyond the largest finite value overflows as the mode says. -/
def Sys2Proof.Claims.RoundingIsCorrect : Prop :=
  ∀ (F : Fmt) (rm : RMode) (neg : Bool) (a b : Nat) (e : Int), F ∈ [fp64, fp32, fp16, bf16] → 0 < a → 0 < b →
    let x : ℚ := (a : ℚ) / b * 2 ^ e
    let r := F.ofRatio rm neg a b e
    ∃ (u : Int) (q : Nat), F.emin ≤ u ∧ x < 2 ^ (u + F.frac + 1) ∧ (u = F.emin ∨ 2 ^ (u + F.frac) ≤ x) ∧
      IsRounding rm neg (x / 2 ^ u) q ∧
      ((q : ℚ) * 2 ^ u < 2 ^ (2 ^ (F.ebits - 1) : Int) →
        F.signOf r = neg ∧ ∃ m k, F.decode r = .fin neg m k ∧ (m : ℚ) * 2 ^ k = q * 2 ^ u) ∧
      ((2 : ℚ) ^ (2 ^ (F.ebits - 1) : Int) ≤ q * 2 ^ u →
        r = if rm = .rn ∨ (rm = .ru ∧ neg = false) ∨ (rm = .rd ∧ neg = true) then F.inf neg else F.top neg)

/-- 05 R129, R132: the exact sum and product that the arithmetic instructions round, with the results of invalid operations, and the
signs of zero sums. -/
def Sys2Proof.Claims.ExactSumsAndProducts : Prop :=
  (∀ (rm : RMode) (a : Bool) (m : Nat) (e : Int) (b : Bool) (n : Nat) (k : Int),
    (∃ c p j, FVal.add rm (.fin a m e) (.fin b n k) = .fin c p j ∧ ratOf c p j = ratOf a m e + ratOf b n k ∧
      (ratOf a m e + ratOf b n k = 0 → (m ≠ 0 ∨ a ≠ b → c = decide (rm = .rd)) ∧ (m = 0 ∧ n = 0 ∧ a = b → c = a))) ∧
    (∃ c p j, FVal.mul (.fin a m e) (.fin b n k) = .fin c p j ∧ ratOf c p j = ratOf a m e * ratOf b n k ∧ c = xor a b)) ∧
  (∀ (rm : RMode) (x : FVal) (a : Bool), FVal.add rm .nan x = .nan ∧ FVal.add rm x .nan = .nan ∧ FVal.mul .nan x = .nan ∧
    FVal.mul x .nan = .nan ∧ FVal.add rm (.inf a) (.inf (!a)) = .nan ∧ FVal.add rm (.inf a) (.inf a) = .inf a) ∧
  (∀ (rm : RMode) (a b : Bool) (m : Nat) (e : Int), FVal.add rm (.inf a) (.fin b m e) = .inf a ∧ FVal.add rm (.fin b m e) (.inf a) = .inf a ∧
    FVal.mul (.inf a) (.inf b) = .inf (xor a b) ∧
    FVal.mul (.inf a) (.fin b m e) = (if m = 0 then .nan else .inf (xor a b)) ∧
    FVal.mul (.fin b m e) (.inf a) = (if m = 0 then .nan else .inf (xor b a)))

/-- 08 R211, R213, R222, R230: the arithmetic of FP32, FP16, BF16, FP64 and packed halves: the exact result of the operation is rounded
once and flushed under `.ftz`, unless the mode word's checks select it. -/
def Sys2Proof.Claims.FloatArithmeticResults : Prop :=
  ∀ (s : State) (c : Ctx) (f : RArith) (m : IForm),
    let F := fmtOf fp32 f.ty
    let a := fun l => valueIn F f.ftz (fpSrc F c.w f.a l)
    let b := fun l => valueIn F f.ftz (fpSrc F c.w f.b l)
    let e := fun l => valueIn F f.ftz (fpSrc F c.w f.c l)
    let a64 := fun l => valueIn fp64 false (src64 c.w f.a l)
    let b64 := fun l => valueIn fp64 false (src64 c.w f.b l)
    let e64 := fun l => valueIn fp64 false (src64 c.w f.c l)
    let P := fmtOf fp16 f.ty
    let ha := fun l j => valueIn P f.ftz (halfOf (src32 c.w f.a l) j)
    let hb := fun l j => valueIn P f.ftz (halfOf (src32 c.w f.b l) j)
    let he := fun l j => valueIn P f.ftz (halfOf (src32 c.w f.c l) j)
    let ai := fun l => valueIn fp32 false (one (src32 c.w (.v m.a) l))
    let bi := valueIn fp32 false (one m.imm)
    (Runs s (.fadd f) c → Checked s (.fadd f) c F 1 f.d (fun l => rounded F f ((a l).add f.rm (b l)))) ∧
    (Runs s (.fsub f) c → Checked s (.fsub f) c F 1 f.d (fun l => rounded F f ((a l).add f.rm (b l).negate))) ∧
    (Runs s (.fmul f) c → Checked s (.fmul f) c F 1 f.d (fun l => rounded F f ((a l).mul (b l)))) ∧
    (Runs s (.ffma f) c → Checked s (.ffma f) c F 1 f.d (fun l => rounded F f (((a l).mul (b l)).add f.rm (e l)))) ∧
    (Runs s (.dadd f) c → Checked s (.dadd f) c fp64 1 f.d (fun l => rounded fp64 f ((a64 l).add f.rm (b64 l)))) ∧
    (Runs s (.dmul f) c → Checked s (.dmul f) c fp64 1 f.d (fun l => rounded fp64 f ((a64 l).mul (b64 l)))) ∧
    (Runs s (.dfma f) c → Checked s (.dfma f) c fp64 1 f.d (fun l => rounded fp64 f (((a64 l).mul (b64 l)).add f.rm (e64 l)))) ∧
    (Runs s (.pkadd f) c → Checked s (.pkadd f) c P 2 f.d (fun l => halves (fun j => rounded P f ((ha l j).add f.rm (hb l j))))) ∧
    (Runs s (.pkmul f) c → Checked s (.pkmul f) c P 2 f.d (fun l => halves (fun j => rounded P f ((ha l j).mul (hb l j))))) ∧
    (Runs s (.pkfma f) c → Checked s (.pkfma f) c P 2 f.d (fun l => halves (fun j => rounded P f (((ha l j).mul (hb l j)).add f.rm (he l j))))) ∧
    (Runs s (.faddImm m) c → Checked s (.faddImm m) c fp32 1 (.v m.d) (fun l => rounded fp32 dfltMods ((ai l).add .rn bi))) ∧
    (Runs s (.fmulImm m) c → Checked s (.fmulImm m) c fp32 1 (.v m.d) (fun l => rounded fp32 dfltMods ((ai l).mul bi)))

/-- 08 R211, R217, R218, R220, R221, R223: division, roots, rounding to integral values, scaling and splitting, and the special functions:
each of these last is one fixed function of its input's bits, with the special results that the manual gives. -/
def Sys2Proof.Claims.FloatFunctionResults : Prop :=
  ∃ g : Config.SfuFn → Nat → Nat,
    (g .frsq 0x00000000 = 0x7F800000 ∧ g .frsq 0x80000000 = 0xFF800000 ∧ g .frsq 0x7F800000 = 0) ∧
    (g .fex2 0xFF800000 = 0 ∧ g .fex2 0x7F800000 = 0x7F800000 ∧ g .fex2 0x00000000 = 0x3F800000) ∧
    (g .flg2 0x00000000 = 0xFF800000 ∧ g .flg2 0x80000000 = 0xFF800000 ∧ g .flg2 0x7F800000 = 0x7F800000 ∧ g .flg2 0x3F800000 = 0) ∧
    (g .fsin 0x00000000 = 0x00000000 ∧ g .fsin 0x80000000 = 0x80000000 ∧ g .fsin 0x3F000000 = 0x3F800000 ∧ g .fsin 0x7F800000 = 0x7FFFFFFF) ∧
    (g .fcos 0x00000000 = 0x3F800000 ∧ g .fcos 0x3F800000 = 0xBF800000 ∧ g .fcos 0x3F000000 = 0 ∧ g .fcos 0x7F800000 = 0x7FFFFFFF) ∧
    ∀ (s : State) (c : Ctx) (f : RArith),
      let F := fmtOf fp32 f.ty
      let a := fun l => valueIn F f.ftz (fpSrc F c.w f.a l)
      let b := fun l => valueIn F f.ftz (fpSrc F c.w f.b l)
      let word := fun n => BitVec.ofNat 64 (flushed F f.ftz n)
      let special := fun fn l => BitVec.ofNat 64 (flushed fp32 f.ftz (g fn (bitsIn fp32 f.ftz (one (src32 c.w f.a l)))))
      (Runs s (.frcp f) c → Checked s (.frcp f) c F 1 f.d (fun l => word (F.div f.rm (.fin false 1 0) (a l)))) ∧
      (Runs s (.fdiv f) c → Checked s (.fdiv f) c F 1 f.d (fun l => word (F.div f.rm (a l) (b l)))) ∧
      (Runs s (.fsqrt f) c → Checked s (.fsqrt f) c F 1 f.d (fun l => word (F.sqrt f.rm (a l)))) ∧
      (Runs s (.frnd f) c → Checked s (.frnd f) c F 1 f.d (fun l => word (F.integral f.rm (a l)))) ∧
      (Runs s (.fscale f) c → Checked s (.fscale f) c F 1 f.d (fun l => word (F.scale f.rm (a l) (src32 c.w f.b l).toInt))) ∧
      (Runs s (.frexp f) c → (f.sub = 0 → Checked s (.frexp f) c F 1 f.d (fun l => word (F.frexpMan (a l)))) ∧
        (f.sub ≠ 0 → Computes s (.frexp f) c f.d 1 (fun l => one (BitVec.ofInt 32 (frexpExp (a l)))))) ∧
      (Runs s (.frsq f) c → Checked s (.frsq f) c fp32 1 f.d (special .frsq)) ∧
      (Runs s (.fex2 f) c → Checked s (.fex2 f) c fp32 1 f.d (special .fex2)) ∧
      (Runs s (.flg2 f) c → Checked s (.flg2 f) c fp32 1 f.d (special .flg2)) ∧
      (Runs s (.fsin f) c → Checked s (.fsin f) c fp32 1 f.d (special .fsin)) ∧
      (Runs s (.fcos f) c → Checked s (.fcos f) c fp32 1 f.d (special .fcos))

/-- 08 R214: the smaller and the larger of two floating values, the chosen operand's bits unchanged. -/
def Sys2Proof.Claims.FloatMinMaxResults : Prop :=
  ∀ (s : State) (c : Ctx) (f : RArith) (m : IForm) (i : Instr) (F : Fmt) (d : Opnd) (a b : Nat → Nat) (larger : Bool),
    ((i = .fmin f ∧ larger = false ∨ i = .fmax f ∧ larger = true) ∧ F = fmtOf fp32 f.ty ∧ d = f.d ∧
        (∀ l, a l = bitsIn F f.ftz (fpSrc F c.w f.a l)) ∧ (∀ l, b l = bitsIn F f.ftz (fpSrc F c.w f.b l)) ∨
      (i = .fminImm m ∧ larger = false ∨ i = .fmaxImm m ∧ larger = true) ∧ F = fp32 ∧ d = .v m.d ∧
        (∀ l, a l = (src32 c.w (.v m.a) l).toNat) ∧ (∀ l, b l = m.imm.toNat)) →
    Runs s i c → ComputesWhere s i c d (regsOf F) (fun l x =>
      let p := F.decode (a l)
      let q := F.decode (b l)
      (p = .nan → q = .nan → x.toNat = F.nan) ∧ (p = .nan → q ≠ .nan → x.toNat = b l) ∧ (p ≠ .nan → q = .nan → x.toNat = a l) ∧
      (p ≠ .nan → q ≠ .nan → (valLt p q ∨ (valEq p q ∧ F.signOf (a l) = true ∧ F.signOf (b l) = false)) →
        x.toNat = if larger then b l else a l) ∧
      (p ≠ .nan → q ≠ .nan → (valLt q p ∨ (valEq p q ∧ F.signOf (b l) = true ∧ F.signOf (a l) = false)) →
        x.toNat = if larger then a l else b l))

/-- 08 R215, R216, R219, R231: floating comparison combined with operand c, selection against zero, classification, and the test for
non-finite values; `FCHK.trap` raises FP_NONFINITE for them whatever the mode word. -/
def Sys2Proof.Claims.FloatCompareClassifyResults : Prop :=
  ∀ (s : State) (c : Ctx) (f : RArith),
    let F := fmtOf fp32 f.ty
    let compared := fun (G : Fmt) l x =>
      let t := fpCondition (f.sub.toNat % 8) (valueIn G f.ftz (fpSrc G c.w f.a l)) (valueIn G f.ftz (fpSrc G c.w f.b l))
      let p := src32 c.w f.c l ≠ 0
      ((if f.sub.toNat < 8 then t ∧ p else t ∨ p) ∧ x = (1 : DWord)) ∨ (¬ (if f.sub.toNat < 8 then t ∧ p else t ∨ p) ∧ x = 0)
    let elements := if f.ty = .f16x2 ∨ f.ty = .bf16x2 then 2 else 1
    let finite := fun l => ∀ j, j < elements →
      ∃ n m e, F.decode ((fpSrc F c.w f.a l).toNat / 2 ^ (F.width * j) % 2 ^ F.width) = .fin n m e
    (Runs s (.fsetp f) c → ComputesWhere s (.fsetp f) c f.d 1 (compared F)) ∧
    (Runs s (.dsetp f) c → ComputesWhere s (.dsetp f) c f.d 1 (compared fp64)) ∧
    (Runs s (.fsel f) c → ComputesWhere s (.fsel f) c f.d (regsOf F) (fun l x =>
      let t := fpCondition f.sub.toNat (valueIn F f.ftz (fpSrc F c.w f.c l)) (.fin false 0 0)
      (t → x = fpSrc F c.w f.a l) ∧ (¬ t → x = fpSrc F c.w f.b l))) ∧
    (Runs s (.fclass f) c → ComputesWhere s (.fclass f) c f.d 1 (fun l x =>
      let code := (fpSrc F c.w f.a l).toNat % 2 ^ F.width
      let neg := F.signOf code
      let frac := F.fracOf code
      (F.decode code = .inf true → x = 0x001) ∧ (F.decode code = .inf false → x = 0x080) ∧
      (F.decode code = .nan → x = if frac.testBit (F.frac - 1) then 0x200 else 0x100) ∧
      (F.expOf code = 0 → frac = 0 → x = if neg then 0x008 else 0x010) ∧
      (F.expOf code = 0 → frac ≠ 0 → x = if neg then 0x004 else 0x020) ∧
      (F.expOf code ≠ 0 → (∃ n m e, F.decode code = .fin n m e) → x = if neg then 0x002 else 0x040))) ∧
    (Runs s (.fchkTest f) c → ComputesWhere s (.fchkTest f) c f.d 1 (fun l x => (finite l → x = 1) ∧ (¬ finite l → x = 0))) ∧
    (Runs s (.fchkTrap f) c →
      ((∀ l, l < 32 → inMask c.g l = true → finite l) →
        Leaves s (.fchkTrap f) c { c.w with pc := c.w.pc + 8, issued := c.w.issued + 1 }) ∧
      ((∃ l, l < 32 ∧ inMask c.g l = true ∧ ¬ finite l) → RaisesNonfinite s (.fchkTrap f) c (fun l => ¬ finite l)))

/-- 08 R228, R229: the mode word is read to every lane on which the instruction acts, and set from the lowest of them; reserved bits in
the new word are OUT_OF_RANGE with reason 14 (18 R450). -/
def Sys2Proof.Claims.ModeWordReadAndWrite : Prop :=
  ∀ (s : State) (c : Ctx) (i : Instr) (d : Opnd) (new : Option Word),
    ((∃ f, i = .fpmode f ∧ d = f.d ∧ ∀ l, lowLane c.g = some l → new = some (src32 c.w f.a l)) ∨
      (∃ f, i = .fpmodeImm f ∧ d = .v f.d ∧ new = some f.imm) ∨ (∃ f, i = .fpmodeGet f ∧ d = f.d ∧ new = none)) →
    Runs s i c →
    ((c.g = 0 ∨ new = none ∨ ∃ x, new = some x ∧ x.toNat < 8) →
      ∃ w, exec i s = .next (setWarp s c.k c.i w) ∧ RegResult c.w w c.g d 1 (fun _ _ => c.w.fpmode) ∧
        PredResult c.w w c.g d (fun _ _ => c.w.fpmode) ∧
        w = { c.w with
          pc := c.w.pc + 8, issued := c.w.issued + 1, regs := w.regs, preds := w.preds, lostRegs := w.lostRegs
          fpmode := if c.g = 0 then c.w.fpmode else new.getD c.w.fpmode }) ∧
    (∀ x, c.g ≠ 0 → new = some x → 8 ≤ x.toNat →
      exec i s = .next (takeFault s c.k c.i { cause := cOutOfRange, lanes := laneMask (lane0 c.g), detail := 14 }))

/-- 08 R224, R227: conversion between formats, and the bit moves `PACK` and `UNPACK`. -/
def Sys2Proof.Claims.ConvertAndPackResults : Prop :=
  ∀ (s : State) (c : Ctx) (f : RArith),
    let F := fmtOf fp32 f.ty
    let D := fmtOf fp32 (subTy f.sub)
    let raw := fun l => if tyRegs f.ty = 2 then src64 c.w f.a l else one (src32 c.w f.a l)
    let x := fun l => if cvtFloat f.ty then valueIn F f.ftz (raw l) else FVal.ofInt (intOf f.ty (raw l))
    let least : Int := if tySigned (subTy f.sub) then -(2 ^ (tyBits (subTy f.sub) - 1)) else 0
    let greatest : Int := if tySigned (subTy f.sub) then 2 ^ (tyBits (subTy f.sub) - 1) - 1 else 2 ^ tyBits (subTy f.sub) - 1
    let a := src32 c.w f.a
    let b := src32 c.w f.b
    let e := src32 c.w f.c
    (Runs s (.cvt f) c →
      (cvtFloat (subTy f.sub) = true → Checked s (.cvt f) c D 1 f.d (fun l => rounded D f (x l))) ∧
      (cvtFloat (subTy f.sub) = false → ComputesWhere s (.cvt f) c f.d (tyRegs (subTy f.sub)) (fun l y =>
        (x l = .nan → y = 0) ∧ (∀ n, x l = .inf n → y = wrapTo (subTy f.sub) (if n then least else greatest)) ∧
        ∀ n m k, x l = .fin n m k → ∃ q : Nat, IsRounding f.rm n (m * 2 ^ k) q ∧
          y = wrapTo (subTy f.sub) (max least (min greatest (if n then -(q : Int) else q)))))) ∧
    (Runs s (.pack f) c → Computes s (.pack f) c f.d 1 (fun l =>
      match f.sub.toNat with
      | 0 => one ((b l).extractLsb' 0 16 ++ (a l).extractLsb' 0 16)
      | 1 => one ((b l).extractLsb' 16 16 ++ (a l).extractLsb' 16 16)
      | 2 => one ((b l &&& ~~~(0xFF#32 <<< (8 * ((e l).toNat % 4)))) ||| (((a l) &&& 0xFF#32) <<< (8 * ((e l).toNat % 4))))
      | _ => one ((b l &&& ~~~(0xF#32 <<< (4 * ((e l).toNat % 8)))) ||| (((a l) &&& 0xF#32) <<< (4 * ((e l).toNat % 8)))))) ∧
    (Runs s (.unpack f) c → Computes s (.unpack f) c f.d 1 (fun l =>
      match f.sub.toNat with
      | 0 => one (a l &&& 0xFFFF#32)
      | 1 => one (a l >>> 16)
      | 2 => one ((a l >>> (8 * ((b l).toNat % 4))) &&& 0xFF#32)
      | _ => one ((a l >>> (4 * ((b l).toNat % 8))) &&& 0xF#32)))

/-! Reductions at FP32, narrow formats and `TMV` (05 R135 to R138, R144, 07 R207, 08 R225, R226, R232 to R234). -/

namespace Sys2Proof.Claims

/-- A checked instruction of `n` result registers `x lane word`: it writes them unless an enabled check selects a lane (08 R230). -/
def CheckedWords (s : State) (i : Instr) (c : Ctx) (d : Opnd) (n : Nat) (sel : Nat → Prop) (x : Nat → Nat → Word) : Prop :=
  ((∀ l, l < 32 → inMask c.g l = true → ¬ sel l) →
    ∃ w, exec i s = .next (setWarp s c.k c.i w) ∧ RegResult c.w w c.g d n x ∧ PredResult c.w w c.g d x ∧ OnlyRegs c.w w) ∧
  ((∃ l, l < 32 ∧ inMask c.g l = true ∧ sel l) → RaisesNonfinite s i c sel)

/-- The step of an FP32 reduction (07 R207): the scalar instructions in their default mode. -/
def floatStep (op : Nat) (x y : Word) : Word :=
  if op = 0 then BitVec.ofNat 32 (fp32.ofVal .rn ((fp32.decode x.toNat).add .rn (fp32.decode y.toNat)))
  else BitVec.ofNat 32 (fp32.minMax (decide (op = 2)) x.toNat y.toNat)
def floatUnit (op : Nat) : Word := if op = 0 then 0 else if op = 1 then 0x7F800000 else 0xFF800000

/-- Elements of a register, their width, and the floating format of FMT, none for `.s8` and `.s4` (08 R225). -/
def elemCount (fmt : BitVec 3) : Nat := if fmt = 2 ∨ fmt = 4 then 8 else 4
def elemWidth (fmt : BitVec 3) : Nat := 32 / elemCount fmt
def elemFormat (fmt : BitVec 3) : Option Fmt := if fmt = 0 then some f8a else if fmt = 1 then some f8b else if fmt = 2 then some f4 else none
def elemAt (fmt : BitVec 3) (x i : Nat) : Nat := x / 2 ^ (elemWidth fmt * i) % 2 ^ elemWidth fmt

/-- The value of a KS word, none for a NaN scale (05 R137, R138). -/
def ksScale (x : Word) : Option ℚ :=
  if x.extractLsb' 8 8 = 0xFF then none
  else some (2 ^ (((x.extractLsb' 8 8).toNat : Int) - 127) * (if x.getLsbD 7 then 3 / 2 else 1))

/-- The narrow code of a finite magnitude (05 R133, R135). -/
def IsNarrowCode (F : Fmt) (rm : RMode) (nosat neg : Bool) (x : ℚ) (code : Nat) : Prop :=
  (x = 0 → code = 0) ∧
  (x ≠ 0 → ∃ (u : Int) (r : Nat), F.emin ≤ u ∧ x < 2 ^ (u + F.frac + 1) ∧ (u = F.emin ∨ 2 ^ (u + F.frac) ≤ x) ∧
    IsRounding rm neg (x / 2 ^ u) r ∧
    let y : ℚ := r * 2 ^ u
    let top : ℚ := (2 ^ (F.frac + 1) - 1) * 2 ^ (2 ^ F.ebits - 2 + F.emin)
    (r = 0 → code = 0) ∧ (r ≠ 0 → y ≤ top → ∃ m k, F.decode code = .fin neg m k ∧ (m : ℚ) * 2 ^ k = y) ∧
    (top < y → code = if nosat then 0x80 else F.top neg))

/-- One element of a `CVTN` (08 R225). -/
def IsNarrowElem (f : RNarrow) (v : FVal) (ks : Option ℚ) (code : Nat) : Prop :=
  let least : Int := -(2 ^ (elemWidth f.fmt - 1))
  let greatest : Int := 2 ^ (elemWidth f.fmt - 1) - 1
  match elemFormat f.fmt, ks, v with
  | some F, some s, .fin neg m e => IsNarrowCode F f.rm f.nosat neg (m * 2 ^ e / s) code
  | some F, some _, .inf neg => code = if f.nosat then 0x80 else F.top neg
  | some F, _, _ => code = F.nan
  | none, some s, .fin neg m e => ∃ q : Nat, IsRounding f.rm neg (m * 2 ^ e / s) q ∧
      (code : Int) = max least (min greatest (if neg then -(q : Int) else q)) % 2 ^ elemWidth f.fmt
  | none, some _, .inf neg => (code : Int) = (if neg then least else greatest) % 2 ^ elemWidth f.fmt
  | none, _, _ => code = 0

/-- The value of a narrow element (08 R226). -/
def elemValue (fmt : BitVec 3) (code : Nat) : FVal :=
  match elemFormat fmt with
  | some F => F.decode code
  | none => FVal.ofInt (Int.bmod code (2 ^ elemWidth fmt))

/-- One element of a `CVTW`: the exact product of the element and the scale, rounded once (08 R226). -/
def IsWideElem (f : RNarrow) (v : FVal) (ks : Option ℚ) (code : Nat) : Prop :=
  let D := fmtOf fp32 f.ty
  match ks, v with
  | some s, .fin neg m e => ∃ (p : Nat) (j : Int), (p : ℚ) * 2 ^ j = m * 2 ^ e * s ∧ code = D.ofVal f.rm (.fin neg p j)
  | _, _ => code = D.nan

/-- The chain of 05 R144 over the first `n` columns. -/
def MulAddChain (wt xs : Nat → FVal) (start : Nat) (n r : Nat) : Prop :=
  ∃ acc : Nat → Nat, acc 0 = start ∧ acc n = r ∧
    ∀ j, j < n → acc (j + 1) = fp32.ofVal .rn (((wt j).mul (xs j)).add .rn (fp32.decode (acc j)))

end Sys2Proof.Claims

/-- 07 R207, 08 R230: the FP32 reductions over the lanes of a mask and prefixes over segments, in lane order; they are checked. -/
def Sys2Proof.Claims.FloatReductionResults : Prop :=
  ∀ (s : State) (c : Ctx) (f : RArith), f.ty = .f32 →
    let a := src32 c.w f.a
    (Runs s (.segred f) c → Checked s (.segred f) c fp32 1 f.d (fun l =>
      one (((lanesOf (src32 c.w f.b l)).map a).foldl (floatStep f.sub.toNat) (floatUnit f.sub.toNat)))) ∧
    (Runs s (.scan f) c → ∀ start : Nat → Nat, (∀ l, l < 32 → IsSegmentStart (src32 c.w f.b) l (start l)) →
      Checked s (.scan f) c fp32 1 f.d (fun l =>
        let last := if f.sub.toNat < 8 then l + 1 else l
        one (((List.range' (start l) (last - start l)).map a).foldl (floatStep (f.sub.toNat % 8)) (floatUnit (f.sub.toNat % 8)))))

/-- 08 R225, R226, 05 R135 to R138: conversion of FP32 values to the elements of a register, each divided by the lane's scale, and of
elements to FP32 or BF16 values, each multiplied by it. -/
def Sys2Proof.Claims.NarrowConversionResults : Prop :=
  ∀ (s : State) (c : Ctx) (f : RNarrow),
    let k := elemCount f.fmt
    let ks := fun l => ksScale (src32 c.w f.b l)
    let D := fmtOf fp32 f.ty
    (Runs s (.cvtn f) c → ∃ x : Nat → Word,
      (∀ l i, l < 32 → i < k →
        IsNarrowElem f (fp32.decode (srcWord c.w f.a i l).toNat) (ks l) (elemAt f.fmt (x l).toNat i)) ∧
      CheckedWords s (.cvtn f) c f.d 1
        (fun l => c.w.fpmode.getLsbD 0 = true ∧ f.fmt.toNat < 2 ∧ ∃ i, i < k ∧ elemAt f.fmt (x l).toNat i = 0x80) (fun l _ => x l)) ∧
    (Runs s (.cvtw f) c → ∃ y : Nat → Nat → Nat,
      (∀ l i, l < 32 → i < k → IsWideElem f (elemValue f.fmt (elemAt f.fmt (src32 c.w f.a l).toNat i)) (ks l) (y l i)) ∧
      CheckedWords s (.cvtw f) c f.d (if f.ty = .bf16x2 then k / 2 else k)
        (fun l => ∃ i, i < k ∧ (c.w.fpmode.getLsbD 0 = true ∧ D.decode (y l i) = .nan ∨
          c.w.fpmode.getLsbD 1 = true ∧ ∃ n, D.decode (y l i) = .inf n))
        (fun l j => if f.ty = .bf16x2 then BitVec.ofNat 32 (y l (2 * j) + 2 ^ 16 * y l (2 * j + 1)) else BitVec.ofNat 32 (y l j)))

/-- 08 R232 to R234, 05 R144: `TMV` computes in each lane a matrix and vector product over weights of the constant store, row by row, each
row a chain of fused multiply-adds, where the lane's matrix is aligned, in range and readable. -/
def Obligations.MatrixVector : Prop :=
  ∀ (s : State) (c : Ctx) (f : RTmv) (img : ConstImg), Runs s (.tmv f) c → constImg s c = some img →
    let m := f.m.toNat + 1
    let n := f.n.toNat + 1
    let z := if f.wty = .bf16 then 2 else 4
    let stride := (n * z + 15) / 16 * 16
    let base := fun l => (src32 c.w f.b l).toNat
    let place := fun l i j => base l + i * stride + j * z
    let weight := fun l i j => (if f.wty = .bf16 then bf16 else fp32).decode (rdConst img.bytes (place l i j) z)
    (∀ l, l < 32 → inMask c.g l = true → base l % 16 = 0 ∧ base l + (m - 1) * stride + n * z ≤ c.kern.constLen ∧
      ∀ i j b, i < m → j < n → b < z → Store.get false img.lost ((place l i j + b) / 4) = false) →
    ∃ y : Nat → Nat → Nat,
      (∀ l i, l < 32 → i < m → MulAddChain (weight l i) (fun j => fp32.decode (srcWord c.w f.a j l).toNat)
        (if f.c = .vz then 0x80000000 else (srcWord c.w f.c i l).toNat) n (y l i)) ∧
      CheckedWords s (.tmv f) c f.d m
        (fun l => ∃ i, i < m ∧ (c.w.fpmode.getLsbD 0 = true ∧ fp32.decode (y l i) = .nan ∨
          c.w.fpmode.getLsbD 1 = true ∧ ∃ b, fp32.decode (y l i) = .inf b))
        (fun l i => BitVec.ofNat 32 (y l i))

/-! Memory accesses (00 R5, 03 R76 to R88, 09 R237 to R242, 18 R438). The places at which an instruction's lanes access memory are those
that stage 5 gives (`checkAccess`): in `.die` the places of its translations, else the offsets themselves. -/

namespace Sys2Proof.Claims

/-- Stage 5 of 18 R438 passes for an instruction's accesses: it gives `l`, each lane's access with its place, and leaves `s₁`. -/
def Accesses (s : State) (c : Ctx) (sp : Space) (align : Nat) (needs : Needs) (accs : List Acc) (l : List (Acc × Place)) (s₁ : State) :
    Prop := checkAccess s c sp align 0 needs accs = (.ok l, s₁)

/-- The core records of `t` are those of `s` but for the L1 and the spill cache of one core. -/
def OnlyL1 (s t : State) (core : Nat) : Prop :=
  ∀ n, getCore t n = if n = core then { getCore s n with l1 := (getCore t n).l1, spillc := (getCore t n).spillc } else getCore s n

/-- A byte of die memory to which a dirty line of the spill cache may be written back (03 R82): backing that a task of the same partition
and die holds, or a range that the restore after a W2 wake has still to bring back, which such a write may bring forward (14 R399). -/
def BackingByte (s : State) (c : Ctx) (a : Nat) : Prop :=
  ∃ p, getPart s (partOf c.t.vd) = some p ∧
    ((∃ o, (lineOwner s (partOf c.t.vd) c.t.die (o / 512)).isSome ∧ diePa p c.t.die o = some a) ∨
      ∃ o, (∃ e ∈ p.unrestored, e.1 ≤ o / 65536 ∧ o / 65536 < e.2) ∧ windowDie p (dieCount s) 0 o = some a)

/-- What an instruction that passed stage 5 may change: memory, the marks of poisoned sectors, the L1 of its core, the state of L2 lines,
the shared memory of its task `x`, and its warp `w`, which moves to the next instruction; an access to `.spill` the spill cache besides,
and what a line written back needs. Everything else of the package is as stage 5 left it. -/
structure MemStep (s₁ t : State) (c : Ctx) (sp : Space) (x : Task) (w : Warp) : Prop where
  rest : t = { s₁ with mem := t.mem, poison := t.poison, l2 := t.l2, parts := t.parts, cores := t.cores, tasks := t.tasks }
  parts : sp ≠ .spill → t.parts = s₁.parts
  restored : ∀ n p, getPart t n = some p → ∃ q, getPart s₁ n = some q ∧ p = { q with unrestored := p.unrestored, demand := p.demand }
  cores : OnlyL1 s₁ t c.core
  tasks : ∀ k, getTask t k = if k = c.k then some x else getTask s₁ k
  task : x = { c.t with warps := setNth c.t.warps c.i w, shared := x.shared, lostShared := x.lostShared }
  warp : w = { c.w with
    pc := c.w.pc + 8, issued := c.w.issued + 1, regs := w.regs, kregs := w.kregs, preds := w.preds, lostRegs := w.lostRegs
    spill := w.spill, lostSpill := w.lostSpill }
  poison : ∀ n, Store.get false t.poison n = true →
    Store.get false s₁.poison n = true ∨ sp = .spill ∧ ∃ a, BackingByte s₁ c a ∧ a / 16 = n

/-- No byte of memory, of the task's shared memory, or of the warp's spill space changes, but for backing to which an access to `.spill`
drives out a dirty line. -/
def StoresNothing (s₁ t : State) (c : Ctx) (sp : Space) (x : Task) (w : Warp) : Prop :=
  (∀ a, sp ≠ .spill ∨ ¬ BackingByte s₁ c a → rdByte t.mem a = rdByte s₁.mem a) ∧ (sp ≠ .spill → t.poison = s₁.poison) ∧ x.shared = c.t.shared ∧ x.lostShared = c.t.lostShared ∧
    w.spill = c.w.spill ∧ w.lostSpill = c.w.lostSpill

/-- The value of a number of bytes that a lane reads at a place, for an access of a scope. -/
def seen (s : State) (c : Ctx) (scope : BitVec 3) (n lane : Nat) (p : Place) : Nat := (readPlace s c scope.toNat n lane p).1

/-- Bytes of an access type, and its registers (09 R238). -/
def widthOf : Ty → Nat
  | .s8 | .z8 => 1
  | .s16 | .z16 => 2
  | .s64 | .z64 | .f64 => 8
  | .b128 => 16
  | _ => 4
def registersOf (ty : Ty) : Nat := (widthOf ty + 3) / 4

/-- The word that a load writes to its register `j` (09 R238). -/
def loadedWord (ty : Ty) (v j : Nat) : Word :=
  match ty with
  | .s16 => (BitVec.ofNat 16 v).signExtend 32
  | .s8 => (BitVec.ofNat 8 v).signExtend 32
  | _ => BitVec.ofNat 32 (v / 2 ^ (32 * j))

/-- The alignment of an access (09 R237), and the accesses of the lanes of a mask (09 R237, 03 R77). -/
def alignOf (sp : Space) (ty : Ty) : Nat := if sp = .spill then max 4 (widthOf ty) else widthOf ty
def addressOf (w : Warp) (sp : Space) (a : Opnd) (off : Int) (l : Nat) : Int :=
  if sp = .die then (BitVec.ofInt 64 ((src64 w a l).toNat + off)).toNat else (src32 w a l).toNat + off
def accessesOf (c : Ctx) (sp : Space) (a : Opnd) (off : Int) (ty : Ty) : List Acc :=
  (lanesOf c.g).map (fun l => { lane := l, addr := addressOf c.w sp a off l, n := widthOf ty })

/-- The data of a lane's operand as bytes, the first register least significant. -/
def operandByte (w : Warp) (d : Opnd) (l j : Nat) : Byte := (srcWord w d (j / 4) l).extractLsb' (8 * (j % 4)) 8

/-- Bytes of a space after a store by lanes in order: of the lanes that store to a byte the highest gives its value (03 R78), and every
byte that no lane stores to is as before, but those to which a cache line is driven out. `at?` gives the first byte that an access stores to
in this space. -/
def Stored (l : List (Acc × Place)) (n : Nat) (data : Nat → Nat → Byte) (at? : Place → Option Nat) (before after : Nat → Byte)
    (driven : Nat → Prop) : Prop :=
  (∀ a, ¬ driven a → (∀ e ∈ l, ∀ b, at? e.2 = some b → a < b ∨ b + n ≤ a) → after a = before a) ∧
  (∀ e ∈ l, ∀ b j, at? e.2 = some b → j < n →
    (∀ e' ∈ l, e.1.lane < e'.1.lane → ∀ b', at? e'.2 = some b' → b + j < b' ∨ b' + n ≤ b + j) → after (b + j) = data e.1.lane j)

def dieAt : Place → Option Nat
  | .die pa => some pa
  | _ => none
def sharedAt : Place → Option Nat
  | .shared o => some o
  | _ => none
def spillAt : Place → Option Nat
  | .spill a => some a
  | _ => none

/-- A number of bytes from `a`, the lowest address least significant (00 R5), and the bytes after it has been replaced. -/
def numberAt (m : Nat → Byte) (a : Nat) : Nat → Nat
  | 0 => 0
  | n + 1 => numberAt m a n + (m (a + n)).toNat * 256 ^ n
def replaced (m : Nat → Byte) (a n v : Nat) : Nat → Byte :=
  fun x => if a ≤ x ∧ x < a + n then BitVec.ofNat 8 (v / 256 ^ (x - a)) else m x

/-- The new value of an atomic operation (09 R241). -/
def newValue (op : AtomOp) (ty : Ty) (old b c : Nat) : Nat :=
  let read : Nat → Int := fun x => intOf ty (BitVec.ofNat 64 x)
  let F := fmtOf fp32 ty
  let sum : Nat → Nat → Nat := fun x y => F.ofVal .rn ((F.decode x).add .rn (F.decode y))
  match op with
  | .add => (old + b) % 2 ^ (8 * widthOf ty)
  | .min => if read b < read old then b else old
  | .max => if read old < read b then b else old
  | .and => old &&& b
  | .or => old ||| b
  | .xor => old ^^^ b
  | .exch => b
  | .cas => if old = c then b else old
  | .fadd =>
    if ty = .f16x2 ∨ ty = .bf16x2 then sum (old % 2 ^ 16) (b % 2 ^ 16) + 2 ^ 16 * sum (old / 2 ^ 16) (b / 2 ^ 16) else sum old b
  | .fmin => F.minMax false old b
  | .fmax => F.minMax true old b

/-- The value of an operand of several registers. -/
def operandNumber (w : Warp) (o : Opnd) (l n : Nat) : Nat := numberAt (fun j => operandByte w o l j) 0 n

/-- The instructions of group 0x9: which operation each performs, and whether it returns the old value. -/
def atomics (f : RAtom) : List (Instr × AtomOp × Bool) :=
  [(.atomAdd f, .add, true), (.atomMin f, .min, true), (.atomMax f, .max, true), (.atomAnd f, .and, true), (.atomOr f, .or, true),
   (.atomXor f, .xor, true), (.atomExch f, .exch, true), (.atomCas f, .cas, true), (.atomFadd f, .fadd, true),
   (.atomFmin f, .fmin, true), (.atomFmax f, .fmax, true), (.redAdd f, .add, false), (.redMin f, .min, false), (.redMax f, .max, false),
   (.redAnd f, .and, false), (.redOr f, .or, false), (.redXor f, .xor, false), (.redFadd f, .fadd, false),
   (.redFmin f, .fmin, false), (.redFmax f, .fmax, false)]

/-- What lane after lane finds and leaves at its place (09 R242): `μ j` are the bytes before the action of the j-th access of `l`. -/
def ActsInOrder (c : Ctx) (f : RAtom) (op : AtomOp) (l : List (Acc × Place)) (at? : Place → Option Nat) (μ : Nat → Nat → Byte)
    (old : Nat → Nat) : Prop :=
  let n := widthOf f.ty
  ∀ j e b, l[j]? = some e → at? e.2 = some b →
    old e.1.lane = numberAt (μ j) b n ∧
    μ (j + 1) = replaced (μ j) b n
      (newValue op f.ty (numberAt (μ j) b n) (operandNumber c.w f.b e.1.lane (4 * registersOf f.ty))
        (operandNumber c.w f.c e.1.lane (4 * registersOf f.ty)))

end Sys2Proof.Claims

/-- 09 R237 to R239: `LD` reads each lane's bytes at its place, extends them as the type says, and writes them to the lane's registers;
no byte of memory changes. -/
def Sys2Proof.Claims.LoadResults : Prop :=
  ∀ (s : State) (c : Ctx) (f : RMem) (l : List (Acc × Place)) (s₁ : State), Runs s (.ld f) c →
    Accesses s c f.space (alignOf f.space f.ty) needR (accessesOf c f.space f.a f.off.toInt f.ty) l s₁ →
    lostAccs s₁ c f.scope.toNat l = [] →
    AccessFrame s s₁ ∧ ∃ (t : State) (x : Task) (w : Warp) (v : Nat → Nat),
      exec (.ld f) s = .next t ∧ MemStep s₁ t c f.space x w ∧ StoresNothing s₁ t c f.space x w ∧ w.kregs = c.w.kregs ∧
      (∀ e ∈ l, v e.1.lane = seen s₁ c f.scope (widthOf f.ty) e.1.lane e.2) ∧
      RegResult c.w w c.g f.d (registersOf f.ty) (fun lane j => loadedWord f.ty (v lane) j) ∧
      PredResult c.w w c.g f.d (fun lane j => loadedWord f.ty (v lane) j)

/-- 00 R5, 03 R87, 09 R238: what a lane reads at a place. Bytes of die memory come from the core's L1 for a scope below `.die` where
it holds their sector, else from memory; `.shared` and `.const` give bytes, `.spill` the words of the lane. -/
def Sys2Proof.Claims.BytesThatAreRead : Prop :=
  ∀ (s : State) (c : Ctx) (scope : BitVec 3) (n lane : Nat),
    (∀ pa, seen s c scope n lane (.die pa) = numberAt (fun a =>
      if scope.toNat < 2 then
        match Store.find (getCore s c.core).l1 (a / 16) with
        | some x => x.extractLsb' (8 * (a % 16)) 8
        | none => rdByte s.mem a
      else rdByte s.mem a) pa n) ∧
    (∀ x o, getTask s c.k = some x → seen s c scope n lane (.shared o) = numberAt (fun a => Store.get 0 x.shared a) o n) ∧
    (∀ img o, constImg s c = some img → seen s c scope n lane (.const o) = numberAt (fun a => Store.get 0 img.bytes a) o n) ∧
    (∀ w a, warpIn s c = some w → seen s c scope (4 * n) lane (.spill a) =
      ((List.range n).map (fun j => (getSpill w (a + 4 * j) lane).toNat * 2 ^ (32 * j))).sum)

/-- 09 R238, R239, 03 R78: `ST` stores each lane's bytes at its place; where lanes store to one byte, the highest lane's value stays, and
every byte outside the stored ones is unchanged. -/
def Sys2Proof.Claims.StoreResults : Prop :=
  ∀ (s : State) (c : Ctx) (f : RMem) (l : List (Acc × Place)) (s₁ : State), Runs s (.st f) c →
    Accesses s c f.space (alignOf f.space f.ty) needW (accessesOf c f.space f.a f.off.toInt f.ty) l s₁ →
    AccessFrame s s₁ ∧ ∃ (t : State) (x : Task) (w : Warp),
      exec (.st f) s = .next t ∧ MemStep s₁ t c f.space x w ∧
      w.regs = c.w.regs ∧ w.kregs = c.w.kregs ∧ w.preds = c.w.preds ∧ w.lostRegs = c.w.lostRegs ∧
      Stored l (widthOf f.ty) (operandByte c.w f.d) dieAt (rdByte s₁.mem) (rdByte t.mem)
        (fun a => f.space = .spill ∧ BackingByte s₁ c a) ∧
      Stored l (widthOf f.ty) (operandByte c.w f.d) sharedAt (fun a => Store.get 0 c.t.shared a) (fun a => Store.get 0 x.shared a)
        (fun _ => False) ∧
      (∀ e ∈ l, ∀ b j, spillAt e.2 = some b → j < registersOf f.ty →
        getSpill w (b + 4 * j) e.1.lane = srcWord c.w f.d j e.1.lane) ∧
      (∀ a lane, a % 4 = 0 → lane < 32 →
        (∀ e ∈ l, ∀ b j, e.1.lane = lane → spillAt e.2 = some b → j < registersOf f.ty → a ≠ b + 4 * j) →
        getSpill w a lane = getSpill c.w a lane)

/-- 09 R240: `LDK` reads once, as its lowest active lane, and writes its uniform registers; with no lane it reads nothing. -/
def Sys2Proof.Claims.UniformLoadResults : Prop :=
  ∀ (s : State) (c : Ctx) (f : RMem), Runs s (.ldk f) c →
    (c.g = 0 → Leaves s (.ldk f) c { c.w with pc := c.w.pc + 8, issued := c.w.issued + 1 }) ∧
    (c.g ≠ 0 → ∀ l s₁,
      Accesses s c f.space (widthOf f.ty) needR ((accessesOf c f.space f.a f.off.toInt f.ty).take 1) l s₁ →
      lostAccs s₁ c f.scope.toNat l = [] →
      AccessFrame s s₁ ∧ ∃ (t : State) (x : Task) (w : Warp) (v : Nat) (q : BitVec 6),
        exec (.ldk f) s = .next t ∧ MemStep s₁ t c f.space x w ∧ StoresNothing s₁ t c f.space x w ∧ f.d = .k q ∧
        w.regs = c.w.regs ∧ w.preds = c.w.preds ∧
        (∀ e ∈ l, lowLane c.g = some e.1.lane ∧ v = seen s₁ c f.scope (widthOf f.ty) e.1.lane e.2) ∧
        (∀ m, getK w m = if q.toNat ≤ m ∧ m < q.toNat + registersOf f.ty then loadedWord f.ty v (m - q.toNat) else getK c.w m) ∧
        ∀ m, Store.get false w.lostRegs m =
          if lostK q.toNat ≤ m ∧ m < lostK q.toNat + registersOf f.ty then false else Store.get false c.w.lostRegs m)

/-- 09 R241, R242: atomics and reductions act lane after lane in ascending order, each on what the one before left, and an atomic
returns to its lane the value that it found. Every byte that no lane acts on is unchanged. -/
def Obligations.Atomics : Prop :=
  ∀ (s : State) (c : Ctx) (f : RAtom) (i : Instr) (op : AtomOp) (ret : Bool) (l : List (Acc × Place)) (s₁ : State),
    (i, op, ret) ∈ atomics f → Runs s i c →
    Accesses s c f.space (widthOf f.ty) (if ret then needRW else needW) (accessesOf c f.space f.a 0 f.ty) l s₁ →
    lostAccs s₁ c 2 l = [] →
    AccessFrame s s₁ ∧ ∃ (t : State) (x : Task) (w : Warp) (μ σ : Nat → Nat → Byte) (old : Nat → Nat),
      exec i s = .next t ∧ MemStep s₁ t c f.space x w ∧ w.kregs = c.w.kregs ∧ w.spill = c.w.spill ∧ w.lostSpill = c.w.lostSpill ∧
      (f.space = .die → μ 0 = rdByte s₁.mem ∧ μ l.length = rdByte t.mem ∧ ActsInOrder c f op l dieAt μ old ∧ x.shared = c.t.shared) ∧
      (f.space = .shared → σ 0 = (fun a => Store.get 0 c.t.shared a) ∧ σ l.length = (fun a => Store.get 0 x.shared a) ∧
        ActsInOrder c f op l sharedAt σ old ∧ t.mem = s₁.mem) ∧
      RegResult c.w w (if ret then c.g else 0) f.d (registersOf f.ty) (fun lane j => BitVec.ofNat 32 (old lane / 2 ^ (32 * j))) ∧
      PredResult c.w w (if ret then c.g else 0) f.d (fun lane j => BitVec.ofNat 32 (old lane / 2 ^ (32 * j)))

/-- 01 R26, 03 R87, R88, 04 R116: the L1 of the core after a load, a store or an acquiring load of die memory. A load of a scope below
`.die` fills the sectors that it touches, all of which stay where the L1 has room for them, and drives out at most others; a wider one and a
store refresh the touched sectors that are present and allocate none. An acquire of scope `.die` or wider leaves the L1 empty, and in
`.shared` one of scope `.task`. -/
def Sys2Proof.Claims.L1AfterAccesses : Prop :=
  ∀ (s : State) (c : Ctx) (f : RMem) (l : List (Acc × Place)) (s₁ t : State),
    let touched := fun n => ∃ e ∈ l, ∃ pa j, e.2 = .die pa ∧ j < widthOf f.ty ∧ n = (pa + j) / 16
    let before := fun n => Store.find (getCore s₁ c.core).l1 n
    let after := fun n => Store.find (getCore t c.core).l1 n
    let refreshed := fun n => (before n = none → after n = none) ∧ (before n ≠ none → after n = some (rdSector t n))
    (Runs s (.ld f) c → lostAccs s₁ c f.scope.toNat l = [] → exec (.ld f) s = .next t →
      Accesses s c f.space (alignOf f.space f.ty) needR (accessesOf c f.space f.a f.off.toInt f.ty) l s₁ →
      (f.ann = .acq → c.g ≠ 0 → (2 ≤ f.scope.toNat ∨ f.space = .shared ∧ f.scope.toNat = 1) → ∀ n, after n = none) ∧
      (f.space = .die → 2 ≤ f.scope.toNat → f.ann = .relaxed → ∀ n, (touched n → refreshed n) ∧ (¬ touched n → after n = before n)) ∧
      (f.space = .die → f.scope.toNat < 2 →
        (∀ n x, after n = some x → before n = some x ∨ (touched n ∧ x = rdSector t n)) ∧
        ((getCore s₁ c.core).l1.length + l.length ≤ (getCore s₁ c.core).l1Cap →
          ∀ n, (touched n → after n = some ((before n).getD (rdSector t n))) ∧ (¬ touched n → after n = before n)))) ∧
    (Runs s (.st f) c → f.space = .die → exec (.st f) s = .next t →
      Accesses s c f.space (alignOf f.space f.ty) needW (accessesOf c f.space f.a f.off.toInt f.ty) l s₁ →
      ∀ n, (touched n → refreshed n) ∧ (¬ touched n → after n = before n))

/-- 18 R438, R448: an access that is not aligned comes before one that is out of range, and the record names exactly the lanes that meet
the cause it gives, with the address of the lowest. -/
def Sys2Proof.Claims.AlignmentAndExtentFaults : Prop :=
  ∀ (s : State) (c : Ctx) (sp : Space) (align kind : Nat) (needs : Needs) (accs : List Acc),
    let size := match sp with
      | .shared => c.kern.shmem
      | .const => c.kern.constLen
      | _ => 0
    let misaligned := fun a : Acc => a.addr % align ≠ 0
    let outside := fun a : Acc => a.addr < 0 ∨ 2 ^ 32 ≤ a.addr ∨ (size : Int) < a.addr + a.n
    let names := fun (p : Acc → Prop) (f : FaultInfo) =>
      (∀ k, k < 32 → (inMask f.lanes k = true ↔ ∃ a ∈ accs, a.lane = k ∧ p a)) ∧
      ∃ a ∈ accs, p a ∧ f.addr = BitVec.ofInt 64 a.addr ∧ ∀ b ∈ accs, p b → a.lane ≤ b.lane
    (∀ a ∈ accs, a.lane < 32) →
    ((∃ a ∈ accs, misaligned a) → ∃ f : FaultInfo, checkAccess s c sp align kind needs accs = (.fault f, s) ∧
      f.cause = 0x05 ∧ f.detail = kind * 2 ^ 8 + align.log2 ∧ names misaligned f) ∧
    ((∀ a ∈ accs, ¬ misaligned a) → sp ∈ [.shared, .const] → (∃ a ∈ accs, outside a) →
      ∃ f : FaultInfo, checkAccess s c sp align kind needs accs = (.fault f, s) ∧ f.cause = 0x06 ∧ f.detail = 3 ∧ names outside f) ∧
    ((∀ a ∈ accs, ¬ misaligned a) → sp ∈ [.shared, .const] → (∀ a ∈ accs, ¬ outside a) →
      ∃ l, checkAccess s c sp align kind needs accs = (.ok l, s) ∧ l.map Prod.fst = accs)

/-- 18 R438, 17 R426: a load, store, atomic or reduction whose accesses meet a fault takes it at its instruction, and one that waits for
a page stays at its instruction. -/
def Sys2Proof.Claims.AccessFaultsAreTaken : Prop :=
  ∀ (s : State) (c : Ctx) (i : Instr) (sp : Space) (align : Nat) (needs : Needs) (accs : List Acc) (s₁ : State), Runs s i c →
    ((∃ f : RMem, sp = f.space ∧ accs = accessesOf c f.space f.a f.off.toInt f.ty ∧ align = alignOf f.space f.ty ∧
        (i = .ld f ∧ needs = needR ∨ i = .st f ∧ needs = needW)) ∨
      (∃ f op ret, (i, op, ret) ∈ atomics f ∧ sp = f.space ∧ accs = accessesOf c f.space f.a 0 f.ty ∧ align = widthOf f.ty ∧
        needs = if ret then needRW else needW)) →
    (∀ f, checkAccess s c sp align 0 needs accs = (.fault f, s₁) → exec i s = .next (takeFault s₁ c.k c.i f)) ∧
    (∀ b, checkAccess s c sp align 0 needs accs = (.held b, s₁) →
      ∃ t w, exec i s = .next t ∧ warpIn t c = some w ∧ w = { c.w with blocked := b, blockedAt := s₁.seq } ∧ t.mem = s₁.mem)

/-! Fences, futures, lock words, barriers, and the creation and end of tasks (02 R49 to R58, 09 R243 to R256). -/

namespace Sys2Proof.Claims

/-- Stage 5 passes for the 16-byte records that the lanes of a future or lock instruction name: `l` gives each lane's record. -/
def Records (s : State) (c : Ctx) (f : RSync) (l : List (Acc × Place)) (s₁ : State) : Prop :=
  checkAccess s c f.space 16 3 needRW
    ((lanesOf c.g).map (fun k => { lane := k, addr := addressOf c.w f.space f.a 0 k, n := 16 })) = (.ok l, s₁)

/-- The record at a place of the current task, and its fields (02 R49). -/
def recordOf (c : Ctx) (e : Acc × Place) : Loc :=
  match e.2 with
  | .die pa => .phys pa
  | .shared o | .const o | .spill o => .shared c.k o
def word0 (s : State) (r : Loc) : DWord := rdLoc s r 0
def word1 (s : State) (r : Loc) : DWord := rdLoc s r 1
def stateOf (s : State) (r : Loc) : Nat := ((word0 s r).extractLsb' 0 2).toNat
def ownerField (s : State) (r : Loc) : BitVec 46 := (word0 s r).extractLsb' 2 46
def statusOf (s : State) (r : Loc) : BitVec 16 := (word0 s r).extractLsb' 48 16

/-- Two records have no byte in common. -/
def Apart : Loc → Loc → Prop
  | .phys a, .phys b => a + 16 ≤ b ∨ b + 16 ≤ a
  | .shared k a, .shared j b => k ≠ j ∨ a + 16 ≤ b ∨ b + 16 ≤ a
  | _, _ => True

/-- The data of every record can be read. -/
def Readable (s : State) (c : Ctx) (l : List (Acc × Place)) : Prop :=
  ∀ e ∈ l, lostPlace s c 2 16 0 (match recordOf c e with
    | .phys pa => .die pa
    | .shared _ o => .shared o) = false

/-- An action on one record: every byte outside it, and every warp but those that it wakes, is as before. -/
structure RecordStep (σ τ : State) (r : Loc) (woken : Nat → Nat → Prop) : Prop where
  rest : τ = { σ with mem := τ.mem, tasks := τ.tasks, cores := τ.cores, parks := τ.parks, futs := τ.futs, seq := τ.seq }
  cores : ∀ n, getCore τ n = { getCore σ n with l1 := (getCore τ n).l1 }
  memory : ∀ a, (∀ pa, r = .phys pa → a < pa ∨ pa + 16 ≤ a) → rdByte τ.mem a = rdByte σ.mem a
  tasks : ∀ k x, getTask σ k = some x → ∃ y, getTask τ k = some y ∧
    (∀ i, ¬ woken k i → getWarp y i = getWarp x i) ∧
    ∀ a, (∀ o, r = .shared k o → a < o ∨ o + 16 ≤ a) → Store.get 0 y.shared a = Store.get 0 x.shared a

/-- The park records of a list are freed, and the warps that they name run again (02 R52). -/
def Woken (σ τ : State) (die part : Nat) (list : List Nat) : Prop :=
  ∀ n ∈ list, ∀ p, Store.find σ.parks (parkKey die part n) = some p →
    Store.find τ.parks (parkKey die part n) = none ∧
    ∀ x w, getTask σ p.task = some x → getWarp x p.warp = some w →
      ∃ y v, getTask τ p.task = some y ∧ getWarp y p.warp = some v ∧ v.blocked = .ready

/-- Whether a list of park records names a warp. -/
def namesWarp (σ : State) (die part : Nat) (list : List Nat) (k i : Nat) : Prop :=
  ∃ n ∈ list, ∃ p, Store.find σ.parks (parkKey die part n) = some p ∧ p.task = k ∧ p.warp = i

/-- The lanes act in order, each on what the one before left; the instruction then completes and writes no register. -/
def InLaneOrder (i : Instr) (s s₁ : State) (c : Ctx) (l : List (Acc × Place)) (act : Acc × Place → State → State → Prop) : Prop :=
  ∃ (σ : Nat → State) (w : Warp), σ 0 = s₁ ∧ (∀ j e, l[j]? = some e → act e (σ j) (σ (j + 1))) ∧
    warpIn (σ l.length) c = some w ∧
    exec i s = .next (setWarp (σ l.length) c.k c.i { w with pc := w.pc + 8, issued := w.issued + 1 })

/-- The first register of a destination. -/
def firstReg : Opnd → Nat
  | .v q => q.toNat
  | _ => 0

/-- No warp is woken. -/
def noWarp : Nat → Nat → Prop := fun _ _ => False

/-- The distinct records of an instruction. -/
def distinctOf (c : Ctx) (l : List (Acc × Place)) : List Loc := (l.map (recordOf c)).eraseDups

/-- Only the current warp of the package changes, and it moves to the next instruction; `x` is its task after. -/
def TaskStep (s t : State) (c : Ctx) (x : Task) : Prop :=
  t = { s with tasks := t.tasks, seq := t.seq } ∧ (∀ k, getTask t k = if k = c.k then some x else getTask s k)

/-- The number of a barrier instruction's operand a, and its operand b, of the lowest lane (09 R255). -/
def barrierNumber (c : Ctx) (f : RRaw) : Nat := (src32 c.w f.a (lane0 c.g)).toNat
def barrierArgument (c : Ctx) (f : RRaw) : Word := src32 c.w f.b (lane0 c.g)

/-- The task after a warp has arrived at a barrier (09 R256): its bit is set, and where that fills the phase, the phase completes and the
waiting warps run. -/
def Arrived (c : Ctx) (n : Nat) (b : Barrier) (x : Task) : Prop :=
  let full := popCount (b.mask ||| laneMask c.i) = b.expect
  (∀ m, Store.find x.barriers m = if m = n then some (if full then { b with mask := 0, phase := b.phase + 1 }
    else { b with mask := b.mask ||| laneMask c.i }) else Store.find c.t.barriers m) ∧
  ∀ i, i ≠ c.i → getWarp x i = (getWarp c.t i).map (fun w =>
    match w.blocked with
    | .barrier m _ => if full ∧ m = n then { w with blocked := .ready } else w
    | _ => w)

/-- A barrier fault of the lowest lane (18 R450, R452). -/
def barrierFault (c : Ctx) (cause detail : Nat) (addr : DWord) : FaultInfo :=
  { cause := cause, lanes := laneMask (lane0 c.g), detail := detail, addr := addr }

end Sys2Proof.Claims

/-- 09 R243, 03 R88, 04 R117: a fence with no lane does nothing; else it empties the core's L1 where it acquires at scope `.die` or wider,
and at `.dev` and `.sys` with any annotation, where it first waits while a copy or a GAE run of its warp is in progress. -/
def Obligations.Fences : Prop :=
  ∀ (s : State) (c : Ctx) (f : RAtom), Runs s (.fence f) c →
    let busy := 3 ≤ f.scope.toNat ∧ ∃ n k, (∃ o, (k, o) ∈ (getCore s n).copies ∧ o.task = c.k ∧ o.warp = c.i) ∨
      (∃ o act cb d ncol, (k, o) ∈ (getCore s n).gaeq ∧ o.task = c.k ∧ o.warp = c.i ∧ o.kind = .run act cb d ncol)
    let next := { c.w with pc := c.w.pc + 8, issued := c.w.issued + 1 }
    (c.g = 0 → Leaves s (.fence f) c next) ∧
    (c.g ≠ 0 → ¬ (3 ≤ f.scope.toNat ∧ opsOut s c.k c.i = true) →
      ∃ t, exec (.fence f) s = .next t ∧ t = setWarp { s with cores := t.cores } c.k c.i next ∧ OnlyL1 s t c.core ∧
        (getCore t c.core).l1 = if 2 ≤ f.scope.toNat ∧ (f.ann ≠ .rel ∨ 3 ≤ f.scope.toNat) then [] else (getCore s c.core).l1) ∧
    (c.g ≠ 0 → busy → ∃ t, exec (.fence f) s = .next t ∧ t.mem = s.mem ∧
      warpIn t c = some { c.w with blocked := .copies, blockedAt := s.seq })

/-- 09 R245, R246: `FNEW` makes each named record EMPTY with its owner, and gives one with parked readers the owner alone. -/
def Sys2Proof.Claims.NewFutureResults : Prop :=
  ∀ (s : State) (c : Ctx) (f : RSync) (l : List (Acc × Place)) (s₁ : State), Runs s (.fnew f) c → Records s c f l s₁ →
    let owner := fun k => if f.var = 1 then c.t.handle else (src64 c.w f.b k) &&& 0xFFFFFFFFFFFF
    (∀ e ∈ l, (owner e.1.lane).toNat < 2 ^ 46) → Readable s₁ c l →
    AccessFrame s s₁ ∧ InLaneOrder (.fnew f) s s₁ c l (fun e σ τ =>
      let r := recordOf c e
      RecordStep σ τ r noWarp ∧ ownerField τ r = (owner e.1.lane).extractLsb' 0 46 ∧
      (stateOf σ r = 1 → stateOf τ r = 1 ∧ statusOf τ r = statusOf σ r ∧ word1 τ r = word1 σ r) ∧
      (stateOf σ r ≠ 1 → stateOf τ r = 0 ∧ statusOf τ r = 0 ∧ word1 τ r = 0))

/-- 09 R245, R247, 02 R52: `FPUT` fills each named record, wakes its readers in turn, and leaves a POISONED one alone; a FULL record is
FUTURE_DOUBLE_PUT. (Gates that a fill opens are 02 R57: here none is closed.) -/
def Sys2Proof.Claims.PutResults : Prop :=
  ∀ (s : State) (c : Ctx) (f : RSync) (l : List (Acc × Place)) (s₁ : State), Runs s (.fput f) c → Records s c f l s₁ →
    Readable s₁ c l → (∀ e ∈ s₁.jobs, e.2.gateOpen = true) →
    (∀ e ∈ l, ∀ e' ∈ l, recordOf c e = recordOf c e' ∨ Apart (recordOf c e) (recordOf c e')) →
    ((∀ e ∈ l, stateOf s₁ (recordOf c e) ≠ 2) →
      (∀ e ∈ l, ∀ e' ∈ l, recordOf c e = recordOf c e' → e.1.lane = e'.1.lane ∨ stateOf s₁ (recordOf c e) = 3) →
      InLaneOrder (.fput f) s s₁ c l (fun e σ τ =>
        let r := recordOf c e
        let readers := if stateOf σ r = 1 then recWaiters σ c.t.vd r c.t.die else []
        RecordStep σ τ r (namesWarp σ c.t.die (partOf c.t.vd) readers) ∧ Woken σ τ c.t.die (partOf c.t.vd) readers ∧
        (stateOf σ r < 2 → stateOf τ r = 2 ∧ word1 τ r = src64 c.w f.b e.1.lane ∧ ownerField τ r = ownerField σ r ∧
          statusOf τ r = (src32 c.w f.c e.1.lane).extractLsb' 0 16) ∧
        (stateOf σ r = 3 → word0 τ r = word0 σ r ∧ word1 τ r = word1 σ r))) ∧
    ((∃ e ∈ l, stateOf s₁ (recordOf c e) = 2) → ∃ t x, x.cause = 0x0C ∧ exec (.fput f) s = .next (takeFault t c.k c.i x))

/-- 09 R248, 03 R88, 18 R452: `FGET` gives every lane its record's value when all are FULL and empties the L1; a POISONED record raises
FUTURE_POISONED in exactly the lanes that name one, and no lane is written. -/
def Sys2Proof.Claims.GetResults : Prop :=
  ∀ (s : State) (c : Ctx) (f : RSync) (l : List (Acc × Place)) (s₁ : State), Runs s (.fget f) c → Records s c f l s₁ →
    Readable s₁ c l →
    AccessFrame s s₁ ∧
    ((∀ e ∈ l, stateOf s₁ (recordOf c e) = 2) → ∃ (t : State) (x : Task) (w : Warp) (v : Nat → DWord),
      exec (.fget f) s = .next t ∧ MemStep s₁ t c f.space x w ∧ StoresNothing s₁ t c f.space x w ∧ w.kregs = c.w.kregs ∧
      (l ≠ [] → (getCore t c.core).l1 = []) ∧ (∀ e ∈ l, v e.1.lane = word1 s₁ (recordOf c e)) ∧
      RegResult c.w w c.g f.d 2 (wordsOf v) ∧ PredResult c.w w c.g f.d (wordsOf v)) ∧
    ((∃ e ∈ l, stateOf s₁ (recordOf c e) = 3) → ∃ t x, exec (.fget f) s = .next (takeFault t c.k c.i x) ∧ x.cause = 0x0D ∧
      t.mem = s₁.mem ∧ t.tasks = s₁.tasks ∧
      ∀ k, k < 32 → (inMask x.lanes k = true ↔ ∃ e ∈ l, e.1.lane = k ∧ stateOf s₁ (recordOf c e) = 3))

/-- 02 R52, 09 R248, 18 R436: an `FGET` that finds a record not FULL, and none POISONED, parks on the record of its lowest such lane where
a park record is free: the record is the list's last, and the task runs no further than its adoption (02 R64). -/
def Sys2Proof.Claims.GetParks : Prop :=
  ∀ (s : State) (c : Ctx) (f : RSync) (l : List (Acc × Place)) (s₁ : State) (n : Nat) (e : Acc × Place),
    Runs s (.fget f) c → Records s c f l s₁ → Readable s₁ c l →
    e ∈ l → stateOf s₁ (recordOf c e) < 2 → (∀ e' ∈ l, stateOf s₁ (recordOf c e') < 3) →
    (∀ e' ∈ l, e'.1.lane < e.1.lane → stateOf s₁ (recordOf c e') = 2) →
    freePark s₁ c.t.die (taskPart c.k) = some n →
    let r := recordOf c e
    let waiting := stateOf s₁ r = 1
    ∃ u : State, exec (.fget f) s = .next (if (nowTask u c).st = .waiting then considerAdoption u c.k else u) ∧
      u.mem = (wrLoc (wrLoc s₁ r 0 (word0 u r)) r 1 (word1 u r)).mem ∧
      stateOf u r = 1 ∧ ownerField u r = ownerField s₁ r ∧
      (waiting → (word1 u r).toNat % 2 ^ 32 = (word1 s₁ r).toNat % 2 ^ 32 ∧
        (word1 u r).toNat / 2 ^ 32 = ((word1 s₁ r).toNat / 2 ^ 32 + 1) % 2 ^ 32) ∧
      (¬ waiting → (word1 u r).toNat = 2 ^ 32 + n % 2 ^ 32) ∧
      (∃ p, Store.find u.parks (parkKey c.t.die (taskPart c.k) n) = some p ∧ p.task = c.k ∧ p.warp = c.i ∧ p.loc = r) ∧
      ∃ w, warpIn u c = some w ∧ w.pc = c.w.pc ∧ w.regs = c.w.regs ∧ ∃ va fin, w.blocked = .future r n va fin

/-- 09 R249, 03 R88: `FTRY` gives each lane its record's value and a code, without blocking, and empties the L1 where it found a FULL or
POISONED record. Of an unfilled record the model notes that a kill of its owner poisons it (02 R58). A predicate as second destination tells whether the record was FULL. -/
def Sys2Proof.Claims.TryResults : Prop :=
  ∀ (s : State) (c : Ctx) (f : RSync) (l : List (Acc × Place)) (s₁ : State), Runs s (.ftry f) c → Records s c f l s₁ →
    Readable s₁ c l →
    AccessFrame s s₁ ∧ ∃ (t : State) (x : Task) (w : Warp) (v : Nat → DWord) (code : Nat → Nat),
      exec (.ftry f) s = .next t ∧ MemStep s₁ { t with futs := s₁.futs } c f.space x w ∧ StoresNothing s₁ t c f.space x w ∧
      w.kregs = c.w.kregs ∧ (∀ r ∈ s₁.futs, r ∈ t.futs) ∧
      ((∃ e ∈ l, 2 ≤ stateOf s₁ (recordOf c e)) → (getCore t c.core).l1 = []) ∧
      (∀ e ∈ l, let r := recordOf c e
        (stateOf s₁ r < 2 → v e.1.lane = 0 ∧ code e.1.lane = stateOf s₁ r) ∧
        (stateOf s₁ r = 2 → v e.1.lane = word1 s₁ r ∧ code e.1.lane = 2) ∧
        (stateOf s₁ r = 3 → v e.1.lane = (statusOf s₁ r).zeroExtend 64 ∧ code e.1.lane = 3)) ∧
      (∀ q k, k < 32 → getV w q k =
        if writesReg c.g f.b 1 q k then BitVec.ofNat 32 (code k)
        else if writesReg c.g f.d 2 q k then wordsOf v k (q - firstReg f.d)
        else getV c.w q k) ∧
      (∀ p k, k < 32 → inMask (predMask w p) k =
        if writesPred c.g f.b p k then decide (code k = 2)
        else if writesPred c.g f.d p k then decide (lowWord (v k) ≠ 0)
        else inMask (predMask c.w p) k)

/-- 09 R250, 02 R53, 03 R88: `LKACQ` takes every record that is FREE for its task, once for each record, and completes where all are held
by it; a POISONED record that it reaches is FUTURE_POISONED in the lanes that name it or another POISONED record not yet held. -/
def Sys2Proof.Claims.LockAcquireResults : Prop :=
  ∀ (s : State) (c : Ctx) (f : RSync) (l : List (Acc × Place)) (s₁ : State), Runs s (.lkacq f) c → Records s c f l s₁ →
    Readable s₁ c l → (∀ r ∈ distinctOf c l, ∀ q ∈ distinctOf c l, r = q ∨ Apart r q) →
    AccessFrame s s₁ ∧
    ((∀ r ∈ distinctOf c l, r ∈ c.w.acq ∨ stateOf s₁ r = 0) → ∃ (t : State) (w : Warp),
      exec (.lkacq f) s = .next t ∧ warpIn t c = some w ∧
      w = { c.w with pc := c.w.pc + 8, issued := c.w.issued + 1, acq := w.acq } ∧ (l ≠ [] → w.acq = [] ∧ (getCore t c.core).l1 = []) ∧
      (∀ r ∈ distinctOf c l, r ∉ c.w.acq → stateOf t r = 1 ∧ ownerField t r = c.t.handle.extractLsb' 0 46 ∧
        statusOf t r = statusOf s₁ r + 1 ∧ word1 t r = word1 s₁ r) ∧
      (∀ r, (∀ q ∈ distinctOf c l, q ∈ c.w.acq ∨ Apart r q) → (∀ k o, r = .shared k o → (getTask s₁ k).isSome) →
        word0 t r = word0 s₁ r ∧ word1 t r = word1 s₁ r) ∧
      (∀ k, k ≠ c.k → getTask t k = getTask s₁ k) ∧ (∀ i, i ≠ c.i → (getTask t c.k).bind (getWarp · i) = getWarp c.t i)) ∧
    (∀ r, (distinctOf c l).head? = some r → r ∉ c.w.acq → stateOf s₁ r = 3 → ∃ t x, exec (.lkacq f) s = .next (takeFault t c.k c.i x) ∧
      x.cause = 0x0D ∧ t.mem = s₁.mem ∧ ∀ k, k < 32 → (inMask x.lanes k = true ↔
        ∃ e ∈ l, e.1.lane = k ∧ recordOf c e ∉ c.w.acq ∧ stateOf s₁ (recordOf c e) = 3))

/-- 09 R251, 18 R452: `LKREL` frees each record that its task owns, or hands it to the first waiter; a record that another owns is
LOCK_NOT_OWNER in the lanes that name such a record, and nothing is written where it is the first. -/
def Sys2Proof.Claims.LockReleaseResults : Prop :=
  ∀ (s : State) (c : Ctx) (f : RSync) (l : List (Acc × Place)) (s₁ : State), Runs s (.lkrel f) c → Records s c f l s₁ →
    Readable s₁ c l → (∀ r ∈ distinctOf c l, ∀ q ∈ distinctOf c l, r = q ∨ Apart r q) →
    let die := c.t.die
    let part := partOf c.t.vd
    AccessFrame s s₁ ∧
    ((∀ r ∈ distinctOf c l, (ownerField s₁ r).zeroExtend 64 = c.t.handle) →
      ∃ (σ : Nat → State) (w : Warp), σ 0 = s₁ ∧
        (∀ j r, (distinctOf c l)[j]? = some r →
          let waiters := if stateOf (σ j) r = 2 then recWaiters (σ j) c.t.vd r die else []
          let τ := σ (j + 1)
          (waiters = [] → RecordStep (σ j) τ r noWarp ∧ stateOf τ r = 0 ∧ ownerField τ r = 0 ∧ statusOf τ r = statusOf (σ j) r ∧
            word1 τ r = word1 (σ j) r) ∧
          (∀ n rest p, waiters = n :: rest → Store.find (σ j).parks (parkKey die part n) = some p →
            RecordStep (σ j) τ r (fun k i => k = p.task ∧ i = p.warp) ∧ Woken (σ j) τ die part [n] ∧
            stateOf τ r = (if rest = [] then 1 else 2) ∧ statusOf τ r = statusOf (σ j) r + 1 ∧
            ownerField τ r = (keyHandle p.task).extractLsb' 0 46 ∧
            word1 τ r = match rest with
              | [] => 0
              | h :: _ => BitVec.ofNat 64 (rest.length * 2 ^ 32 + h % 2 ^ 32))) ∧
        warpIn (σ (distinctOf c l).length) c = some w ∧
        exec (.lkrel f) s = .next (setWarp (σ (distinctOf c l).length) c.k c.i { w with pc := w.pc + 8, issued := w.issued + 1 })) ∧
    (∀ r, (distinctOf c l).head? = some r → (ownerField s₁ r).zeroExtend 64 ≠ c.t.handle →
      ∃ x, exec (.lkrel f) s = .next (takeFault s₁ c.k c.i x) ∧ x.cause = 0x11 ∧
        ∀ k, k < 32 → (inMask x.lanes k = true ↔
          ∃ e ∈ l, e.1.lane = k ∧ (ownerField s₁ (recordOf c e)).zeroExtend 64 ≠ c.t.handle))

/-- 09 R255, R256, 18 R450, R452: the four barrier instructions, with their faults. -/
def Obligations.Barriers : Prop :=
  ∀ (s : State) (c : Ctx) (f : RRaw),
    let n := barrierNumber c f
    let arg := barrierArgument c f
    let next := { c.w with pc := c.w.pc + 8, issued := c.w.issued + 1 }
    let overrun := fun d => barrierFault c 0x0B (d + n % 256 * 2 ^ 8) (BitVec.ofNat 64 n)
    let completes := fun (i : Instr) (b : Barrier) (extra : Warp → Prop) =>
      ∃ t x w, exec i s = .next t ∧ TaskStep s t c x ∧ getWarp x c.i = some w ∧ Arrived c n b x ∧ extra w
    (∀ i, i ∈ [Instr.barInit f, .barArr f, .barWait f, .barSync f] → Runs s i c →
      (c.g = 0 → Leaves s i c next) ∧
      (c.g ≠ 0 → c.kern.nbar ≤ n → exec i s = .next (takeFault s c.k c.i (barrierFault c 0x06 5 0))) ∧
      (c.g ≠ 0 → n < c.kern.nbar → i ≠ .barInit f → Store.find c.t.barriers n = none →
        exec i s = .next (takeFault s c.k c.i (barrierFault c 0x06 6 0)))) ∧
    (Runs s (.barInit f) c → c.g ≠ 0 → n < c.kern.nbar →
      ((arg = 0 ∨ 32 < arg.toNat) → exec (.barInit f) s = .next (takeFault s c.k c.i (barrierFault c 0x06 7 0))) ∧
      (1 ≤ arg.toNat → arg.toNat ≤ 32 →
        let busy := (∃ b, Store.find c.t.barriers n = some b ∧ b.mask ≠ 0) ∨
          ∃ i w lane, getWarp c.t i = some w ∧ w.blocked = .barrier n lane
        (busy → exec (.barInit f) s = .next (takeFault s c.k c.i (overrun 1))) ∧
        (¬ busy → ∃ t x, exec (.barInit f) s = .next t ∧ TaskStep s t c x ∧
          x = { c.t with warps := setNth c.t.warps c.i next, barriers := x.barriers } ∧
          ∀ m, Store.find x.barriers m = if m = n then some { expect := arg.toNat, mask := 0, phase := 0 } else Store.find c.t.barriers m))) ∧
    (∀ b, c.g ≠ 0 → n < c.kern.nbar → Store.find c.t.barriers n = some b →
      (Runs s (.barArr f) c → (inMask b.mask c.i = true → exec (.barArr f) s = .next (takeFault s c.k c.i (overrun 0))) ∧
        (inMask b.mask c.i = false → c.w.blocked = .ready → completes (.barArr f) b (fun w => OnlyRegs c.w w ∧
          RegResult c.w w c.g f.d 1 (fun _ _ => b.phase.zeroExtend 32) ∧ PredResult c.w w c.g f.d (fun _ _ => b.phase.zeroExtend 32)))) ∧
      (Runs s (.barWait f) c → b.phase ≠ arg.extractLsb' 0 16 → Leaves s (.barWait f) c next) ∧
      (Runs s (.barSync f) c → c.w.blocked = .ready →
        (c.w.arrived = none → inMask b.mask c.i = true → exec (.barSync f) s = .next (takeFault s c.k c.i (overrun 0))) ∧
        (c.w.arrived = none → inMask b.mask c.i = false → popCount (b.mask ||| laneMask c.i) = b.expect →
          completes (.barSync f) b (fun w => w = next)) ∧
        (∀ m tok, c.w.arrived = some (m, tok) → b.phase ≠ tok → Leaves s (.barSync f) c { next with arrived := none })))

/-- 09 R252, R253, 02 R56: `SPAWN` creates one job for each lane, whose record, descriptor, futures and gate have been found good, and
gives the lane its number. The premise on free numbers is that the VD has them (20 R497 reasons 4 and 5 else). -/
def Obligations.Spawns : Prop :=
  ∀ (s : State) (c : Ctx) (f : RSync) (rs : List (Nat × SpawnRes)) (s₁ : State), Runs s (.spawn f) c →
    c.w.blocked = .ready → spawnLanes f c (lanesOf c.g) s = (rs, s₁) → (∀ e ∈ rs, ∃ ws k gate, e.2 = .ready ws k gate) →
    tableRoom s₁ c.t.die rs.length = true → numberRoom s₁ c.t.vd rs.length = true →
    rs.length ≤ (List.range 16383).countP (fun i => (getJob s₁ c.t.vd (i + 1)).isNone) →
    ∃ (t : State) (w : Warp) (num : Nat → Nat), exec (.spawn f) s = .next t ∧ warpIn t c = some w ∧ OnlyRegs c.w w ∧
      RegResult c.w w c.g f.d 1 (fun l _ => BitVec.ofNat 32 (num l)) ∧ PredResult c.w w c.g f.d (fun l _ => BitVec.ofNat 32 (num l)) ∧
      (∀ e ∈ rs, 1 ≤ num e.1 ∧ num e.1 ≤ 16383 ∧ getJob s₁ c.t.vd (num e.1) = none) ∧
      (∀ e ∈ rs, ∀ e' ∈ rs, num e.1 = num e'.1 → e.1 = e'.1) ∧
      ((∀ e ∈ s₁.jobs, e.2.gateOpen = true) → (∀ e ∈ rs, ∃ ws k, e.2 = .ready ws k none) →
        ∀ e ∈ rs, ∀ ws k, e.2 = .ready ws k none → ∃ j, getJob t c.t.vd (num e.1) = some j ∧
          j.num = num e.1 ∧ j.vd = c.t.vd ∧ j.kernel = k ∧ j.ntask = ((ws.getD 1 0).extractLsb' 0 32).toNat ∧ j.args = recArgs ws ∧
          j.dies = [c.t.die] ∧ j.base = ws.getD 2 0 ∧ j.gateOpen = true ∧ j.parent = some c.k ∧
          ∀ p, taskJob s c.t = some p → j.prio = p.prio)

/-- 09 R254: `TEND` with a lane ends its task, no warp of which is left; with no lane it does nothing. While warps of the task run in the
lattice the task is ending: they drain first, as for pre-emption (12 R337), and no store of theirs is made here. (On a dirty log that is
full the task waits instead, 14 R394.) -/
def Sys2Proof.Claims.TaskEndResults : Prop :=
  ∀ (s : State) (c : Ctx) (f : RRaw), Runs s (.tend f) c →
    (c.g = 0 → Leaves s (.tend f) c { c.w with pc := c.w.pc + 8, issued := c.w.issued + 1 }) ∧
    (c.g ≠ 0 → taskLattice s c.k ≠ [] → exec (.tend f) s = .next
      ((taskLattice s c.k).foldl (fun s j => preemptWarp s c.k j .preempt) (setTask s c.k { c.t with ending := some c.i }))) ∧
    (c.g ≠ 0 → taskLattice s c.k = [] → endHeld s c.k = false → ∃ t, exec (.tend f) s = .next t ∧
      t = endTask s c.k (src64 c.w f.a (lane0 c.g)) ((src32 c.w f.b (lane0 c.g)).toNat % 2 ^ 16) ∧
      ∀ x, getTask t c.k = some x → x.st = .ended ∧ x.warps = [])

/-- 02 R55: a task that ends is counted; when the last one has ended the job leaves the table, and else its record stays. -/
def Sys2Proof.Claims.JobsCountEndedTasks : Prop :=
  ∀ (s : State) (j : Job) (ix : Nat) (bad : Bool), getJob s j.vd j.num = some j → ix < j.ntask →
    let t := noteDone s j ix bad
    ((∀ i, i < j.ntask → i = ix ∨ (Store.find j.done i).isSome = true) → getJob t j.vd j.num = none) ∧
    ((∃ i, i < j.ntask ∧ i ≠ ix ∧ Store.find j.done i = none) → ∃ j', getJob t j.vd j.num = some j' ∧
      j' = { j with done := j'.done, shares := j'.shares } ∧
      ∀ i, Store.find j'.done i = if i = ix then some bad else Store.find j.done i)

/-! Copies and cache hints (09 R257 to R266). -/

namespace Sys2Proof.Claims

/-- The warp after an instruction that changes nothing else of it. -/
def stepped (c : Ctx) : Warp := { c.w with pc := c.w.pc + 8, issued := c.w.issued + 1 }

/-- The issue of an engine operation: it stands in a free entry of its core, its warp goes on, and no byte of memory changes. -/
def CopyIssued (s₁ t : State) (c : Ctx) (entry : Nat) (o : CopyOp) : Prop :=
  t = setWarp { s₁ with cores := t.cores, l2 := t.l2, seq := s₁.seq + 1 } c.k c.i (stepped c) ∧
  (∀ n, getCore t n = if n = c.core then { getCore s₁ n with l1 := (getCore t n).l1, copies := (getCore t n).copies } else getCore s₁ n) ∧
  ∀ m, Store.find (getCore t c.core).copies m = if m = entry then some o else Store.find (getCore s₁ c.core).copies m

/-- The operand in the space of XSP: its space, and the address of a lane (09 R257). -/
def xspOf (f : RCopy) : Space := if f.xsp = 1 then .shared else .die

/-- The completion future of the lowest lane (09 R257, R258). -/
def futureOf (f : RCopy) (c : Ctx) : Comp :=
  if f.fsp = 0 then .die (src64 c.w f.b (lane0 c.g)) else if f.fsp = 1 then .shared (src32 c.w f.b (lane0 c.g)).toNat else .none

/-- The copy that a descriptor describes (09 R259): `n` is 0, 1 or 2 for `COPY`, `COPY2` and `COPY3`. -/
def describedCopy (n : Nat) (word : Nat → DWord) : CopyKind :=
  .block (word 0) (word 1) (decide ((word 6).extractLsb' 0 2 = 1)) (decide ((word 6).extractLsb' 2 2 = 1))
    ((word 2).extractLsb' 0 32).toNat (if n = 0 then 0 else ((word 2).extractLsb' 32 16).toNat)
    (if n = 2 then ((word 2).extractLsb' 48 16).toNat else 0)
    (if n = 0 then 0 else ((word 3).extractLsb' 0 32).toInt) (if n = 0 then 0 else ((word 3).extractLsb' 32 32).toInt)
    (if n = 2 then (word 4).toInt else 0) (if n = 2 then (word 5).toInt else 0)

/-- An address or offset of a lane in the space of XSP. -/
def xspAddress (f : RCopy) (c : Ctx) (o : Opnd) (l : Nat) : Int := addressOf c.w (xspOf f) o 0 l

/-- The byte at a place of an operation. -/
def byteAtPlace (s : State) (task : Nat) : EngPlace → Byte
  | .phys pa => rdByte s.mem pa
  | .shared o => match getTask s task with
    | some x => Store.get 0 x.shared o
    | none => 0
  | .peer => 0

end Sys2Proof.Claims

/-- 09 R258, R259, R264: `COPY`, `COPY2` and `COPY3` enter the copy that their descriptor describes in the free entry of lowest number, with
the lowest lane's operands; with no lane they do nothing, and with no free entry they wait. -/
def Sys2Proof.Claims.CopyIssueResults : Prop :=
  ∀ (s : State) (c : Ctx) (f : RCopy) (i : Instr) (n : Nat), (i, n) ∈ [(Instr.copy f, 0), (.copy2 f, 1), (.copy3 f, 2)] → Runs s i c →
    let a : Acc := { lane := lane0 c.g, addr := xspAddress f c f.a (lane0 c.g), n := 64 }
    (c.g = 0 → Leaves s i c (stepped c)) ∧
    (c.g ≠ 0 → formFault c.kern (xspOf f) 64 2 a = none → compForm f c (lane0 c.g) = none →
      (freeCopy s c = none → ∃ t, exec i s = .next t ∧ t.mem = s.mem ∧ warpIn t c = some { c.w with blocked := .copies, blockedAt := s.seq }) ∧
      (∀ entry p s₁, freeCopy s c = some entry → checkAccess s c (xspOf f) 64 2 needR [a] = (.ok [(a, p)], s₁) →
        lostAccs s₁ c 0 [(a, p)] = [] →
        let word := fun j => BitVec.ofNat 64 (seen s₁ c 0 64 (lane0 c.g) p / 2 ^ (64 * j))
        (∀ j, j < 8 → copyFieldOk c.kern.shmem ((List.range 8).map word) n j = true) →
        entry < 16 ∧ AccessFrame s s₁ ∧ ∃ t, exec i s = .next t ∧ CopyIssued s₁ t c entry
          { task := c.k, warp := c.i, pc := c.w.pc, kind := describedCopy n word, comp := futureOf f c, progress := 0, st := .going,
            seq := s₁.seq }))

/-- 09 R263: `GATHER` and `SCATTER` enter one element for each lane, in lane order, at the addresses and offsets of their operands. -/
def Sys2Proof.Claims.GatherScatterIssueResults : Prop :=
  ∀ (s : State) (c : Ctx) (f : RCopy),
    let shared := f.xsp = 1
    let legal := fun (o : Opnd) => ∀ l, l < 32 → inMask c.g l = true →
      let a := xspAddress f c o l
      a % (widthOf f.ty : Int) = 0 ∧ (shared → 0 ≤ a ∧ a < 2 ^ 32 ∧ a + widthOf f.ty ≤ c.kern.shmem)
    let issued := fun (i : Instr) (kind : CopyKind) => ∀ entry, freeCopy s c = some entry → ∃ t, exec i s = .next t ∧
      CopyIssued s t c entry
        { task := c.k, warp := c.i, pc := c.w.pc, kind := kind, comp := futureOf f c, progress := 0, st := .going, seq := s.seq }
    let address := fun (o : Opnd) l => BitVec.ofInt 64 (xspAddress f c o l)
    (Runs s (.gather f) c → (c.g = 0 → Leaves s (.gather f) c (stepped c)) ∧
      (c.g ≠ 0 → legal f.d → compForm f c (lane0 c.g) = none → issued (.gather f) (.elems (widthOf f.ty) 0 (decide shared) false
        ((lanesOf c.g).map (fun l => (l, address f.d l, src64 c.w f.a l)))))) ∧
    (Runs s (.scatter f) c → (c.g = 0 → Leaves s (.scatter f) c (stepped c)) ∧
      (c.g ≠ 0 → legal f.a → compForm f c (lane0 c.g) = none → issued (.scatter f) (.elems (widthOf f.ty) f.ops.toNat false (decide shared)
        ((lanesOf c.g).map (fun l => (l, src64 c.w f.d l, address f.a l))))))

/-- 09 R260, R261, 04 R116: the chunks of a copy, one after another, hold its bytes in destination order, each between the addresses that
the strides give. A chunk begins 4,096 bytes after the one before, or up to 15 bytes later where an aligned unit of the destination (8 bytes,
16 in `.shared`) would be parted. -/
def Sys2Proof.Claims.CopyByteOrder : Prop :=
  ∀ (dst src : DWord) (dsp ssp : Bool) (xlen ycnt zcnt : Nat) (sy dy sz dz : Int), 0 < xlen →
    let k : CopyKind := .block dst src dsp ssp xlen ycnt zcnt sy dy sz dz
    let before := fun c => (List.range c).flatMap (fun j => chunkMoves j k)
    let total := xlen * ((ycnt + 1) * (zcnt + 1))
    let moves := before (chunkCount k)
    moves.length = total ∧
    (∀ x y z : Nat, x < xlen → y ≤ ycnt → z ≤ zcnt → moves[x + xlen * (y + (ycnt + 1) * z)]? =
      some (BitVec.ofInt 64 (dst.toNat + z * dz + y * dy + x), BitVec.ofInt 64 (src.toNat + z * sz + y * sy + x))) ∧
    ∀ c, 4096 * c < total → 4096 * c ≤ (before c).length ∧ (before c).length ≤ 4096 * c + 15 ∧
      ∀ e, moves[4096 * c]? = some e → e.1.toNat % (if dsp then 16 else 8) = 0 → (before c).length = 4096 * c

/-- 09 R261, 17 R433: a chunk of a copy that is not its last moves its bytes: of moves to one byte the last stands, every other byte is as
before, and the entry counts the chunk. (Peers' bytes are outside the package.) -/
def Sys2Proof.Claims.CopyChunkMoves : Prop :=
  ∀ (s : State) (core entry : Nat) (o : CopyOp) (l : List (EngPlace × EngPlace)) (s₁ : State),
    Store.find (getCore s core).copies entry = some o → o.st = .going → vdRuns s (keyVd o.task) = true →
    (∀ w op a b els, o.kind ≠ .elems w op a b els) → o.progress + 1 < chunkCount o.kind →
    opSeated s o.task (dstShared o.kind || srcShared o.kind || compShared o.comp) = true →
    engPlaces { task := o.task, core := core, unit := 6 } (dstShared o.kind) (srcShared o.kind) (chunkMoves o.progress o.kind) s
      = (.ok l, s₁) →
    (∀ e ∈ l, e.1 ≠ .peer ∧ e.2 ≠ .peer) →
    ∃ t, exec (.copyChunk core entry) s = .next t ∧
      t = { s₁ with mem := t.mem, poison := t.poison, l2 := t.l2, tasks := t.tasks, cores := t.cores } ∧
      Store.find (getCore t core).copies entry = some { o with progress := o.progress + 1 } ∧
      (∀ a, (∀ e ∈ l, e.1 ≠ .phys a) → rdByte t.mem a = rdByte s₁.mem a) ∧
      (∀ (j : Nat) e a, l[j]? = some e → e.1 = .phys a → (∀ j' e', j < j' → l[j']? = some e' → e'.1 ≠ .phys a) →
        rdByte t.mem a = byteAtPlace s₁ o.task e.2) ∧
      (∀ k, k ≠ o.task → getTask t k = getTask s₁ k)

/-- 09 R266, 03 R87, R89: the hints change no data: `CWB` has its slices write dirty sectors back, which the bytes of memory do not show,
`PREFETCH` may translate and fill lines of the slices, and `CINV` discards lines of the core's L1. -/
def Sys2Proof.Claims.CacheHintResults : Prop :=
  ∀ (s : State) (c : Ctx) (f : RRaw),
    (Runs s (.cwb f) c → (c.g = 0 → Leaves s (.cwb f) c (stepped c)) ∧
      ∃ x, exec (.cwb f) s = .next (setWarp { s with l2 := x } c.k c.i (stepped c))) ∧
    (Runs s (.prefetch f) c → (c.g = 0 → Leaves s (.prefetch f) c (stepped c)) ∧
      ∃ s₁, AccessFrame s s₁ ∧ exec (.prefetch f) s = .next (setWarp s₁ c.k c.i (stepped c))) ∧
    (Runs s (.cinv f) c → (c.g = 0 → Leaves s (.cinv f) c (stepped c)) ∧
      ∃ s₁, exec (.cinv f) s = .next (setWarp s₁ c.k c.i (stepped c)) ∧ s₁ = { s with cores := s₁.cores } ∧
        ∀ n, getCore s₁ n = { getCore s n with l1 := (getCore s₁ n).l1 } ∧
          ∀ k, Store.find (getCore s₁ n).l1 k = none ∨ Store.find (getCore s₁ n).l1 k = Store.find (getCore s n).l1 k)

/-! The matrix array and the gather-accumulate engine (05 R137 to R150, 10 R269 to R293). -/

namespace Sys2Proof.Claims

/-- Element `e` of width `z` in a lane's string of `n` registers from an operand (10 R270). -/
def tileElem (w : Warp) (o : Opnd) (n z l e : Nat) : Nat := srcNat w o l 0 n / 2 ^ (z * e) % 2 ^ z

/-- The geometry of 10 R270 and R271: rows, groups of lanes, columns of a group in D, and elements of A and B in a lane. -/
structure Geometry where
  rows : Nat
  groups : Nat
  cols : Nat
  len : Nat
def geometryOf (sparse : Bool) (fmt : BitVec 4) : Geometry :=
  if fmt = 13 then { rows := 8, groups := 4, cols := 2, len := if sparse then 4 else 2 }
  else { rows := 16, groups := 2, cols := 8, len := fmtLaneLen sparse fmt }

/-- Element k of row i of A, or of column i of B: its lane, and its place in the lane. -/
def laneOf (G : Geometry) (i k : Nat) : Nat := i + G.rows * (k / G.len)

/-- The lane and the place of element (i, j) of C and D. -/
def resultLane (G : Geometry) (i j : Nat) : Nat := i + G.rows * (j / G.cols)

/-- Whether the element of A takes part: all do in `MMA`, those that the bitmap marks in `MMAS` (10 R277). -/
def takesPart (sparse : Bool) (G : Geometry) (f : RMma) (w : Warp) (i k : Nat) : Prop :=
  sparse = true → (srcNat w (opndUp f.a (mmaElemRegs true f)) (laneOf G i k) 0 (fmtLaneLen true f.fmt / 32)).testBit (k % G.len) = true

/-- A floating element with its block's scale (05 R138, 10 R272): `off` is where the scale string stands after the operand. -/
def scaledValue (f : RMma) (w : Warp) (o : Opnd) (n off sregs : Nat) (F : Fmt) (G : Geometry) (i k : Nat) : FVal :=
  let v := F.decode (tileElem w o n F.width (laneOf G i k) (k % G.len))
  if f.fmt ∈ [2, 3, 4, 5, 10] then
    v.scaled (tileElem w (opndUp o off) sregs 16 (laneOf G i k) (k % G.len / (if f.blk16 then 16 else 32)))
  else v

/-- The integer of an element code. -/
def elemInt (bits : Nat) (sgn : Bool) (x : Nat) : Int := if sgn then Int.bmod x (2 ^ bits) else x

/-- The floating formats and the integer types of A and B (10 R275). -/
def floatFormats (fmt : BitVec 4) : Option (Fmt × Fmt) :=
  match fmt.toNat with
  | 0 => some (bf16, bf16)
  | 1 => some (fp16, fp16)
  | 2 => some (f8a, f8a)
  | 3 => some (f8a, f8b)
  | 4 => some (f8b, f8a)
  | 5 => some (f8b, f8b)
  | 10 => some (f4, f4)
  | 13 => some (fp64, fp64)
  | _ => none
def intFormats (fmt : BitVec 4) : Option (Nat × Bool × Bool) :=
  match fmt.toNat with
  | 6 => some (8, true, true)
  | 7 => some (8, false, false)
  | 8 => some (8, true, false)
  | 9 => some (8, false, true)
  | 11 => some (4, true, true)
  | 12 => some (4, false, false)
  | _ => none

/-- The format of C and D (10 R274). -/
def resultFormat (f : RMma) : Fmt :=
  if f.dtype = 1 then fp16 else if f.dtype = 2 then bf16 else if f.fmt = 13 then fp64 else fp32

/-- A term truncated to a multiple of `2 ^ u`, as a signed count of them (05 R140). -/
def truncated (u : Int) : FVal → Int → Prop
  | .fin neg m e, t => ∃ q : Nat, t = (if neg then -(q : Int) else q) ∧ (q : ℚ) * 2 ^ u ≤ m * 2 ^ e ∧ (m : ℚ) * 2 ^ e < (q + 1) * 2 ^ u
  | _, _ => False

/-- The greatest exponent of the terms that are not zero (05 R140). -/
def IsGreatestExponent (ts : List FVal) (emax : Int) : Prop :=
  (∃ neg m e, FVal.fin neg m e ∈ ts ∧ m ≠ 0 ∧ (2 : ℚ) ^ emax ≤ m * 2 ^ e ∧ (m : ℚ) * 2 ^ e < 2 ^ (emax + 1)) ∧
  ∀ neg m e, FVal.fin neg m e ∈ ts → (m : ℚ) * 2 ^ e < 2 ^ (emax + 1)

/-- The accesses of a lane of `LDM` and `STM` with the byte of the lane's string at which each begins (10 R281): `R` rows, row and group of
the lane, and the stride of the rows in bytes. -/
def tileAccesses (f : RLdm) (w : Warp) (l : Nat) : List (Acc × Nat) :=
  let R := if f.geo then 8 else 16
  let W := 16 * 2 ^ f.wid.toNat
  let stride := (src32 w f.b 0).toInt
  let place := fun off : Int => addressOf w f.space f.a off 0
  if f.tr = 0 then
    (List.range (W / 16)).map (fun j => ({ lane := l, addr := place ((l % R : Nat) * stride + (l / R * W + 16 * j : Nat)), n := 16 }, 16 * j))
  else
    let t := if f.tr = 1 then 16 else if f.tr = 2 then 8 else 64
    let n := 8 * W / t
    (List.range n).map (fun e =>
      ({ lane := l, addr := place ((l / R * n + e : Nat) * stride + (l % R * t / 8 : Nat)), n := t / 8 }, e * (t / 8)))
def allTileAccesses (f : RLdm) (w : Warp) : List (Acc × Nat) := (List.range 32).flatMap (tileAccesses f w)
def tileAlign (f : RLdm) : Nat := if f.tr = 0 then 16 else if f.tr = 1 then 2 else if f.tr = 2 then 1 else 8

/-- Bytes of a space after stores in the order of a list: the last store to a byte stays, and every other byte is as before. -/
def StoredLast (l : List (Acc × Place)) (data : Nat → Nat → Byte) (at? : Place → Option Nat) (before after : Nat → Byte) : Prop :=
  (∀ a, (∀ e ∈ l, ∀ b, at? e.2 = some b → a < b ∨ b + e.1.n ≤ a) → after a = before a) ∧
  (∀ (m : Nat) e b j, l[m]? = some e → at? e.2 = some b → j < e.1.n →
    (∀ m' e' b', m < m' → l[m']? = some e' → at? e'.2 = some b' → b + j < b' ∨ b' + e'.1.n ≤ b + j) → after (b + j) = data m j)

/-- The fields of a GAE context (10 R284). -/
def ncolOf (x : GaeCtx) : Nat := (x.cfg.extractLsb' 0 16).toNat
def cblenOf (x : GaeCtx) : Nat := (x.cfg.extractLsb' 16 8).toNat
def nactOf (x : GaeCtx) : Nat := (x.cfg.extractLsb' 24 2).toNat
def actBytes (x : GaeCtx) : Nat := if x.cfg.getLsbD 26 then 2 else 4
def bookBytes (x : GaeCtx) : Nat := if x.cfg.getLsbD 27 then 2 else 4

/-- The value of a row for one column (05 R145): bunch after bunch, the rounded sum of its activations times its codebook value is added;
an empty bunch adds nothing. -/
def RowResult (act cb : Nat → Nat) (bs : List (Nat × List Nat)) (r : Nat) : Prop :=
  ∃ acc : Nat → Nat, acc 0 = 0 ∧ acc bs.length = r ∧ ∀ (j : Nat) idx ps, bs[j]? = some (idx, ps) →
    (ps = [] → acc (j + 1) = acc j) ∧
    (ps ≠ [] → ∃ sum prod : Nat,
      ((∀ p ∈ ps, ∃ n e, fp32.decode (act p) = .fin n 0 e) → sum = 0) ∧
      ((∃ p ∈ ps, ∀ n e, fp32.decode (act p) ≠ .fin n 0 e) → sum = mmaSum fp32 51 (ps.map (fun p => fp32.decode (act p)))) ∧
      prod = fp32.ofVal .rn ((fp32.decode sum).mul (fp32.decode (cb idx))) ∧
      acc (j + 1) = fp32.ofVal .rn ((fp32.decode (acc j)).add .rn (fp32.decode prod)))

/-- The issue of a GAE operation in a free entry of its core's queue. -/
def GaeIssued (s₁ t : State) (c : Ctx) (entry : Nat) (o : GaeOp) (w : Warp) (bump : Nat) : Prop :=
  t = setWarp { s₁ with cores := t.cores, l2 := t.l2, seq := s₁.seq + bump } c.k c.i w ∧
  (∀ n, getCore t n = if n = c.core then { getCore s₁ n with l1 := (getCore t n).l1, gaeq := (getCore t n).gaeq } else getCore s₁ n) ∧
  ∀ m, Store.find (getCore t c.core).gaeq m = if m = entry then some o else Store.find (getCore s₁ c.core).gaeq m

end Sys2Proof.Claims

/-- 05 R140, R141: the sum of the matrix array. A NaN term, or infinities of both signs, give the NaN, and infinities of one sign give it.
Else every term is truncated to a multiple of the greatest exponent's window, and the exact sum of the truncated terms is rounded once; a sum
that is zero while some term is not is +0, and zeros alone sum to −0 where all are −0. -/
def Sys2Proof.Claims.MatrixSumIsOneRounding : Prop :=
  ∀ (F : Fmt) (win : Nat) (ts : List FVal),
    ((.nan ∈ ts ∨ (.inf true ∈ ts ∧ .inf false ∈ ts)) → mmaSum F win ts = F.nan) ∧
    (∀ neg, .nan ∉ ts → .inf neg ∈ ts → .inf (!neg) ∉ ts → mmaSum F win ts = F.inf neg) ∧
    ((∀ t ∈ ts, ∃ n m e, t = .fin n m e) →
      ((∀ n m e, FVal.fin n m e ∈ ts → m = 0) →
        ((∀ n m e, FVal.fin n m e ∈ ts → n = true) → mmaSum F win ts = F.zero true) ∧
        ((∃ m e, FVal.fin false m e ∈ ts) → mmaSum F win ts = F.zero false)) ∧
      (∀ emax, IsGreatestExponent ts emax → ∃ qs : List Int, List.Forall₂ (truncated (emax - win)) ts qs ∧
        mmaSum F win ts = if qs.sum = 0 then F.zero false
          else F.ofVal .rn (.fin (decide (qs.sum < 0)) qs.sum.natAbs (emax - win))))

/-- 10 R269 to R279, 05 R138 to R143: `MMA` and `MMAS` form every element of D from C and the products of a row of A and a column of B, and
advance the block counter of scaled formats; a scale word of another block, a row with too many elements, and a selected result are faults. -/
def Sys2Proof.Claims.MatrixMultiplyResults : Prop :=
  ∀ (s : State) (c : Ctx) (f : RMma) (sparse : Bool) (i : Instr), i = (if sparse then .mmas f else .mma f) → Runs s i c →
    let G := geometryOf sparse f.fmt
    let n := mmaElemRegs sparse f
    let offA := n + (if sparse then fmtLaneLen true f.fmt / 32 else 0)
    let D := resultFormat f
    let x := mmaRead sparse f c.w
    (∀ y, scaleFault sparse f c.w x = some y → ∃ z, (z.cause = 0x16 ∨ z.cause = 0x17) ∧ exec i s = .next (takeFault s c.k c.i z)) ∧
    (scaleFault sparse f c.w x = none → (sparse = true → sparseFault f x = none) →
      ∃ (code : Nat → Nat → Nat),
        (∀ p q, p < G.rows → q < G.cols * G.groups → ∃ ks : List Nat,
          (∀ k, k ∈ ks ↔ k < G.len * G.groups ∧ takesPart sparse G f c.w p k) ∧ ks.Nodup ∧
          (∀ FA FB, floatFormats f.fmt = some (FA, FB) →
            code p q = mmaSum D (if f.fmt = 13 then 106 else 48)
              (D.decode (tileElem c.w f.c (mmaCRegs f) D.width (resultLane G p q) (q % G.cols)) ::
                ks.map (fun k => (scaledValue f c.w f.a n offA (scaleRegs sparse f) FA G p k).mul
                  (scaledValue f c.w f.b n n (scaleRegs sparse f) FB G q k)))) ∧
          (∀ bits sa sb, intFormats f.fmt = some (bits, sa, sb) →
            (code p q : Int) = (intResult .s32 f.sat ((BitVec.ofNat 32 (tileElem c.w f.c (mmaCRegs f) 32 (resultLane G p q) (q % 8))).toInt +
              (ks.map (fun k => elemInt bits sa (tileElem c.w f.a n bits (laneOf G p k) (k % G.len)) *
                elemInt bits sb (tileElem c.w f.b n bits (laneOf G q k) (k % G.len)))).sum)).toNat)) ∧
        let sel := fun l => ∃ p q, p < G.rows ∧ q < G.cols * G.groups ∧ resultLane G p q = l ∧ (floatFormats f.fmt).isSome = true ∧
          c.w.fpmode.getLsbD 2 = true ∧ selected c.w D 1 (BitVec.ofNat 64 (code p q))
        ((∀ l, ¬ sel l) → ∃ w, exec i s = .next (setWarp s c.k c.i w) ∧
          (∃ y, RegResult c.w w 0xFFFFFFFF f.d (mmaCRegs f) y) ∧
          (∀ p q, p < G.rows → q < G.cols * G.groups →
            tileElem w f.d (mmaCRegs f) D.width (resultLane G p q) (q % G.cols) = code p q) ∧
          w = { c.w with
            pc := c.w.pc + 8, issued := c.w.issued + 1, regs := w.regs, lostRegs := w.lostRegs, mmas := c.w.mmas + 1
            kbc := if f.fmt ∈ [2, 3, 4, 5, 10] then
                (if f.kz then 0 else c.w.kbc) + BitVec.ofNat 7 (G.len * G.groups / (if f.blk16 then 16 else 32))
              else c.w.kbc }) ∧
        ((∃ l, sel l) → ∃ z, z.cause = 0x0A ∧ (∀ l, l < 32 → (inMask z.lanes l = true ↔ sel l)) ∧
          exec i s = .next (takeFault s c.k c.i z)))

/-- 10 R283, R279: `TRN` converts two blocks of FP32 results to one block of half-width elements, rounded once in its mode. -/
def Sys2Proof.Claims.TransposeResults : Prop :=
  ∀ (s : State) (c : Ctx) (f : RArith), Runs s (.trn f) c →
    let D := fmtOf bf16 f.ty
    let elem := fun o row col => BitVec.ofNat 64 (tileElem c.w o 8 32 (row + 16 * (col / 8)) (col % 8))
    let code := fun l e =>
      let v := if f.sub = 0 then elem (if l < 16 then f.a else f.b) (l % 16) e else elem (if l < 16 then f.a else f.b) e (l % 16)
      (rounded D f (valueIn fp32 f.ftz v)).toNat
    let sel := fun l => c.w.fpmode.getLsbD 2 = true ∧ ∃ e, e < 16 ∧ selected c.w D 1 (BitVec.ofNat 64 (code l e))
    ((∀ l, l < 32 → ¬ sel l) → ∃ w, exec (.trn f) s = .next (setWarp s c.k c.i w) ∧
      (∃ y, RegResult c.w w 0xFFFFFFFF f.d 8 y) ∧ (∀ l e, l < 32 → e < 16 → tileElem w f.d 8 16 l e = code l e) ∧
      w = { c.w with pc := c.w.pc + 8, issued := c.w.issued + 1, regs := w.regs, lostRegs := w.lostRegs }) ∧
    ((∃ l, l < 32 ∧ sel l) → ∃ z, z.cause = 0x0A ∧ (∀ l, l < 32 → (inMask z.lanes l = true ↔ sel l)) ∧
      exec (.trn f) s = .next (takeFault s c.k c.i z))

/-- 10 R280 to R282: `LDM` and `STM` move the rows of a tile, or its elements transposed, between memory and the strings of the lanes. -/
def Sys2Proof.Claims.TileMoveResults : Prop :=
  ∀ (s : State) (c : Ctx) (f : RLdm) (l : List (Acc × Place)) (s₁ : State),
    let W := 16 * 2 ^ f.wid.toNat
    let plan := allTileAccesses f c.w
    (Runs s (.ldm f) c → Accesses s c f.space (tileAlign f) needR (plan.map Prod.fst) l s₁ → lostAccs s₁ c f.scope.toNat l = [] →
      AccessFrame s s₁ ∧ ∃ (t : State) (x : Task) (w : Warp), exec (.ldm f) s = .next t ∧ MemStep s₁ t c f.space x w ∧
        StoresNothing s₁ t c f.space x w ∧ w.kregs = c.w.kregs ∧ w.preds = c.w.preds ∧ (∃ y, RegResult c.w w 0xFFFFFFFF f.d (W / 4) y) ∧
        ∀ (m : Nat) e a pos, l[m]? = some e → plan[m]? = some (a, pos) →
          srcNat w f.d a.lane 0 (W / 4) / 256 ^ pos % 256 ^ a.n = seen s₁ c f.scope a.n a.lane e.2) ∧
    (Runs s (.stm f) c → Accesses s c f.space (tileAlign f) needW (plan.map Prod.fst) l s₁ →
      AccessFrame s s₁ ∧ ∃ (t : State) (x : Task) (w : Warp), exec (.stm f) s = .next t ∧ MemStep s₁ t c f.space x w ∧ w = stepped c ∧
        let data := fun m j => match plan[m]? with
          | some (a, pos) => operandByte c.w f.d a.lane (pos + j)
          | none => 0
        StoredLast l data dieAt (rdByte s₁.mem) (rdByte t.mem) ∧
        StoredLast l data sharedAt (fun a => Store.get 0 c.t.shared a) (fun a => Store.get 0 x.shared a))

/-- 10 R284, R286, R287, R292, 18 R450: the context, the issue of a row and of a run, and the queries of the engine. -/
def Obligations.BunchedRowIssue : Prop :=
  ∀ (s : State) (c : Ctx),
    (∀ f : RRaw, Runs s (.gaset f) c → (c.g = 0 → Leaves s (.gaset f) c (stepped c)) ∧
      (c.g ≠ 0 →
        let word := fun o => src32 c.w o (lane0 c.g)
        let x : GaeCtx := { a := word f.a, b := word f.b, cfg := word f.c }
        let aligned := (word f.a).toNat % 16 = 0 ∧ (word f.b).toNat % 16 = 0
        let fits := (word f.c).toNat < 2 ^ 28 ∧ (word f.a).toNat + (ncolOf x + 1) * (nactOf x + 1) * actBytes x ≤ c.kern.shmem ∧
          (word f.b).toNat + (cblenOf x + 1) * bookBytes x ≤ c.kern.constLen
        (aligned → fits → Leaves s (.gaset f) c { stepped c with gctx := some x }) ∧
        (aligned → ¬ fits → exec (.gaset f) s = .next (takeFault s c.k c.i
          { cause := 0x06, lanes := laneMask (lane0 c.g), detail := 11 })) ∧
        (¬ aligned → ∃ y, y.cause = 0x05 ∧ exec (.gaset f) s = .next (takeFault s c.k c.i y)))) ∧
    (∀ f : RRaw, Runs s (.garow f) c → (c.g = 0 → Leaves s (.garow f) c (stepped c)) ∧
      (c.g ≠ 0 → ∀ x l s₁ entry d, c.w.gctx = some x → f.d = .v d →
        checkAccess s c .die 16 0 needR ((lanesOf c.g).map (fun k => { lane := k, addr := addressOf c.w .die f.a 0 k, n := 4 })) = (.ok l, s₁) →
        freeGae s₁ c.core = some entry →
        entry < 32 ∧ AccessFrame s s₁ ∧ ∃ t, exec (.garow f) s = .next t ∧ GaeIssued s₁ t c entry
          { task := c.k, warp := c.i, pc := c.w.pc, ctx := x, book := gaeBook s₁ c x, shmem := c.kern.shmem,
            kind := .row d.toNat ((lanesOf c.g).map (fun k => (k, src64 c.w f.a k))), comp := .none, next := 0, progress := 0,
            st := .going, seq := s₁.seq }
          { c.w with blocked := .gae, blockedAt := s₁.seq + 1 } 2)) ∧
    (∀ f : RCopy, Runs s (.garun f) c → (c.g = 0 → Leaves s (.garun f) c (stepped c)) ∧
      (c.g ≠ 0 → ∀ x l s₁ entry,
        let accs := recordAccs (xspOf f) (xspAddress f c f.a (lane0 c.g)) 16 (lane0 c.g)
        let value := fun e : Acc × Place => seen s₁ c 0 e.1.n (lane0 c.g) e.2
        let ws := l.flatMap (fun e => (List.range (e.1.n / 8)).map (fun j => BitVec.ofNat 64 (value e / 2 ^ (64 * j))))
        c.w.gctx = some x → compForm f c (lane0 c.g) = none → freeGae s c.core = some entry →
        checkAccess s c (xspOf f) 16 2 needR accs = (.ok l, s₁) → lostAccs s₁ c 0 l = [] → runOk c.kern.shmem ws = true →
        entry < 32 ∧ AccessFrame s s₁ ∧ ∃ t book, exec (.garun f) s = .next t ∧ GaeIssued s₁ t c entry
          { task := c.k, warp := c.i, pc := c.w.pc, ctx := x, book := book, shmem := c.kern.shmem,
            kind := .run ((ws.getD 1 0).extractLsb' 0 32).toNat ((ws.getD 1 0).getLsbD 32) (ws.getD 2 0)
              ((ws.getD 3 0).extractLsb' 0 32).toNat,
            comp := futureOf f c, next := ws.getD 0 0, progress := 0, st := .going, seq := s₁.seq }
          (stepped c) 1)) ∧
    (∀ f : RArith, Runs s (.gaq f) c →
      let q := (getCore s c.core).gaeq
      Computes s (.gaq f) c f.d 1 (fun _ =>
        if f.sub = 0 then BitVec.ofNat 64 (32 - q.length)
        else if f.sub = 1 then BitVec.ofNat 64 (q.countP (fun e => decide (e.2.task = c.k)))
        else one ((c.w.gctx.map GaeCtx.cfg).getD 0)))

/-- 05 R145: the value of a bunched row, bunch after bunch. -/
def Sys2Proof.Claims.BunchedRowValue : Prop :=
  ∀ (act cb : Nat → Nat) (bs : List (Nat × List Nat)), RowResult act cb bs (rowValue act cb bs)

/-- 10 R286, R290: the row that completes a `GAROW` writes the results of all its lanes, each formed from its row's bunches, counts the rows,
and lets the warp go on; an earlier row is kept until then. -/
def Sys2Proof.Claims.GatherRowCompletes : Prop :=
  ∀ (s : State) (core q : Nat) (o : GaeOp) (c : Ctx) (d l : Nat) (lanes rest : List (Nat × DWord)) (a : DWord) (vs : List Nat) (s₁ : State),
    gaeNext s core = some (q, o) → o.kind = .row d lanes →
    let s₀ := setCore s core { getCore s core with gaeTurn := o.seq + 1 }
    warpCtx s₀ o.task o.warp = some c → lanes.drop o.progress = (l, a) :: rest → l < 32 → (∀ e ∈ lanes, e.1 < 32) →
    laneRow c o.ctx o.book l a s₀ = (.ok vs, s₁) →
    (rest ≠ [] → ∃ t w, exec (.gaeRow core) s = .next t ∧ warpIn t c = some w ∧
      w = { c.w with gaeOut := w.gaeOut } ∧ (∀ col, col < vs.length → Store.get 0 w.gaeOut (32 * col + l) = BitVec.ofNat 32 (vs.getD col 0)) ∧
      Store.find (getCore t core).gaeq q = some { o with progress := o.progress + 1 }) ∧
    (rest = [] → c.w.fpmode.getLsbD 2 = false → ∃ t w, exec (.gaeRow core) s = .next t ∧ warpIn t c = some w ∧
      Store.find (getCore t core).gaeq q = none ∧
      w = { c.w with pc := c.w.pc + 8, issued := c.w.issued + 1, regs := w.regs, lostRegs := w.lostRegs, gaeOut := [], blocked := .ready } ∧
      RegResult c.w w (rowMask lanes) (.v (BitVec.ofNat 8 d)) (nactOf o.ctx + 1) (fun k col =>
        if k = l then BitVec.ofNat 32 (vs.getD col 0) else Store.get 0 c.w.gaeOut (32 * col + k)))

/-! Traps, control registers, hints, queries, drains and jig images (11 R295 to R312, 18 R439, R443). -/

namespace Sys2Proof.Claims

/-- A fault of the current warp enters the task's handler at `x` (11 R297): the handler is enabled, the warp is in user mode, and the
entry of the cause is not zero. Reading the entry leaves `s₁`. -/
def Enters (s : State) (c : Ctx) (f : FaultInfo) (x : DWord) (s₁ : State) : Prop :=
  c.kern.trapvec.getLsbD 0 = true ∧ c.w.handler = false ∧ f.noHandler = false ∧ x ≠ 0 ∧
    readVector s c.core c.t c.kern f = (.entry x, s₁)

/-- The first spill address of the trap frame (11 R299). -/
def frameOf (c : Ctx) : Nat := spillSize c.kern - 2048

/-- The words that a trap frame holds, by offset, but for the predicates (11 R299). -/
def frameWords (w : Warp) (words : List DWord) (resume : DWord) : List (Nat × (Nat → Word)) :=
  (List.range 8).flatMap (fun j => [(8 * j, fun _ => lowWord (words.getD j 0)), (8 * j + 4, fun _ => highWord (words.getD j 0))]) ++
  [(0x40, fun _ => lowWord resume), (0x44, fun _ => highWord resume), (0x48, fun _ => w.active), (0x4C, fun _ => w.launch),
   (0x54, fun _ => w.fpmode), (0x58, fun _ => BitVec.ofNat 32 (w.kbc.toNat + w.stack.length * 2 ^ 8))] ++
  (List.range 8).map (fun j => (0x60 + 4 * j, getV w j)) ++ (List.range 4).map (fun j => (0x80 + 4 * j, fun _ => getK w (60 + j)))

/-- What the use of the trap frame changes of the package (03 R82, 11 R299): the spill cache of the warp's core, and what a dirty line
that leaves it needs to be written back. -/
structure FrameUsed (s u : State) (c : Ctx) : Prop where
  rest : u = { s with mem := u.mem, poison := u.poison, parts := u.parts, cores := u.cores }
  cores : ∀ n, getCore u n = if n = c.core then { getCore s n with spillc := (getCore u n).spillc } else getCore s n
  restored : ∀ n p, getPart u n = some p → ∃ q, getPart s n = some q ∧ p = { q with unrestored := p.unrestored, demand := p.demand }
  memory : ∀ a, ¬ BackingByte s c a → rdByte u.mem a = rdByte s.mem a
  poison : ∀ n, Store.get false u.poison n = true → Store.get false s.poison n = true ∨ ∃ a, BackingByte s c a ∧ a / 16 = n

/-- Whether a lane that executes an `ERET` reads a word of the frame that is marked lost (11 R299, 17 R433): those of the warp, which are the
words of the lowest such lane, or those of its own. -/
def frameLost (c : Ctx) (l : Nat) : Prop :=
  let lost := fun o k => Store.get false c.w.lostSpill (8 * (frameOf c + o) + k) = true
  (∃ o ∈ [0x40, 0x44, 0x48, 0x54, 0x80, 0x84, 0x88, 0x8C], lost o (lane0 c.g)) ∨ lost 0x50 l ∨ ∃ j, j < 8 ∧ lost (0x60 + 4 * j) l

/-- The warp `w` after trap entry (11 R298, R299): the frame holds the record, the resume PC and the saved values, every other word of the
spill space is as it was, and the launch mask runs in handler mode at `x`. The instruction counts as issued, once (11 R312). -/
structure TrapEntered (c : Ctx) (cause : Nat) (words : List DWord) (resume x : DWord) (w : Warp) : Prop where
  rest : w = { c.w with
    active := c.w.launch, pc := x, handler := true, trapCause := BitVec.ofNat 8 cause, blocked := .ready, acq := [], arrived := none
    rebuilt := none, raised := none, issued := if c.w.raised.isSome then c.w.issued else c.w.issued + 1
    spill := w.spill, lostSpill := w.lostSpill }
  words : ∀ e ∈ frameWords c.w words resume, ∀ l, l < 32 → getSpill w (frameOf c + e.1) l = e.2 l
  preds : ∀ p l, p < 7 → l < 32 → (getSpill w (frameOf c + 0x50) l).getLsbD p = inMask (predMask c.w p) l
  marks : ∀ j l, j < 8 → l < 32 → Store.get false w.lostSpill (8 * (frameOf c + 0x60 + 4 * j) + l) = Store.get false c.w.lostRegs (32 * j + l)
  others : ∀ a l, l < 32 → a % 4 = 0 → (a < frameOf c ∨ frameOf c + 0x90 ≤ a) → getSpill w a l = getSpill c.w a l

/-- The record of a fault of a warp that runs its instructions on the front end outside an adoption (17 R423). -/
structure RecordOfWarp (s : State) (c : Ctx) (f : FaultInfo) (r : Rec) : Prop where
  cause : r.cause = f.cause ∧ r.detail = f.detail ∧ r.lanes = f.lanes ∧ r.addr = f.addr ∧ r.info = f.info ∧ r.unit = f.unit
  place : r.pc = c.w.pc ∧ r.prec = true ∧ r.last = false ∧ r.core = c.core ∧ r.warp = c.i
  task : r.vd = c.t.vd ∧ r.task = c.t.handle ∧ r.gen = (getVd s c.t.vd).gen
  plain : helpersOf s c.k = [] → r.adpt = false ∧ r.owner = 0 ∧ r.helper = 0 ∧ r.depth = 0
  outside : c.w.rebuilt = none → r.lat = false ∧ r.islot = 0 ∧ r.bound = 0

/-- The fields of a record in its eight words (17 R423). -/
def RecordFields (r : Rec) (ws : List DWord) : Prop :=
  let field := fun j hi lo => ((ws.getD j 0).toNat / 2 ^ lo) % 2 ^ (hi + 1 - lo)
  ws.length = 8 ∧ field 0 63 32 = r.lanes.toNat ∧ field 0 31 16 = r.detail % 2 ^ 16 ∧ field 0 15 15 = r.adpt.toNat ∧
    field 0 14 14 = r.lat.toNat ∧ field 0 13 13 = r.prec.toNat ∧ field 0 12 12 = r.last.toNat ∧ field 0 11 8 = r.unit % 16 ∧
    field 0 7 0 = r.cause % 256 ∧ ws.getD 1 0 = r.pc ∧ ws.getD 2 0 = r.addr ∧
    field 3 63 50 = 0 ∧ field 3 49 48 = r.islot % 4 ∧ field 3 47 0 = r.bound % 2 ^ 48 ∧
    field 4 63 58 = 0 ∧ field 4 57 48 = r.vd % 2 ^ 10 ∧ field 4 47 0 = r.task.toNat % 2 ^ 48 ∧
    field 5 63 48 = r.gen.toNat ∧ field 5 47 0 = r.owner.toNat % 2 ^ 48 ∧
    field 6 63 56 = r.core % 256 ∧ field 6 55 51 = r.warp % 32 ∧ field 6 50 48 = r.depth % 8 ∧ field 6 47 0 = r.helper.toNat % 2 ^ 48 ∧
    ws.getD 7 0 = r.info

/-- The fault that `TRAP` and `BKPT` raise (11 R300). -/
def softTrap (c : Ctx) (f : IForm) : FaultInfo := { cause := 0x21, lanes := c.g, addr := f.imm.zeroExtend 64 }
def breakpoint (c : Ctx) : FaultInfo := { cause := 0x20, lanes := c.g }

/-- The readable control registers: SEL, registers, value (11 R303). -/
def controlReads (s : State) (c : Ctx) : List (Nat × Nat × DWord) :=
  [(0x000, 1, BitVec.ofNat 64 (c.w.trapCause.toNat * 2 ^ 8 + 1)), (0x001, 1, BitVec.ofNat 64 (frameOf c)),
   (0x002, 2, BitVec.ofNat 64 (c.kern.trapvec.toNat / 2 ^ 8 % 2 ^ 48 * 2 ^ 8)), (0x008, 1, c.t.capthr.zeroExtend 64),
   (0x010, 2, (getCore s c.core).badcell), (0x020, 2, (getVd s c.t.vd).s1root), (0x022, 2, (getVd s c.t.vd).invva)]

/-- The state after a write of a control register (11 R303, R304). -/
def controlWritten (s : State) (c : Ctx) (sel : Nat) (x : DWord) : State :=
  let v := getVd s c.t.vd
  if sel = 0x008 then setTask s c.k { c.t with capthr := x.truncate 32 }
  else if sel = 0x022 then setVd s c.t.vd { v with invva := x }
  else setVd s c.t.vd { v with
    invsize := x.toNat % 4
    invq := v.invq ++ if x.getLsbD 3 then [{ stage2 := false, va := v.invva, size := x.toNat % 4, root := v.s1root }] else [] }

/-- The hints of a task after a `CAPT` (11 R305): at most 8, one for each loop, the oldest replaced. -/
def hintsAfter (hs : List Hint) (branch : DWord) (action : Nat) : List Hint :=
  let h : Hint := { branch := branch, force := decide (action = 1) }
  if action = 2 then hs.filter (fun x => x.branch ≠ branch)
  else if ∃ x ∈ hs, x.branch = branch then hs.map (fun x => if x.branch = branch then h else x)
  else if hs.length < 8 then hs ++ [h] else hs.tail ++ [h]

/-- The counters of a warp and its task (11 R312). -/
def counters (c : Ctx) : List (Nat × DWord) :=
  [(0, c.w.issued + 1), (1, c.w.iters), (2, c.w.mmas), (3, c.t.adoptions), (4, c.t.waitClocks), (5, c.t.gaeRows)]

/-- The bytes of an image that a `JIGLD` reads at an address of its lowest lane, 64 bytes at a time, with the checks of 12 R352 passed. -/
def ReadsImage (s : State) (c : Ctx) (base : DWord) (bytes : List Byte) (s' : State) : Prop :=
  let pieces := jigPieces (lane0 c.g) base.toNat
  ∃ ps s₁ h s₂ qs s₃ r, checkAccess s c .die 64 2 needR (pieces 0 2) = (.ok ps, s₁) ∧ lostAccs s₁ c 0 ps = [] ∧
    readPieces s₁ c ps = (h, s₂) ∧ headBad c.kern.encv (jigHdr h) = none ∧
    checkAccess s₂ c .die 64 2 needR (pieces 2 ((jigHdr h).len / 64 - 2)) = (.ok qs, s₃) ∧ lostAccs s₃ c 0 qs = [] ∧
    readPieces s₃ c qs = (r, s') ∧ bytes = h ++ r ∧ imageBad c.kern.encv bytes = none

/-- The SLOT and CODE of a load of an image at an origin, or, where the placer or the search gives none, of its failure `code` (11 R307). -/
inductive LoadStatus (core : Core) (im : Image) (origin : Option Nat) (code : Nat) : Nat → Nat → Prop where
  | off : latticeOff core = true → LoadStatus core im origin code 0 3
  | resident (n : Nat) (x : Image) : latticeOff core = false → (n, x) ∈ core.slots → x.checksum = im.checksum → x.vd = im.vd →
      x.withdrawn = false → LoadStatus core im origin code n 1
  | full : latticeOff core = false → (∀ n, n < 4 → Store.find core.slots n ≠ none) →
      (∀ e ∈ core.slots, e.2.checksum = im.checksum → e.2.vd = im.vd → e.2.withdrawn = true) → LoadStatus core im origin code 0 2
  | loaded (n o : Nat) : latticeOff core = false → n < 4 → Store.find core.slots n = none → origin = some o → fitsAt core im o = true →
      (∀ e ∈ core.slots, e.2.checksum = im.checksum → e.2.vd = im.vd → e.2.withdrawn = true) → LoadStatus core im origin code n 0
  | refused (n : Nat) : latticeOff core = false → n < 4 → Store.find core.slots n = none →
      (∀ o, origin = some o → fitsAt core im o = false) →
      (∀ e ∈ core.slots, e.2.checksum = im.checksum → e.2.vd = im.vd → e.2.withdrawn = true) → LoadStatus core im origin code 0 code

/-- The DRAIN instructions. -/
def drains (f : RArith) : List (Instr × Bool) := [(.drain f, false), (.drainFree f, true)]

end Sys2Proof.Claims

/-- 11 R297 to R300: `TRAP` and `BKPT` with an enabled handler take the trap: the frame is written, and all lanes of the warp go to the
vector entry in handler mode. `BKPT` resumes at itself, `TRAP` after itself. With no lane they do nothing. -/
def Sys2Proof.Claims.TrapAndBreakpoint : Prop :=
  ∀ (s : State) (c : Ctx) (x : DWord) (s₁ : State),
    (∀ f, Runs s (.trap f) c →
      (c.g = 0 → Leaves s (.trap f) c { c.w with pc := c.w.pc + 8, issued := c.w.issued + 1 }) ∧
      (c.g ≠ 0 → Enters s c (softTrap c f) x s₁ → ∃ u w r, FrameUsed s₁ u c ∧ exec (.trap f) s = .next (setWarp u c.k c.i w) ∧
        RecordOfWarp s c (softTrap c f) r ∧ TrapEntered c 0x21 (recWords r) (c.w.pc + 8) x w)) ∧
    (∀ f, Runs s (.bkpt f) c →
      (c.g = 0 → Leaves s (.bkpt f) c { c.w with pc := c.w.pc + 8, issued := c.w.issued + 1 }) ∧
      (c.g ≠ 0 → Enters s c (breakpoint c) x s₁ → ∃ u w r, FrameUsed s₁ u c ∧ exec (.bkpt f) s = .next (setWarp u c.k c.i w) ∧
        RecordOfWarp s c (breakpoint c) r ∧ TrapEntered c 0x20 (recWords r) c.w.pc x w))

/-- 11 R297, R298, 17 R423, R426: any fault of the current warp, delivered: to the handler with its record in the frame, or, where the
handler is off, has no entry, or runs already, to the VD's event queue, and the job is killed with the cause. While the read of the entry
waits for a page the warp keeps its fault. (A DATA_ERROR that names no syndrome takes a free value first: `syndrome`.) -/
def Sys2Proof.Claims.FaultDelivery : Prop :=
  ∀ (σ s : State) (i : Instr) (c : Ctx) (f₀ f : FaultInfo) (x : DWord) (s₁ : State), curCtx σ i = some c → syndrome σ f₀ = (f, s) →
    let delivered := takeFault σ c.k c.i f₀
    (∀ r, RecordFields r (recWords r)) ∧
    ((f₀.cause ≠ 0x12 ∨ f₀.info ≠ 0) → f = f₀ ∧ s = σ) ∧
    (Enters s c f x s₁ → ∃ u w r, FrameUsed s₁ u c ∧ delivered = setWarp u c.k c.i w ∧ RecordOfWarp s c f r ∧
      TrapEntered c f.cause (recWords r) (if f.cause = 0x21 then c.w.pc + 8 else c.w.pc) x w) ∧
    ((c.kern.trapvec.getLsbD 0 = false ∨ c.w.handler = true ∨ f.noHandler = true) → ∃ r, RecordOfWarp s c f r ∧
      delivered = killJob (postVd s c.t.vd false r) c.t.vd (handleJob c.t.handle) f.cause) ∧
    (c.kern.trapvec.getLsbD 0 = true → c.w.handler = false → f.noHandler = false →
      (readVector s c.core c.t c.kern f = (.entry 0, s₁) → ∃ r, RecordOfWarp s c f r ∧
        delivered = killJob (postVd s₁ c.t.vd false r) c.t.vd (handleJob c.t.handle) f.cause) ∧
      (∀ tags, readVector s c.core c.t c.kern f = (.held tags, s₁) →
        delivered = setWarp { s₁ with seq := s₁.seq + 1 } c.k c.i { c.w with
          blocked := .page tags { f with noHandler := true }, blockedAt := s₁.seq, raised := some f
          issued := if c.w.raised.isSome then c.w.issued else c.w.issued + 1 }))

/-- 11 R301, 17 R433: `ERET` reloads what the frame saves, leaves handler mode, and goes on at the resume PC; where no lane is left active,
the divergence stack is unwound as `EXIT` unwinds it. What is saved once for the warp comes from the words of the lowest lane that executes
it (log 69). A lost word of the frame is DATA_ERROR in the lanes that read it. -/
def Sys2Proof.Claims.ReturnFromTrap : Prop :=
  ∀ (s : State) (c : Ctx) (f : RRaw), Runs s (.eret f) c →
    (c.g = 0 → Leaves s (.eret f) c { c.w with pc := c.w.pc + 8, issued := c.w.issued + 1 }) ∧
    (c.g ≠ 0 → (∃ l, l < 32 ∧ inMask c.g l = true ∧ frameLost c l) → ∃ u x, FrameUsed s u c ∧ x.cause = 0x12 ∧
      (∀ l, l < 32 → (inMask x.lanes l = true ↔ inMask c.g l = true ∧ frameLost c l)) ∧ exec (.eret f) s = .next (takeFault u c.k c.i x)) ∧
    (c.g ≠ 0 → (∀ l, l < 32 → inMask c.g l = true → ¬ frameLost c l) → ∃ (u : State) (w₀ w : Warp), FrameUsed s u c ∧
      exec (.eret f) s = .next (setWarp u c.k c.i { w with issued := c.w.issued + 1 }) ∧
      let word := fun o l => getSpill c.w (frameOf c + o) l
      let a := lane0 c.g
      w₀ = { c.w with
        pc := pairOf (word 0x40 a) (word 0x44 a), active := word 0x48 a &&& c.w.launch, fpmode := word 0x54 a, handler := false
        trapCause := 0, regs := w₀.regs, kregs := w₀.kregs, preds := w₀.preds, lostRegs := w₀.lostRegs } ∧
      (∀ r l, l < 32 → getV w₀ r l = if r < 8 then word (0x60 + 4 * r) l else getV c.w r l) ∧
      (∀ m, getK w₀ m = if 60 ≤ m ∧ m < 64 then word (0x80 + 4 * (m - 60)) a else getK c.w m) ∧
      (∀ p l, p < 7 → l < 32 → inMask (predMask w₀ p) l = (word 0x50 l).getLsbD p) ∧
      (if w₀.active ≠ 0 then w = w₀ else Relation.ReflTransGen UnwindTurn w₀ w ∧ (w.active ≠ 0 ∨ w.stack = [])))

/-- 11 R303, R304: `SRW` reads each control register as a word or a pair, and writes the writable ones before the next instruction; a
START queues one invalidation of the VD. -/
def Sys2Proof.Claims.ControlRegisters : Prop :=
  ∀ (s : State) (c : Ctx) (f : RRaw),
    let sel := f.opm.toNat % 2 ^ 11
    (∀ n v, (sel, n, v) ∈ controlReads s c → Runs s (.srwRead f) c → Computes s (.srwRead f) c f.d n (fun _ => v)) ∧
    (sel = 0x023 → Runs s (.srwRead f) c → ∃ v : DWord, Computes s (.srwRead f) c f.d 1 (fun _ => v) ∧
      v.toNat = ((if ∃ q ∈ (getVd s c.t.vd).invq, q.stage2 = false then 2 ^ 31 else 0) + (getVd s c.t.vd).invsize) % 2 ^ 32) ∧
    (Runs s (.srwWrite f) c →
      (c.g = 0 → Leaves s (.srwWrite f) c { c.w with pc := c.w.pc + 8, issued := c.w.issued + 1 }) ∧
      (c.g ≠ 0 → sel ∈ [0x008, 0x022, 0x023] ∧
        exec (.srwWrite f) s = .next (setWarp
          (controlWritten s c sel (if sel = 0x022 then src64 c.w f.a (lane0 c.g) else (src32 c.w f.a (lane0 c.g)).zeroExtend 64))
          c.k c.i { c.w with pc := c.w.pc + 8, issued := c.w.issued + 1 })))

/-- 18 R439, R443: an unassigned word is ILLEGAL_ENCODING, and `ERET` and `SRW` outside handler mode, or a write that the table of 11 R303
does not allow, are PRIVILEGED; nothing else happens. -/
def Obligations.IllegalWords : Prop :=
  ∀ (s : State) (i : Instr) (c : Ctx), curCtx s i = some c →
    (∀ reason field, i = .unassignedWordFetch reason field → reason < 256 → field < 256 →
      exec i s = .next (takeFault s c.k c.i
        { cause := 0x01, lanes := c.w.active, detail := field * 2 ^ 8 + reason, addr := c.w.pc })) ∧
    (violations c.kern.encv i = [] →
      (∀ f, i = .eret f → c.w.handler = false → exec i s = .next (takeFault s c.k c.i
        { cause := 0x03, lanes := c.w.active, detail := 0x8000 })) ∧
      (∀ f, i = .srwRead f → c.w.handler = false → exec i s = .next (takeFault s c.k c.i
        { cause := 0x03, lanes := c.w.active, detail := f.opm.toNat % 2 ^ 12 })) ∧
      (∀ f, i = .srwWrite f →
        (c.w.handler = false ∨ f.opm.toNat % 2 ^ 11 ∉ [0x008, 0x022, 0x023] ∨
          (f.opm.toNat % 2 ^ 11 = 0x023 ∧ c.g ≠ 0 ∧ (src32 c.w f.a (lane0 c.g)).getLsbD 2 = true)) →
        exec i s = .next (takeFault s c.k c.i { cause := 0x03, lanes := c.w.active, detail := f.opm.toNat % 2 ^ 12 })))

/-- 11 R305, R310: `CAPT` sets, replaces or removes the hint of one loop; `LIVE` sets the task's live-tag limit and gives the old one, and a
limit above 16 is OUT_OF_RANGE. -/
def Sys2Proof.Claims.HintsAndLiveTags : Prop :=
  ∀ (s : State) (c : Ctx),
    (∀ f, Runs s (.capt f) c →
      let next := { c.w with pc := c.w.pc + 8, issued := c.w.issued + 1 }
      exec (.capt f) s = .next (setWarp (if c.g = 0 then s else setTask s c.k { c.t with
        hints := hintsAfter c.t.hints (c.w.pc + BitVec.ofNat 64 (8 * (f.imm.toNat / 2 ^ 16))) (f.imm.toNat % 4) }) c.k c.i next)) ∧
    (∀ f, Runs s (.live f) c → c.g = 0 → Leaves s (.live f) c { c.w with pc := c.w.pc + 8, issued := c.w.issued + 1 }) ∧
    (∀ f, Runs s (.live f) c → c.g ≠ 0 →
      let n := (src32 c.w f.a (lane0 c.g)).toNat % 32
      let restored := if c.kern.ltl = 0 then 8 else c.kern.ltl
      (n ≤ 16 → ∃ w, exec (.live f) s = .next (setWarp (setTask s c.k { c.t with ltlimit := if n = 0 then restored else n }) c.k c.i w) ∧
        RegResult c.w w c.g f.d 1 (fun _ _ => BitVec.ofNat 32 c.t.ltlimit) ∧
        PredResult c.w w c.g f.d (fun _ _ => BitVec.ofNat 32 c.t.ltlimit) ∧ OnlyRegs c.w w) ∧
      (16 < n → exec (.live f) s = .next (takeFault s c.k c.i { cause := 0x06, lanes := laneMask (lane0 c.g), detail := 12 })))

/-- 11 R311, R312: `CAPQ` gives the capability word, the core's status, its bad cells, or the partition's bays; `PMCR` gives a counter, and
`.clr` sets it to zero (the instruction itself counts as issued in what it reads: the model's reading, log 58). -/
def Sys2Proof.Claims.Queries : Prop :=
  ∀ (s : State) (c : Ctx) (f : RRaw),
    let sel := f.opm.toNat % 2 ^ 11
    (∀ v : DWord, Runs s (.capq f) c →
      (sel = 0 ∧ v = capWord s (partOf c.t.vd) ∨
       sel = 1 ∧ (∀ b, b < 64 → v.getLsbD b = true → b < 26) ∧
         (∀ b, b < 4 → (v.getLsbD b = true ↔ Store.find (getCore s c.core).slots b ≠ none)) ∧ v.toNat / 2 ^ 4 % 2 ^ 4 = 0 ∧
         v.toNat / 2 ^ 8 % 2 ^ 8 = popCount (getCore s c.core).badcell ∧
         v.toNat / 2 ^ 16 = ((List.range 512).filter (fun n => (∀ e ∈ (getCore s c.core).slots, n ∉ e.2.nodes.map Prod.fst) ∧
           (getCore s c.core).badcell.getLsbD (n / 8) = false)).length ∨
       sel = 2 ∧ v = (getCore s c.core).badcell ∨
       sel = 3 ∧ ∃ p, getPart s (partOf c.t.vd) = some p ∧ v = p.bays) → Computes s (.capq f) c f.d 2 (fun _ => v)) ∧
    (∀ v, (sel, v) ∈ counters c →
      (Runs s (.pmcr f) c → Computes s (.pmcr f) c f.d 2 (fun _ => v)) ∧
      (Runs s (.pmcrClr f) c → ∃ w, let m := if c.g = 0 then 8 else sel
        exec (.pmcrClr f) s = .next (setWarp (if c.g = 0 then s else setTask s c.k { c.t with
          adoptions := if m = 3 then 0 else c.t.adoptions, waitClocks := if m = 4 then 0 else c.t.waitClocks
          gaeRows := if m = 5 then 0 else c.t.gaeRows }) c.k c.i w) ∧
        RegResult c.w w c.g f.d 2 (wordsOf (fun _ => v)) ∧ PredResult c.w w c.g f.d (wordsOf (fun _ => v)) ∧
        w = { c.w with
          pc := c.w.pc + 8, issued := if m = 0 then 0 else c.w.issued + 1, iters := if m = 1 then 0 else c.w.iters
          mmas := if m = 2 then 0 else c.w.mmas, regs := w.regs, preds := w.preds, lostRegs := w.lostRegs }))

/-- 11 R309: `DRAIN` completes at once where no warp of its task runs in the slot, and `DRAIN.free` where none of the core does; the slot is
then free. -/
def Sys2Proof.Claims.DrainResults : Prop :=
  ∀ (s : State) (c : Ctx) (f : RArith) (i : Instr) (free : Bool), (i, free) ∈ drains f → Runs s i c →
    let slot := (src32 c.w f.a (lane0 c.g)).toNat % 4
    (c.g = 0 → Leaves s i c { c.w with pc := c.w.pc + 8, issued := c.w.issued + 1 }) ∧
    (c.g ≠ 0 → (∀ e ∈ s.tasks, e.2.core = some c.core → (free = true ∨ e.1 = c.k) → ∀ n w r, getWarp e.2 n = some w →
        w.lat = some r → r.slot ≠ slot) →
      ∃ t w, exec i s = .next t ∧ warpIn t c = some w ∧ t.mem = s.mem ∧
        w = { c.w with pc := c.w.pc + 8, issued := c.w.issued + 1, blockedAt := w.blockedAt, blocked := .ready, drained := w.drained } ∧
        (free = true → Store.find (getCore t c.core).slots slot = none))

/-- 11 R307, R308: `JIGLD` reads the image at issue, asks for its placement and blocks; its completion gives SLOT and CODE and lets the warp
go on. `JIGST` of an empty slot writes 0, and of an image stores its bytes and gives their number. -/
def Obligations.JigImages : Prop :=
  (∀ (s : State) (c : Ctx) (f : RRaw) (bytes : List Byte) (s' : State), Runs s (.jigld f) c → c.g ≠ 0 →
    let b := src32 c.w f.b (lane0 c.g)
    let im := parseImage c.t.vd bytes
    b &&& 0xFFFFFEC0 = 0 → ReadsImage s c (src64 c.w f.a (lane0 c.g)) bytes s' → (usesGae im = true → s'.fit.gae = true) →
    ∃ t, exec (.jigld f) s = .next t ∧ t.mem = s'.mem ∧ warpIn t c = some { c.w with blocked := .jig, blockedAt := s'.seq } ∧
      (getCore t c.core).places = (getCore s' c.core).places ++
        [.jig c.k c.i im (if b.getLsbD 8 then none else some (b.toNat % 64)) f.d c.g]) ∧
  (∀ (s : State) (x : WarpAt) (k i o : Nat) (im : Image) (dst : Opnd) (lanes : Word) (w₀ : Warp) (y : Task),
    warpAtSlot s x.core x.wslot = some (k, i) → getTask s k = some y → getWarp y i = some w₀ →
    jigReq (getCore s x.core) k i = some (.jig k i im (some o) dst lanes) →
    ∃ t slot code z w, LoadStatus (getCore s x.core) im (some o) 3 slot code ∧ exec (.jigldComplete x) s = .next t ∧
      getTask t k = some z ∧ getWarp z i = some w ∧ t.mem = s.mem ∧
      RegResult w₀ w lanes dst 1 (fun _ _ => BitVec.ofNat 32 (slot + code * 2 ^ 4)) ∧
      w = { w₀ with
        pc := w₀.pc + 8, issued := w₀.issued + 1, blocked := .ready, reenter := w.reenter, regs := w.regs, preds := w.preds, lostRegs := w.lostRegs } ∧
      (im.drain = [] → w.reenter = w₀.reenter) ∧
      (code = 0 → Store.find (getCore t x.core).slots slot = some { moveImage im o with drain := [] }) ∧
      (code ≠ 0 → (getCore t x.core).slots = (getCore s x.core).slots)) ∧
  (∀ (s : State) (c : Ctx) (f : RRaw), Runs s (.jigst f) c → c.g ≠ 0 →
    let b := src32 c.w f.b (lane0 c.g)
    let base := (src64 c.w f.a (lane0 c.g)).toNat
    (imageAt s c.core (b.toNat % 4) = none → base % 64 = 0 → base < 2 ^ 56 → Computes s (.jigst f) c f.d 1 (fun _ => 0)) ∧
    (∀ im l s₁, imageAt s c.core (b.toNat % 4) = some im → base % 64 = 0 → base < 2 ^ 56 →
      let bytes := imageBytes im c.t.handle (if b.getLsbD 8 then drainRecs c.t (b.toNat % 4) else [])
      checkAccess s c .die 16 2 needW ((List.range (bytes.length / 16)).map (fun n =>
        { lane := lane0 c.g, addr := ((base + 16 * n : Nat) : Int), n := 16 })) = (.ok l, s₁) →
      AccessFrame s s₁ ∧ ∃ t x w, exec (.jigst f) s = .next t ∧ MemStep s₁ t c .die x w ∧ x.shared = c.t.shared ∧ w.kregs = c.w.kregs ∧
        w.spill = c.w.spill ∧
        RegResult c.w w c.g f.d 1 (fun _ _ => BitVec.ofNat 32 bytes.length) ∧
        (∀ a, (∀ e ∈ l, ∀ pa, e.2 = .die pa → a < pa ∨ pa + 16 ≤ a) → rdByte t.mem a = rdByte s₁.mem a) ∧
        (∀ n e pa j, l[n]? = some e → e.2 = .die pa → j < 16 →
          (∀ m e' pa', n < m → l[m]? = some e' → e'.2 = .die pa' → pa' + 16 ≤ pa ∨ pa + 16 ≤ pa') →
          rdByte t.mem (pa + j) = bytes.getD (16 * n + j) 0)))

/-! The lattice: firing, tokens, admission, the order queue, drains (06 R161 to R163, 07 R208, 09 R267, 11 R313 to R320, 12 R325 to R343). -/

namespace Sys2Proof.Claims

/-- The step's context fires: its cell picks the firing `f`, which runs the word `t` (12 R331). -/
def Fires (s : State) (t : TForm) (f : Firing) : Prop :=
  f.t = t ∧ s.latCur = some { core := f.core, node := f.node } ∧ cellPick s f.core (f.node / 8) = some f

/-- What follows a firing's own action: drain markers that its context held back pass, closed instances forward what they gathered, and a
warp with nothing left leaves the lattice (12 R335, R338, R339). -/
def settled (f : Firing) (t : State) : State := settleLat (forwardMark t f.core f.ws f.node false) f.core f.ws

/-- The firing has taken its tokens from the matching store. -/
def Consumed (s t : State) (f : Firing) : Prop :=
  t = { s with cores := t.cores, tasks := t.tasks } ∧
  (∀ n, getCore t n = if n = f.core then { getCore s n with
      store := (getCore s n).store.filter (fun e => ∀ x ∈ f.toks, x.arr ≠ e.2.arr) } else getCore s n) ∧
  (∀ k i, (k, i) ≠ (f.k, f.i) → (getTask t k).bind (fun x => getWarp x i) = (getTask s k).bind (fun x => getWarp x i)) ∧
  ∀ w, (getTask s f.k).bind (fun x => getWarp x f.i) = some w →
    (getTask t f.k).bind (fun x => getWarp x f.i) = some { w with lat := w.lat.map (fun r => { r with watchdog := 0 }) }

/-- A token to send: where to, its tag and level, whether it is of 64 bits, its mask, and the value of each lane. -/
structure Msg where
  dest : Dest
  tag : Tag
  level : Nat
  wide : Bool
  mask : Word
  val : Nat → DWord

/-- The only change is that the tokens `l` are in flight on a core, in this order. -/
def Sends (s t : State) (core : Nat) (l : List Msg) : Prop :=
  ∃ new : List (Nat × Token), t = { s with seq := s.seq + new.length, cores := t.cores } ∧
    (∀ n, getCore t n = if n = core then { getCore s n with flight := (getCore s n).flight ++ new } else getCore s n) ∧
    List.Forall₂ (fun (m : Msg) e => e.2.dest = m.dest ∧ e.2.tag = m.tag ∧ e.2.level = m.level ∧ e.2.w64 = m.wide ∧ e.2.mask = m.mask ∧
      e.2.mark = false ∧ ∀ k, k < 32 → inMask m.mask k = true → e.2.data.getD k 0 = m.val k) l new

/-- The result tag and level of TOP (06 R163). -/
def topTag (top : BitVec 3) (t : Tag) (level : Nat) : Tag × Nat :=
  let popped : Tag := { t with i := t.m, m := t.o, o := 0 }
  match top.toNat with
  | 0 => (t, level)
  | 1 => ({ t with i := t.i + 1 }, level)
  | 2 => ({ t with o := t.m, m := t.i, i := 0 }, level + 1)
  | 3 => (popped, level - 1)
  | 4 => ({ popped with i := t.m + 1 }, level - 1)
  | 5 => ({ t with m := t.m + 1, i := 0 }, level)
  | 6 => ({ t with o := t.o + 1, m := 0, i := 0 }, level)
  | _ => ({ t with i := 0 }, level)

/-- Where a target sends (06 R162). -/
def placeOfTarget (x : Target) (sender : Nat) : List Dest :=
  if x.slot.toNat < 3 then [.slot (8 * x.cell.toNat + x.ctx.toNat) x.slot.toNat]
  else if x.cell.toNat < 8 then [.south x.cell.toNat sender] else []

/-- The messages of a firing to one target, and to both. -/
def toTarget (f : Firing) (x : Target) (wide : Bool) (mask : Word) (val : Nat → DWord) : List Msg :=
  (placeOfTarget x f.node).map (fun d =>
    { dest := d, tag := (topTag f.t.top f.tag f.level).1, level := (topTag f.t.top f.tag f.level).2, wide := wide, mask := mask, val := val })
def toBoth (f : Firing) (wide : Bool) (mask : Word) (val : Nat → DWord) : List Msg :=
  toTarget f f.t.t1 wide mask val ++ toTarget f f.t.t2 wide mask val

/-- The value of a token's lane, and the lanes whose value is not zero. -/
def laneVal (x : Token) (k : Nat) : DWord := x.data.getD k 0
def nonzeroOf (x : Token) : Word := maskOf (fun k => inMask x.mask k && decide (laneVal x k ≠ 0))

/-- The slot in which a token waits. -/
def slotIs (x : Token) (n : Nat) : Prop := ∃ node, x.dest = .slot node n

/-- The run of a firing's warp changes, and nothing else. -/
def RunChange (s t : State) (f : Firing) (g : LatRun → LatRun → Prop) : Prop :=
  t = { s with tasks := t.tasks } ∧
  (∀ k i, (k, i) ≠ (f.k, f.i) → (getTask t k).bind (fun x => getWarp x i) = (getTask s k).bind (fun x => getWarp x i)) ∧
  ∀ w r, (getTask s f.k).bind (fun x => getWarp x f.i) = some w → w.lat = some r →
    ∃ r', (getTask t f.k).bind (fun x => getWarp x f.i) = some { w with lat := some r' } ∧ g r r'

/-- The firing's task belongs to a job of the table. -/
def Hosted (s : State) (f : Firing) : Prop :=
  ∃ x j, getTask s f.k = some x ∧ getJob s x.vd (handleJob x.handle) = some j ∧ j.vd = x.vd ∧ j.num = handleJob x.handle

/-- The operand slots for which a context waits: a, b and c by ARITY, where an immediate takes b's place (06 R161, 11 R313, R315). -/
def operandSlots (t : TForm) : List Nat :=
  if t.op = 0x3C1 then (if tSub t = 1 then [] else [0, 1]) else (if t.immv then [0, 2] else [0, 1, 2]).take t.arity.toNat

/-- Whether no drain of the firing's warp is in progress. -/
def noDrain (f : Firing) : Prop := f.run.drain = none

/-- The value that a 32-bit arithmetic context gives for the values of slots a, b and c: some instructions of groups 0x0 to 0x2 with no
modifier (07 R183, R187, R189, R192, R193). -/
def plainResult (op : Nat) (a b c : DWord) : Option Word :=
  let x : Word := a.truncate 32
  let y : Word := b.truncate 32
  let z : Word := c.truncate 32
  if op = 0x000 then some (x + y) else if op = 0x001 then some (x - y) else if op = 0x004 then some (x * y)
  else if op = 0x006 then some (x * y + z) else if op = 0x040 then some (x &&& y) else if op = 0x041 then some (x ||| y)
  else if op = 0x042 then some (x ^^^ y) else if op = 0x043 then some (~~~x) else none

end Sys2Proof.Claims

/-- 12 R331, 11 R313: a cell starts the ready context that stands first: the senior iteration's, then the one admitted longest ago, as the
core's stamps count modulo 2³², then the one whose last token arrived first. A firing takes the tokens of one tag from its context, and no step fires a context that its cell does
not pick. -/
def Sys2Proof.Claims.FiringOrder : Prop :=
  ∀ (s : State) (core cell : Nat) (f : Firing), cellPick s core cell = some f →
    let rank := fun g : Firing => (decide (∃ x ∈ g.toks, isSenior s core x = true),
      (match iterAt g.run g.level g.tag with
        | some it => ((getCore s core).admStamp - BitVec.ofNat 32 it.stamp).toNat
        | none => 0), (g.toks.map (fun x => x.arr)).foldl max 0)
    f.core = core ∧ f.node / 8 = cell ∧ f.toks ≠ [] ∧
    (∀ x ∈ f.toks, (∃ p, (p, x) ∈ (getCore s core).store) ∧ x.mark = false ∧ x.tag = f.tag ∧ x.level = f.level ∧ ∃ n, x.dest = .slot f.node n) ∧
    (f.t.op ≠ 0x300 → f.t.op ≠ 0x3C1 → f.t.op ≠ 0x3C7 → ∀ n ∈ (if f.t.immv then [0, 2] else [0, 1, 2]).take f.t.arity.toNat,
      ∃! x, x ∈ f.toks ∧ slotIs x n) ∧
    ((∀ e ∈ (getCore s core).store, e.2.arr < 2 ^ 64) →
      ∀ g n, n / 8 = cell → g ∈ firingsAt s core n →
        ((rank g).1 = true → (rank f).1 = true) ∧ ((rank g).1 = (rank f).1 → (rank g).2.1 ≤ (rank f).2.1 ∧
          ((rank f).2.1 = (rank g).2.1 → (rank f).2.2 ≤ (rank g).2.2))) ∧
    (∀ t cc, s.latCur = some cc → cc.core = core → cc.node / 8 = cell → (cc.node ≠ f.node ∨ t ≠ f.t) →
      ∀ i ∈ [Instr.steer t, .merge t, .wadv t, .fan t, .tagpsh t, .tagpop t, .bexit t, .inj t, .contextFiring t], exec i s = .next s)

/-- 11 R314 to R316, R320: `STEER` splits its data token by the predicate token, `MERGE` joins two arms or sends its one token alone,
`FAN` copies, and `INJ` sends a register or a pair of its warp whose values are not lost. Each sends to its targets with TOP's tag. -/
def Sys2Proof.Claims.SteerMergeFanInject : Prop :=
  ∀ (s : State) (t : TForm) (f : Firing), Fires s t f → ∃ s₁, Consumed s s₁ f ∧
    (∀ a b, f.toks = [a, b] → slotIs a 0 → slotIs b 1 → f.t.top = 0 → ∃ u, exec (.steer t) s = .next (settled f u) ∧
      Sends s₁ u f.core (toTarget f f.t.t1 a.w64 (a.mask &&& nonzeroOf b) (laneVal a) ++
        toTarget f f.t.t2 a.w64 (a.mask &&& ~~~nonzeroOf b) (laneVal a))) ∧
    (∀ a b, f.toks = [a, b] → slotIs a 0 → slotIs b 1 → ∃ u, exec (.merge t) s = .next (settled f u) ∧
      Sends s₁ u f.core (toBoth f (a.w64 || b.w64) (a.mask ||| b.mask) (fun k => if inMask a.mask k then laneVal a k else laneVal b k))) ∧
    (∀ a, f.toks = [a] → ∃ u, exec (.merge t) s = .next (settled f u) ∧ Sends s₁ u f.core (toBoth f a.w64 a.mask (laneVal a))) ∧
    (∀ a, f.toks = [a] → ∃ u, exec (.fan t) s = .next (settled f u) ∧ Sends s₁ u f.core (toBoth f a.w64 a.mask (laneVal a))) ∧
    (∀ a w, f.toks = [a] → f.t.top = 0 → (getTask s f.k).bind (fun x => getWarp x f.i) = some w →
      let r := f.t.imm.toNat % 2 ^ 8
      (∀ k, k < 32 → inMask a.mask k = true → Store.get false w.lostRegs (32 * r + k) = false ∧
        (f.t.imm.getLsbD 8 = true → Store.get false w.lostRegs (32 * (r + 1) + k) = false)) → ∃ u,
      exec (.inj t) s = .next (settled f u) ∧
      Sends s₁ u f.core (toBoth f (f.t.imm.getLsbD 8) a.mask (fun k =>
        if f.t.imm.getLsbD 8 then pairOf (getV w r k) (getV w (r + 1) k) else (getV w r k).zeroExtend 64)))

/-- 11 R317 to R319, 12 R335, R337, R338: a `WADV` holds its result at its gate, closes its instance on an empty token, and under a drain
catches the boundary's token and those for its iteration; `TAGPSH` opens an instance and sends into it; `TAGPOP` gathers; `BEXIT` records its exit in its iteration. -/
def Sys2Proof.Claims.GatesNestingAndExits : Prop :=
  ∀ (s : State) (t : TForm) (f : Firing) (a : Token), Fires s t f → f.toks = [a] → ∃ s₁, Consumed s s₁ f ∧
    (∃ u, exec (.wadv t) s = .next (settled f u) ∧
      (f.t.top = 1 → a.mask = 0 → RunChange s₁ u f (fun r r' =>
        r' = { r with levels := r'.levels } ∧ ∀ li ∈ r'.levels, li.level = f.level →
          li.parent = parentOf f.level { f.tag with i := f.tag.i + 1 } → li.closed = true)) ∧
      (a.mask ≠ 0 → noDrain f → u = { s₁ with seq := s₁.seq + 1, cores := u.cores } ∧
        ∃ x : Token, x.dest = .slot f.node 0 ∧ (x.tag, x.level) = topTag f.t.top f.tag f.level ∧ x.mask = a.mask ∧ x.w64 = a.w64 ∧
          x.data = a.data ∧ x.mark = false ∧
          ∀ n, getCore u n = if n = f.core then { getCore s₁ n with gate := (getCore s₁ n).gate ++ [(s₁.seq, x)] } else getCore s₁ n) ∧
      (∀ why n lv, a.mask ≠ 0 → f.run.drain = some (why, n, lv) → 
        (let g := if f.t.top = 5 then 1 else if f.t.top = 6 then 2 else 0
         (n, lv) = topTag f.t.top f.tag f.level ∨
           (n, lv) = (tagOut g (topTag f.t.top f.tag f.level).1, (topTag f.t.top f.tag f.level).2 - g)) →
        RunChange s₁ u f (fun r r' => r' = { r with
          caught := r.caught ++ [(f.node, { node := f.node, port := 0, w64 := a.w64, mask := a.mask, data := a.data })] }))) ∧
    (∃ u, exec (.tagpsh t) s = .next (settled f u) ∧ (f.t.top = 2 → f.tag.o = 0 →
      (∀ r, getRun s₁ f.k f.i = some r → (iterAt r (f.level + 1) (topTag 2 f.tag f.level).1).isSome = true →
        (instOf r (f.level + 1) f.tag).isSome = true) → ∃ u₀, Sends u₀ u f.core (toBoth f a.w64 a.mask (laneVal a)) ∧
      u₀.mem = s₁.mem ∧ (noDrain f → ∃ w r, (getTask u₀ f.k).bind (fun x => getWarp x f.i) = some w ∧ w.lat = some r ∧
        (iterAt r (f.level + 1) (topTag 2 f.tag f.level).1).isSome = true ∧
        ∃ li, instOf r (f.level + 1) f.tag = some li ∧ f.node ∈ li.pushed))) ∧
    (noDrain f → ∃ u, exec (.tagpop t) s = .next (settled f u) ∧ RunChange s₁ u f (fun r r' =>
      r' = { r with gathered := r'.gathered } ∧
      let here := fun g : Nat × Nat × Tag × LiveOut => g.1 = f.node ∧ g.2.1 = f.level - 1 ∧ g.2.2.1 = (topTag 3 f.tag f.level).1
      (∀ g, ¬ here g → (g ∈ r'.gathered ↔ g ∈ r.gathered)) ∧
      ∃ g ∈ r'.gathered, here g ∧
        (∀ k, k < 32 → inMask a.mask k = true → inMask g.2.2.2.mask k = true ∧ g.2.2.2.data.getD k 0 = laneVal a k) ∧
        ((∀ h ∈ r.gathered, ¬ here h) → g.2.2.2.mask = a.mask))) ∧
    (noDrain f → ∃ u, exec (.bexit t) s = .next (settled f u) ∧
      (nonzeroOf a = 0 → u = s₁) ∧
      (f.im.expl = true → nonzeroOf a ≠ 0 → u.mem = s₁.mem ∧ ∃ w r it,
        (getTask u f.k).bind (fun x => getWarp x f.i) = some w ∧ w.lat = some r ∧ iterAt r f.level f.tag = some it ∧
        ({ lanes := nonzeroOf a, exit := tSub f.t, level := f.level, tag := f.tag } : ExitEv) ∈ it.exits))

/-- 07 R208, 09 R267, 12 R336: a context of an arithmetic instruction sends its result in the lanes that all its tokens hold, and a memory
context gives its token to the order queue. -/
def Sys2Proof.Claims.ContextFirings : Prop :=
  ∀ (s : State) (t : TForm) (f : Firing), Fires s t f → Hosted s f → ∃ s₁, Consumed s s₁ f ∧ ∃ u, exec (.contextFiring t) s = .next (settled f u) ∧
    (∀ a b, f.toks = [a, b] → slotIs a 0 → slotIs b 1 → f.t.immv = false → f.t.imm = 0 →
      ∀ g : Nat → Word, (∀ k, k < 32 → plainResult f.t.op.toNat (laneVal a k) (laneVal b k) 0 = some (g k)) →
      Sends s₁ u f.core (toBoth f false (a.mask &&& b.mask) (fun k => (g k).zeroExtend 64))) ∧
    (∀ a, f.toks = [a] → slotIs a 0 → f.t.immv = true →
      ∀ g : Nat → Word, (∀ k, k < 32 → plainResult f.t.op.toNat (laneVal a k) (f.t.imm.signExtend 64) 0 = some (g k)) →
      Sends s₁ u f.core (toBoth f false a.mask (fun k => (g k).zeroExtend 64))) ∧
    (∀ a b, f.toks = [a, b] → slotIs a 0 → slotIs b 1 → (∃ g, tBase f.t = some (.st g)) → f.t.immv = false → noDrain f →
      u.mem = s₁.mem ∧ ∃ w r it x, (getTask u f.k).bind (fun y => getWarp y f.i) = some w ∧ w.lat = some r ∧
        iterAt r f.level f.tag = some it ∧ x ∈ it.toks ∧ x.word = f.t ∧ x.node = f.node ∧ x.mask = a.mask &&& b.mask ∧
        x.done = decide (a.mask &&& b.mask = 0) ∧ x.seq = seqOf f.im f.node ∧
        ∀ k, k < 32 → x.addr.getD k 0 = laneVal a k ∧ x.data.getD k 0 = laneVal b k)

/-- 12 R327, R330, R332, R333: tokens of one sender and destination arrive in the order of their sending. One that brings the last
operand of a context meets those that wait there, and takes back those in the overflow table; another takes a general entry of its cell, or
a reserved one where it is the senior iteration's, or a place in the overflow table. A `WADV` admits only what the live-tag limit allows. -/
def Sys2Proof.Claims.ArrivalAndAdmission : Prop :=
  (∀ (s : State) (core n : Nat) (t : Token) (node sl : Nat), Store.find (getCore s core).flight n = some t → t.dest = .slot node sl →
    t.mark = false → atMma s core t = false →
    (firstOfPath s core n t = false → exec (.tokenArrival core n) s = .next s) ∧
    ((∀ e ∈ (getCore s core).flight, e.1 < n → e.2.src = t.src → destCell e.2.dest ≠ destCell t.dest) →
    (∀ k i r, warpAtSlot s core t.tag.wslot = some (k, i) → getRun s k i = some r → r.drain = none) →
    let left := { getCore s core with flight := (getCore s core).flight.filter (fun e => e.1 ≠ n) }
    let store := (getCore s core).store
    let mate := fun e : HoldPlace × Token => (∃ m, e.2.dest = .slot node m) ∧ e.2.tag = t.tag ∧ e.2.level = t.level
    let partner := ∃ im w, imageAt s core t.tag.islot = some im ∧ Store.find im.nodes node = some w ∧ 2 ≤ (operandSlots w).length ∧
      ∀ m ∈ operandSlots w, m = sl ∨ ∃ e ∈ store, e.2.dest = .slot node m ∧ mate e ∧ e.2.mark = false
    let inCell := fun p : HoldPlace => (store.filter (fun e => decide (e.1 = p) && (match e.2.dest with
      | .slot m _ => decide (m / 8 = node / 8)
      | .south _ _ => false))).length
    let occupied := ((store.filter (fun e => e.1 = .overflow)).map (fun e => if e.2.w64 then 2 else 1)).sum
    let need := if t.w64 then 2 else 1
    let arrived := { t with arr := s.seq }
    let goes := fun p => ∃ u, exec (.tokenArrival core n) s = .next u ∧
      u = setCore { s with seq := s.seq + 1 } core { left with store := store ++ [(p, arrived)] }
    (partner → ∃ u back, exec (.tokenArrival core n) s = .next u ∧
      u = setCore { s with seq := s.seq + 1 } core { left with store := back ++ [(.matched, arrived)] } ∧
      List.Forall₂ (fun e f => f.2 = e.2 ∧ (e.1 = .overflow → mate e → f.1 = .matched) ∧ (¬ (e.1 = .overflow ∧ mate e) → f.1 = e.1)) store back) ∧
    (¬ partner → inCell .general < 30 → goes .general) ∧
    (¬ partner → 30 ≤ inCell .general → isSenior s core t = true → inCell .reserved < 2 → goes .reserved) ∧
    (¬ partner → 30 ≤ inCell .general → (isSenior s core t = false ∨ 2 ≤ inCell .reserved) →
      occupied + need ≤ (if isSenior s core t then 16384 else 15360) → goes .overflow) ∧
    (¬ partner → 30 ≤ inCell .general → isSenior s core t = false → 15360 < occupied + need → exec (.tokenArrival core n) s = .next s))) ∧
  (∀ (s t : State) (core cell ctx : Nat), exec (.wadvAdmit core { cell := cell, ctx := ctx }) s = .next t → t ≠ s →
    ∃ e ∈ (getCore s core).gate, ∃ k i x r w im sl, e.2.dest = .slot (8 * cell + ctx) sl ∧ warpAtSlot s core e.2.tag.wslot = some (k, i) ∧
      getTask s k = some x ∧ getRun s k i = some r ∧ imageAt s core e.2.tag.islot = some im ∧
      Store.find im.nodes (8 * cell + ctx) = some w ∧
      let g := if w.top = 5 then 1 else if w.top = 6 then 2 else 0
      let level := e.2.level - g
      let tag := tagOut g e.2.tag
      ((iterAt r level tag).isSome = true ∨ ((∀ h ∈ (getCore s core).store, h.1 = .overflow → h.2.tag.wslot ≠ e.2.tag.wslot) ∧
        (instOf r level (parentOf level tag) = none ∨
        ∃ li, instOf r level (parentOf level tag) = some li ∧ tag.i = BitVec.ofNat 16 li.admitted ∧
          li.admitted - li.committed < min x.ltlimit (Store.get 16 s.ltcap (core / 12)))))) ∧
  (∀ (s : State) (core cell ctx k i key : Nat) (e : Token) (rest : List (Nat × Token)) (x : Task) (r : LatRun) (im : Image) (w : TForm),
    (getCore s core).gate = (key, e) :: rest → e.dest = .slot (8 * cell + ctx) 0 → warpAtSlot s core e.tag.wslot = some (k, i) →
    getTask s k = some x → getRun s k i = some r → imageAt s core e.tag.islot = some im → Store.find im.nodes (8 * cell + ctx) = some w →
    w.top = 1 →
    ((iterAt r e.level e.tag).isSome = true ∨ ((∀ h ∈ (getCore s core).store, h.1 = .overflow → h.2.tag.wslot ≠ e.tag.wslot) ∧
      ∃ li, instOf r e.level (parentOf e.level e.tag) = some li ∧
      e.tag.i = BitVec.ofNat 16 li.admitted ∧ li.admitted - li.committed < min x.ltlimit (Store.get 16 s.ltcap (core / 12)))) →
    ∃ u new r', exec (.wadvAdmit core { cell := cell, ctx := ctx }) s = .next (settleLat u core e.tag.wslot) ∧
      (∀ h ∈ (getCore u core).gate, h.1 ≠ key) ∧ getRun u k i = some r' ∧ (iterAt r' e.level e.tag).isSome = true ∧ u.mem = s.mem ∧
      (getCore u core).flight = (getCore s core).flight ++ new ∧
      new.map (fun h => (h.2.dest, h.2.tag, h.2.level, h.2.w64, h.2.mask, h.2.data)) =
        (placeOfTarget w.t1 (8 * cell + ctx) ++ placeOfTarget w.t2 (8 * cell + ctx)).map (fun d => (d, e.tag, e.level, e.w64, e.mask, e.data)))

/-- 04 R112, R113, 12 R336: the order queue commits a warp's oldest iteration when nothing of it is left in the lattice and every memory
token of it has come; until then nothing happens. A load issues after everything before it has come, and sends what it reads. -/
def Sys2Proof.Claims.OrderQueue : Prop :=
  ∀ (s : State) (x : WarpAt) (k i : Nat) (r : LatRun) (im : Image) (c : Ctx), warpAtSlot s x.core x.wslot = some (k, i) →
    getRun s k i = some r → imageAt s x.core r.slot = some im → warpCtx s k i = some c → c.core = x.core → r.held = [] → r.fence = none →
    (∀ it, oldestIter r = some it → it.level = 0 → r.drain = none →
      let inLattice := ∃ y ∈ coreTokens (getCore s x.core) x.wslot, y.mark = false ∧ tagOut y.level y.tag = it.tag
      let opened := (∃ y ∈ r.iters, 0 < y.level ∧ tagOut y.level y.tag = it.tag) ∨ (∃ g ∈ r.gathered, tagOut g.2.1 g.2.2.1 = it.tag)
      let missing := ∃ n, ((∃ e ∈ im.seqs, e.1 = n ∧ e.2.2 = 0) ∨ (∃ e ∈ im.rows, e.1 = n ∧ Store.get 0 im.levels n = 0)) ∧
        (∀ w, Store.find im.nodes n = some w → w.op ≠ 0x300) ∧
        ∀ m ∈ it.toks, m.node = n → m.done = false ∧ (m.word.op = 0x200 ∨ m.word.op = 0x280 ∨ m.word.op = 0x341)
      let writes := pendingWrites im it false
      ((inLattice ∨ opened ∨ missing) → exec (.iterationCommit x) s = .next s) ∧
      (¬ inLattice → ¬ opened → ¬ missing → ∀ s₁ s₂, writeBars c writes s = ((.ok, none), s₁) → (∀ e ∈ writes, e.2.word.op ≠ 0x342) →
        writeEach c writes s₁ = .ok s₂ → ∃ u, exec (.iterationCommit x) s = .next (settleLat u x.core x.wslot) ∧ u.mem = s₂.mem ∧
        ∀ w₀ r₀, warpIn s₂ c = some w₀ → w₀.lat = some r₀ → ∃ w r', warpIn u c = some w ∧ w.lat = some r' ∧
          w.iters = w₀.iters + 1 ∧ (∀ y ∈ r'.iters, ¬ (y.level = 0 ∧ y.tag = it.tag)) ∧ (it.outs = [] → w.regs = w₀.regs) ∧
          ∀ o, im.expl = true → it.outs = [o] → o.w64 = false → ∀ n l, l < 32 →
            getV w n l = if n = o.port ∧ inMask o.mask l = true then (o.data.getD l 0).truncate 32 else getV w₀ n l)) ∧
    (∀ it m f l s₁, nextLoad [] (received im (progOrder s x.core x.wslot im r)) = some ([], it, m) → tBase m.word = some (.ld f) →
      f.ty ≠ .b128 → f.ann = .relaxed →
      checkAccess s { c with g := m.mask } f.space (widthOf f.ty) 0 needR (memTokAccs f.space (widthOf f.ty) m) = (.ok l, s₁) →
      lostAccs s₁ { c with g := m.mask } f.scope.toNat l = [] →
      ∃ s₂ u g, exec (.orderQueueLoadIssue x) s = .next (settleLat (forwardMark u x.core x.wslot m.node false) x.core x.wslot) ∧
        (f.space ≠ .spill → s₂.mem = s₁.mem) ∧
        (∀ e ∈ l, (g e.1.lane : DWord).truncate 32 = loadedWord f.ty (seen s₁ { c with g := m.mask } f.scope (widthOf f.ty) e.1.lane e.2) 0) ∧
        Sends s₂ u x.core ((placeOfTarget m.word.t1 m.node ++ placeOfTarget m.word.t2 m.node).map (fun d =>
          { dest := d, tag := (topTag m.word.top it.tag it.level).1, level := (topTag m.word.top it.tag it.level).2
            wide := decide (widthOf f.ty = 8), mask := m.mask, val := g })))

/-- 12 R338 to R340, 20 R491: a drain completes when its markers have left and everything before its boundary has committed, and not
before; the warp then runs on the front end with the stack and mask that it had at entry, where no lane has exited. The watchdog takes
back a warp that has had 2²⁰ core clocks without progress. -/
def Sys2Proof.Claims.DrainsAndWatchdog : Prop :=
  ∀ (s : State) (x : WarpAt) (k i : Nat) (r : LatRun) (im : Image) (c : Ctx), warpAtSlot s x.core x.wslot = some (k, i) →
    getRun s k i = some r → imageAt s x.core r.slot = some im → warpCtx s k i = some c →
    let marked := ∃ y ∈ coreTokens (getCore s x.core) x.wslot, y.mark = true
    (r.drain = none → exec (.drainComplete x) s = .next s) ∧
    (∀ why n level, r.drain = some (why, n, level) → r.held = [] → r.fence = none →
      let before := ∃ it ∈ r.iters, atOrAfter r n level it.tag it.level = false ∧ encloses n level it.tag it.level = false
      ((marked ∨ before) → exec (.drainComplete x) s = .next s) ∧
      (¬ marked → ¬ before → level = 0 → c.t.evicting = false → ∃ t w, exec (.drainComplete x) s = .next t ∧ t.mem = s.mem ∧ warpIn t c = some w ∧
        w.lat = none ∧
        (im.expl = false → r.exits = [] → r.mask ≠ 0 → c.w.blocked = .ready → w.pc = im.heads.getD 0 0 ∧ w.stack = r.stack ∧ w.active = r.mask))) ∧
    (r.watchdog < 2 ^ 20 → exec (.latticeWatchdog x) s = .next s) ∧
    (2 ^ 20 ≤ r.watchdog → ∃ t, exec (.latticeWatchdog x) s = .next t ∧ getRun t k i = none)

/-- 12 R343, 11 R307, R324: a warp that reaches a block enters it where it is resident, else waits for the placer, whose answer makes it
look again or, where it fails, resume behind the block. -/
def Sys2Proof.Claims.BlocksAndPlacement : Prop :=
  (∀ (s : State) (h : BlockHdr) (c : Ctx) (words : List DWord) (join : DWord) (s₁ : State), Runs s (.blockEntry h) c →
    checkBlockAt s c h = (.ok words join, s₁) →
    let im := blockImage c.t.vd c.kern c.w.pc h words join
    let core := getCore s₁ c.core
    let matching := fun e : Nat × Image => e.2.vd = c.t.vd ∧ e.2.kdesc = c.kern.addr ∧ e.2.heads.getD 0 0 = c.w.pc ∧ e.2.expl = true ∧
      e.2.withdrawn = false
    ((∃ e ∈ core.slots, matching e) → ∃ t w r, exec (.blockEntry h) s = .next t ∧ t.mem = s₁.mem ∧ warpIn t c = some w ∧
      w.lat = some r ∧ r.mask = c.w.active ∧ r.stack = c.w.stack ∧ (∃ e ∈ core.slots, matching e ∧ e.1 = r.slot) ∧
      w = { c.w with lat := some r, drained := none, reenter := none, blocked := .ready, rebuilt := none }) ∧
    ((∀ e ∈ core.slots, ¬ matching e) → (c.t.vd, c.kern.addr, c.w.pc) ∈ core.barred → ∃ t, exec (.blockEntry h) s = .next t ∧
      t.mem = s₁.mem ∧ warpIn t c = some { c.w with pc := blockFallback im }) ∧
    ((∀ e ∈ core.slots, ¬ matching e) → (c.t.vd, c.kern.addr, c.w.pc) ∉ core.barred → ∃ t, exec (.blockEntry h) s = .next t ∧
      t.mem = s₁.mem ∧ warpIn t c = some { c.w with blocked := .block, blockedAt := s₁.seq } ∧
      (getCore t c.core).places = core.places ++ [.block c.k c.i im])) ∧
  (∀ (s : State) (core k i : Nat) (im : Image) (r : PlacerAnswer) (y : Task) (w : Warp),
    (getCore s core).places.find? (placerTakes s core) = some (.block k i im) → getTask s k = some y → getWarp y i = some w →
    ∃ t z v, exec (.placerDone core r) s = .next t ∧ t.mem = s.mem ∧ getTask t k = some z ∧ getWarp z i = some v ∧ v.blocked = .ready ∧
      (r = .failed → v = { w with blocked := .ready, pc := blockFallback im } ∧ (getCore t core).slots = (getCore s core).slots) ∧
      ∀ p o, r = .placed p o → ∃ n code, LoadStatus (getCore s core) im (some o) 4 n code ∧
        v.pc = (if code ≤ 1 then w.pc else blockFallback im) ∧
        (code = 0 → Store.find (getCore t core).slots n = some { moveImage im o with drain := [] }))

/-! Launches, dispatch, time slices and adoption answers (02 R44, R64 to R70, 13 R354 to R372). -/

namespace Sys2Proof.Claims

/-- The bytes from `a` hold `ws`, and every other byte of memory is as before. -/
def StoresBytes (s t : State) (a : Nat) (bs : List Byte) : Prop :=
  ∀ x, rdByte t.mem x = if a ≤ x ∧ x < a + bs.length then bs.getD (x - a) 0 else rdByte s.mem x

/-- The little-endian bytes of a 64-bit word. -/
def bytesOf (x : DWord) : List Byte := (List.range 8).map (fun j => x.extractLsb' (8 * j) 8)

/-- A clamp after a wake write of a VD: a clamped partition begins to wake (14 R398). -/
def wokenBy (s : State) (vd : Nat) : Clamp → Clamp
  | .clamped cls => .waking cls vd s.timeNs
  | x => x

/-- A `TAIL` write rings the dispatchers of its VD, and begins to wake a clamped partition. -/
def Rung (s t : State) (vd : Nat) : Prop :=
  getVd t vd = { getVd s vd with rung := true, stopped := false, idleSince := s.timeNs } ∧
  (∀ n, n ≠ vd → getVd t n = getVd s n) ∧
  ∀ p, getPart s (partOf vd) = some p → getPart t (partOf vd) = some { p with proposal := none, clamp := wokenBy s vd p.clamp }

/-- A task at its first issue on a core (02 R44): all lanes of each warp at the entry, the arguments in the first uniform registers, and
every other register, predicate and shared byte zero. -/
structure FreshTask (j : Job) (core : Nat) (x : Task) : Prop where
  place : x.core = some core ∧ x.st = .running ∧ x.vd = j.vd ∧ x.warps.length = j.kernel.warps ∧ x.adopted = [] ∧ x.helper = none
  shared : ∀ a, Store.get 0 x.shared a = 0
  warps : ∀ i w, getWarp x i = some w → w.pc = j.kernel.entry ∧ w.active = 0xFFFFFFFF ∧ w.launch = 0xFFFFFFFF ∧ w.stack = [] ∧
    w.blocked = .ready ∧ w.handler = false ∧ w.fpmode = 0 ∧ (∀ r l, getV w r l = 0) ∧ (∀ p l, p < 7 → inMask (predMask w p) l = false) ∧
    ∀ m, m < 64 → getK w m = if m < j.kernel.nargs then j.args.getD m 0 else 0
  counters : ∀ i w, getWarp x i = some w → w.issued = 0 ∧ w.iters = 0 ∧ w.mmas = 0

/-- The newest record in Firex's log. -/
def newestLog (t : State) (ps : List Nat) (r : Rec) : Prop := t.firex.log.head? = some (ps, recWords r)

end Sys2Proof.Claims

/-- 13 R355: a TAIL write by a VD's producer is performed and rings the dispatchers; a disabled VD's is ignored, and a host's write of a
queue that Zalna feeds is refused. -/
def Sys2Proof.Claims.TailWrites : Prop :=
  ∀ (s : State) (vd : Nat) (tail : DWord),
    ((getVd s vd).en = false → exec (.tailWrite vd tail) s = .next s) ∧
    ((getVd s vd).en = true → zalnaProduces s vd = false → ∃ t, exec (.tailWrite vd tail) s = .next t ∧ Rung s t vd ∧
      (∀ pa, queuePlace s vd 0 = some pa → StoresBytes s t pa (bytesOf tail)) ∧ t.tasks = s.tasks ∧ t.jobs = s.jobs) ∧
    ((getVd s vd).en = true → zalnaProduces s vd = true → ∃ t r, exec (.tailWrite vd tail) s = .next t ∧
      newestLog t [partOf vd] r ∧ r.cause = 0x1B ∧ r.detail = 5 ∧ r.addr = tail ∧ r.vd = vd ∧
      (∀ k, k ≠ vd → getVd t k = getVd s k) ∧ (getVd t vd).rung = (getVd s vd).rung)

/-- 13 R357, R358, 20 R494 to R496: the dispatcher reads the header of a rung queue: an empty queue stops ringing, a TAIL out of range
stops the queue, and a good record becomes a job and advances HEAD; a refused one advances HEAD alone; and a held
write of HEAD leaves the record for later. -/
def Sys2Proof.Claims.LaunchAcceptance : Prop :=
  ∀ (s : State) (vd : Nat) (tail : DWord) (s₁ : State),
    let v := getVd s vd
    (v.en = false ∨ v.rung = false ∨ v.stopped = true ∨ partAwake s (partOf vd) = false → exec (.launchAccept vd) s = .next s) ∧
    (v.en = true → v.rung = true → v.stopped = false → partAwake s (partOf vd) = true →
      queueWords vd 1 v.qbase.toNat s = (.ok [tail], s₁) →
      (tail = v.qhead → exec (.launchAccept vd) s = .next (setVd s₁ vd { getVd s₁ vd with rung := false })) ∧
      ((tail.toNat < v.qhead.toNat ∨ 2 ^ v.qlog < tail.toNat - v.qhead.toNat) → ∃ t r, exec (.launchAccept vd) s = .next t ∧
        newestLog t [partOf vd] r ∧ r.cause = 0x1B ∧ r.detail = 5 ∧ r.addr = tail ∧ (getVd t vd).stopped = true ∧
        (getVd t vd).rung = false ∧ t.jobs = s₁.jobs) ∧
      (v.qhead.toNat < tail.toNat → tail.toNat - v.qhead.toNat ≤ 2 ^ v.qlog → ∀ ws s₂ s₃,
        queueWords vd 16 (v.qbase.toNat + 64 + 128 * (v.qhead.toNat % 2 ^ v.qlog)) s₁ = (.ok ws, s₂) →
        numberRoom s₂ vd 1 = true → (∀ d ∈ diesOf (recDies ws), tableRoom s₂ d 1 = true) →
        (∀ k pa s₄, judge s₂ vd ws = (.accept k, s₃) → queueWord s₃ vd ((getVd s₃ vd).qbase.toNat + 8) needW = (.ok pa, s₄) → ∃ t j, exec (.launchAccept vd) s = .next t ∧ (getVd t vd).qhead = v.qhead + 1 ∧
          getJob t vd (freeJob s₄ vd) = some j ∧ j.num = freeJob s₄ vd ∧ (getVd t vd).jobLast = j.num ∧ j.vd = vd ∧ j.kernel = k ∧ j.ntask = (ws.getD 1 0).toNat % 2 ^ 32 ∧
          j.prio = (ws.getD 1 0).toNat / 2 ^ 32 % 4 ∧ j.base = ws.getD 2 0 ∧ j.gateOpen = true ∧ j.parent = none ∧ j.done = [] ∧
          (∀ n, n < 16 → j.args.getD n 0 = ((ws.getD (4 + n / 2) 0) >>> (32 * (n % 2))).truncate 32) ∧
          (∀ d, d < 4 → (d ∈ j.dies ↔ (ws.getD 1 0).getLsbD (48 + d) = true))) ∧
        (∀ reason field pa s₄, judge s₂ vd ws = (.refuse reason field, s₃) →
          queueWord s₃ vd ((getVd s₃ vd).qbase.toNat + 8) needW = (.ok pa, s₄) → ∃ t r, exec (.launchAccept vd) s = .next t ∧
          (getVd t vd).qhead = v.qhead + 1 ∧ t.jobs = s₄.jobs ∧ newestLog t [partOf vd] r ∧ r.cause = 0x1B ∧
          r.detail = reason + field * 2 ^ 8 ∧ r.addr = v.qhead ∧ r.vd = vd) ∧
        (∀ tag s₄ v', judge s₂ vd ws = (v', s₃) → (∀ x, v' ≠ .hold x) →
          queueWord s₃ vd ((getVd s₃ vd).qbase.toNat + 8) needW = (.held tag, s₄) →
          exec (.launchAccept vd) s = .next (setVd s₄ vd { getVd s₄ vd with devHeld := tag })) ∧
        (∀ e pa s₄, judge s₂ vd ws = (.version e, s₃) → queueWord s₃ vd ((getVd s₃ vd).qbase.toNat + 8) needW = (.ok pa, s₄) → ∃ t r, exec (.launchAccept vd) s = .next t ∧
          (getVd t vd).qhead = v.qhead + 1 ∧ t.jobs = s₄.jobs ∧ newestLog t [partOf vd] r ∧ r.cause = 0x02 ∧ r.detail = e)))

/-- 13 R360, 21 R514, R515: a whole launch packet that the table admits is appended to its VD's queue, each word where the
queue's mapping puts it; any other is dropped with its reason
in Firex's log, and a port that carries no traffic does nothing. -/
def Obligations.ZalnaPackets : Prop :=
  ∀ (s : State) (port src vd : Nat) (key : Word) (record : List Byte) (whole : Bool),
    let x := Instr.zalnaLaunchPacket port src key vd record whole
    let drops := fun n => ∃ t ps r, exec x s = .next t ∧ newestLog t ps r ∧ r.cause = 0x24 ∧ r.detail = n + port * 2 ^ 8 ∧
      t.jobs = s.jobs ∧ t.tasks = s.tasks ∧ getVd t vd = getVd s vd
    let entry := fun n => n ∈ zValid s ∧ fld (zWord s n 0) 57 48 = vd ∧ fld (zWord s n 0) 47 32 = src ∧ fld (zWord s n 0) 31 0 = key.toNat
    let names := fun n => ∃ j, 1 ≤ j ∧ j < 8 ∧ zWord s n j ≠ 0 ∧ zWord s n j = BitVec.ofNat 64 (bytesNat (record.take 8))
    (zalnaUp s port = false → exec x s = .next s) ∧
    (zalnaUp s port = true → (whole = false ∨ record.length ≠ 128) → drops 4) ∧
    (zalnaUp s port = true → whole = true → record.length = 128 → hostMode s (partOf vd) 6 = false →
      ((∀ n, ¬ entry n) → drops 1) ∧
      ((∃ n, entry n) → (∀ n, entry n → ¬ names n) → drops 2) ∧
      ((∃ n, entry n ∧ names n) → (getVd s vd).en = true →
        ((queueTail s vd).toNat - (getVd s vd).qhead.toNat = 2 ^ (getVd s vd).qlog → drops 3) ∧
        ((queueTail s vd).toNat - (getVd s vd).qhead.toNat ≠ 2 ^ (getVd s vd).qlog →
          let place := fun n => queuePlace s vd (64 + 128 * ((queueTail s vd).toNat % 2 ^ (getVd s vd).qlog) + 8 * n)
          ((∃ n, n < 16 ∧ place n = none) → exec x s = .next s) ∧
          ∀ pa : Nat → Nat, (∀ n, n < 16 → place n = some (pa n)) →
            (∀ n m, n < 16 → m < 16 → n ≠ m → pa n + 8 ≤ pa m ∨ pa m + 8 ≤ pa n) →
            ∃ s₁, exec x s = .next (writeTail s₁ vd (queueTail s vd + 1)) ∧ s₁ = { s with mem := s₁.mem } ∧
              (∀ n b, n < 16 → b < 8 → rdByte s₁.mem (pa n + b) = record.getD (8 * n + b) 0) ∧
              ∀ y, (∀ n, n < 16 → y < pa n ∨ pa n + 8 ≤ y) → rdByte s₁.mem y = rdByte s.mem y)))

/-- 13 R362 to R366, 02 R44: a dispatcher places the first task that it can of the lowest level, on the core with the most free register
bytes, then warp slots, then the lowest number; a new task starts at its entry. A level-0 head that has waited too long displaces a task
of level 2 or 3. -/
def Sys2Proof.Claims.DispatchOfTasks : Prop :=
  ∀ (s : State) (part die vd : Nat) (p : Part), getPart s part = some p → p.cur = some vd → p.switchTo = none → p.clamp = .awake →
    dieUp s die = true →
    (∀ o c, (offers s vd die 0).head? = some o → offerCore s p die o = some c →
      (∀ kn n, offerKernel s o = some (n, kn) → c ∈ partCores s p die ∧ fitsOn s c n kn = true ∧
        ∀ c' ∈ partCores s p die, fitsOn s c' n kn = true → freeBytes s c' < freeBytes s c ∨
          (freeBytes s c' = freeBytes s c ∧ (freeSlots s c' < freeSlots s c ∨ (freeSlots s c' = freeSlots s c ∧ c ≤ c')))) ∧
      ∃ t, exec (.taskPlacement part die) s = .next t ∧
        (∀ j n, o = .fresh j n → (j.kernel.constLen = 0 → t.mem = s.mem) ∧ ∃ x, getTask t (taskKey j.vd (mkHandle j.num n)) = some x ∧ FreshTask j c x) ∧
        (∀ k, o = .resumed k → ∃ x, getTask t k = some x ∧ x.core = some c ∧ x.st = .running ∧
          ∀ w ∈ x.warps, w.blocked = .ready ∨ w.blocked = .fence)) ∧
    ((∀ lv, lv < 4 → offers s vd die lv = []) → ∃ t, exec (.taskPlacement part die) s = .next t ∧ t.tasks = s.tasks ∧ t.jobs = s.jobs) ∧
    ((∀ o ∈ offers s vd die 0, headOverdue s part die 0 o = false) → exec (.dispatchHeadTimeout part die) s = .next s) ∧
    ((s.tasks.map Prod.fst).Nodup → (∀ e ∈ s.tasks, e.2.vd = vd → e.2.die = die → e.2.evicting = false) →
      ∀ o n kn k x, (offers s vd die 0).head? = some o → offerKernel s o = some (n, kn) → headOverdue s part die 0 o = true →
      offerCore s p die o = none → headVictim s vd die n kn = some k → getTask s k = some x → taskLattice s k = [] →
      (2 ≤ taskLevel s x ∧ x.adopted = [] ∧ x.helper = none ∧ x.vd = vd ∧ x.die = die) ∧
      ∃ t y, exec (.dispatchHeadTimeout part die) s = .next t ∧ getTask t k = some y ∧ y.core = none ∧
        (y.st = .parkedRunnable ∨ y.st = .parkedWaiting))

/-- 13 R370, R371, 14 R387: a slice ends when its time has passed or its VD has no work left, and passes to the next VD with work; a switch
completes when every unit has stopped. -/
def Sys2Proof.Claims.TimeSlices : Prop :=
  ∀ (s : State) (part v n : Nat) (p : Part), getPart s part = some p → p.clamp = .awake →
    (p.switchTo = none → p.cur = none → nextWithWork s part (16 * part + 15) = some n → ∃ t q, exec (.timeSliceEnd part) s = .next t ∧
      getPart t part = some q ∧ q.cur = some n ∧ q.switchTo = none ∧ q.sliceFrom = s.timeNs) ∧
    (p.switchTo = none → p.cur = some v → hasWork s v = true → s.timeNs - p.sliceFrom < sliceNs (getVd s v) →
      exec (.timeSliceEnd part) s = .next s) ∧
    (p.switchTo = none → p.cur = some v → (hasWork s v = false ∨ sliceNs (getVd s v) ≤ s.timeNs - p.sliceFrom) →
      nextWithWork s part v = some n → vdLattice s v = [] →
      exec (.timeSliceEnd part) s = .next (setPart s part (if n = v then { p with sliceFrom := s.timeNs } else { p with switchTo := some n }))) ∧
    (∀ vd, partOf vd = part → p.cur = some vd → p.switchTo = none → vdLattice s vd = [] →
      exec (.hostPreemptRequest vd) s = .next (setPart s part { p with switchTo := some ((nextWithWork s part vd).getD vd) })) ∧
    (∀ vd, partOf vd = part → p.cur ≠ some vd → exec (.hostPreemptRequest vd) s = .next s) ∧
    (p.cur = some v → p.switchTo = some n → unitsStopped s v = false → exec (.vdSwitchRestore part) s = .next s) ∧
    (p.cur = some v → p.switchTo = some n → unitsStopped s v = true → ∃ t q, exec (.vdSwitchRestore part) s = .next t ∧
      getPart t part = some q ∧ q.cur = some n ∧ q.switchTo = none ∧ q.sliceFrom = s.timeNs)

/-- 02 R70, 14 R389, 17 R429: an adoption answer that names an outstanding request ends it with the outcome of the checks; one that names
none is ignored. -/
def Obligations.HostAdoption : Prop :=
  ∀ (s : State) (vd : Nat) (cand : DWord),
    let v := getVd s vd
    let h := BitVec.ofNat 64 (v.adoptWait.toNat % 2 ^ 48)
    let c := BitVec.ofNat 64 (cand.toNat % 2 ^ 48)
    let k := taskKey vd h
    ((v.adoptWait.getLsbD 63 = false ∨ h ∉ v.adoptReqs) → exec (.adoptAnswer vd cand) s = .next s) ∧
    (v.adoptWait.getLsbD 63 = true → h ∈ v.adoptReqs →
      let ends := fun code => exec (.adoptAnswer vd cand) s = .next (setVd s vd { v with adoptReqs := v.adoptReqs.erase h, adoptOut := code })
      (getTask s k = none → ends 3) ∧
      ∀ x, getTask s k = some x →
        (x.st ≠ .waiting → ends 3) ∧ (x.st = .waiting → c = 0 → ends 5) ∧ (x.st = .waiting → c ≠ 0 → nestDepth s k = 4 → ends 4) ∧
        (x.st = .waiting → c ≠ 0 → nestDepth s k ≠ 4 → ((∃ h, ownerState s vd x.die c = .waits h) ∨ ownerState s vd x.die c = .other) → ends 2) ∧
        (∀ n m j, x.st = .waiting → c ≠ 0 → nestDepth s k ≠ 4 → ownerState s vd x.die c = .unstarted n m →
          handleJob c = n →
          getJob s vd n = some j → j.vd = vd → j.num = n →
          ((adopt s k (.unstarted n m)).isSome = true → ∃ t y z, exec (.adoptAnswer vd cand) s = .next t ∧ (getVd t vd).adoptOut = 0 ∧
            getTask t k = some y ∧ y.adopted = x.adopted ++ [taskKey vd c] ∧ y.adoptions = x.adoptions + 1 ∧
            getTask t (taskKey vd c) = some z ∧ z.helper = some k ∧ z.st = .running ∧ z.core = x.core) ∧
          (adopt s k (.unstarted n m) = none → ends 1)))

/-! Engine control, translation, page requests, invalidations, the dirty log, the park overflow region and the event queues (03 R92 to R98,
11 R304, 14 R393, R394, 17 R428, 19 R459 to R468, R477, R478). -/

namespace Sys2Proof.Claims

/-- The state after a record has been offered to a VD's event queue (17 R428). -/
structure PostedVd (s t : State) (vd : Nat) (awaits : Bool) (r : Rec) : Prop where
  rest : t = { s with mem := t.mem, vds := t.vds }
  others : ∀ n, n ≠ vd → getVd t n = getVd s n
  room : (getVd s vd).eq.en = true → ((getVd s vd).eq.tail - (getVd s vd).eq.head).toNat < 2 ^ (getVd s vd).eq.qlog →
    getVd t vd = { getVd s vd with eq := { (getVd s vd).eq with tail := (getVd s vd).eq.tail + 1 } } ∧
    StoresBytes s t (hostPa ((getVd s vd).eq.base.toNat + 64 * ((getVd s vd).eq.tail.toNat % 2 ^ (getVd s vd).eq.qlog)))
      ((recWords r).flatMap bytesOf)
  full : ((getVd s vd).eq.en = false ∨ 2 ^ (getVd s vd).eq.qlog ≤ ((getVd s vd).eq.tail - (getVd s vd).eq.head).toNat) →
    t.mem = s.mem ∧ getVd t vd = if awaits then { getVd s vd with held := (getVd s vd).held ++ [recWords r] }
      else { getVd s vd with eq := { (getVd s vd).eq with drop := min ((getVd s vd).eq.drop + 1) 0xFFFF } }

/-- The stopped operation of an ENGCTL entry: its cause (19 R468). -/
def stoppedAt (s : State) (core entry cause : Nat) : Prop :=
  (entry < 16 ∧ ∃ o n, Store.find (getCore s core).copies entry = some o ∧ o.st = .stopped cause n) ∨
  (16 ≤ entry ∧ ∃ o n, Store.find (getCore s core).gaeq (entry - 16) = some o ∧ o.st = .stopped cause n)

/-- Entry `entry` of a core: the operation's state, if there is one. -/
def engineState (s : State) (core entry : Nat) : Option EngState :=
  if entry < 16 then (Store.find (getCore s core).copies entry).map (fun o => o.st)
  else (Store.find (getCore s core).gaeq (entry - 16)).map (fun o => o.st)

/-- A stage-2 walk for a 64 KiB page (03 R92 to R94): three valid table entries and a valid leaf, each read from the partition's window
in die memory of the walker's die that is restored; the page lies outside the regions that Firex reserves. -/
def Walks (s : State) (vd die ipa : Nat) (leafAt : Nat) (leaf : DWord) : Prop :=
  let pn := partOf vd
  let index := fun lvl => ipa / 2 ^ levelShift lvl % (if lvl = 3 then 32 else 512)
  ∃ p₀ p₁ p₂, windowPa s pn ((getVd s vd).s2root.toNat + 8 * index 0) = some p₀ ∧
    windowPa s pn (teOa (rd64 s p₀) + 8 * index 1) = some p₁ ∧ windowPa s pn (teOa (rd64 s p₁) + 8 * index 2) = some p₂ ∧
    windowPa s pn (teOa (rd64 s p₂) + 8 * index 3) = some leafAt ∧ leaf = rd64 s leafAt ∧
    (∀ p ∈ [p₀, p₁, p₂], (rd64 s p).getLsbD 0 = true ∧ (rd64 s p).getLsbD 1 = false) ∧
    (∀ p ∈ [p₀, p₁, p₂, leafAt], paDie p = some die ∧ poisoned s p = false ∧ unrestoredAt s pn p = none) ∧ leaf.getLsbD 0 = true ∧ leaf.getLsbD 1 = true ∧
    leaf2Ok s pn leaf = true ∧ leafReserved s pn (teLoc leaf) (teDie leaf) (teOa leaf + ipa % 2 ^ 16) = false

/-- The warp of a task number in a state. -/
def warpOf (s : State) (k i : Nat) : Option Warp := (getTask s k).bind (fun x => getWarp x i)

end Sys2Proof.Claims

/-- 03 R92 to R96: a walk reads the entries that the tables give, the page's address is the leaf's with the offset in the page, and a walk
for an access sets A in both leaves, and D for a write, and fills the die's TLB. -/
def Obligations.Translation : Prop :=
  (∀ (s : State) (vd die ipa a : Nat) (leaf : DWord), Walks s vd die ipa a leaf → ipa < 2 ^ 48 →
    ∃ l, stage2 s vd die ipa = .ok l ∧ l.pa = a ∧ l.entry = leaf ∧ l.level = 3 ∧ l.size = 2 ^ 16 ∧
      l.oa = leaf.toNat / 2 ^ 8 % 2 ^ 48 * 2 ^ 8) ∧
  (∀ (s : State) (vd die : Nat) (va : DWord) (needs : Needs) (l₁ l₂ : Leaf) (ipa : Nat), walkable s vd die va = true →
    tlbFind s .none vd die va.toNat = none → walkBoth s vd die va.toNat = .ok (l₁, l₂, ipa) →
    l₁.oa % l₁.size = 0 → l₂.oa % l₂.size = 0 → (l₁.pa + 8 ≤ l₂.pa ∨ l₂.pa + 8 ≤ l₁.pa) → (getVd s vd).logen = false →
    needs &&& ~~~(tePerms l₁.entry) = 0 → needs &&& ~~~(tePerms l₂.entry) = 0 → teLoc l₂.entry = 0 → teDie l₂.entry = die →
    ((leafPa s (partOf vd) 0 die (l₂.oa + ipa % l₂.size)).bind (unrestoredAt s (partOf vd))) = none →
    let set := fun e : DWord => e ||| (if needs.getLsbD 1 then 0xC0 else 0x40)
    ipa = l₁.oa + va.toNat % l₁.size ∧
    ∃ t, exec (.tableWalk vd die va needs) s = .next t ∧ rd64 t l₁.pa = set l₁.entry ∧ rd64 t l₂.pa = set l₂.entry ∧
      (∀ a, (a < l₁.pa ∨ l₁.pa + 8 ≤ a) → (a < l₂.pa ∨ l₂.pa + 8 ≤ a) → rdByte t.mem a = rdByte s.mem a) ∧
      translate s .none vd die va.toNat needs true = (.ok (teLoc l₂.entry) (teDie l₂.entry)
        (leafPa s (partOf vd) (teLoc l₂.entry) (teDie l₂.entry) (l₂.oa + ipa % l₂.size)), t) ∧
      ∃ e, tlbFind t .none vd die va.toNat = some e ∧ e.size = min l₁.size l₂.size ∧ tlbPerms e = tePerms l₁.entry &&& tePerms l₂.entry) ∧
  (∀ (s : State) (vd die : Nat) (va : DWord) (needs : Needs), walkable s vd die va = false →
    exec (.tableWalk vd die va needs) s = .next s ∧ exec (.pageFaultService vd die va needs) s = .next s)

/-- 17 R428: an entry goes to the tail of a queue that has room; without room an entry that awaits an answer is held, and any other is
dropped and counted. When room frees, held entries are written, oldest first. -/
def Sys2Proof.Claims.EventQueues : Prop :=
  (∀ (s : State) (vd : Nat) (awaits : Bool) (r : Rec), PostedVd s (postVd s vd awaits r) vd awaits r) ∧
  (∀ (s : State) (vd : Nat) (ws : List DWord) (rest : List (List DWord)), (getVd s vd).held = ws :: rest → rest = [] → ws.length = 8 →
    let q := (getVd s vd).eq
    ((q.en = false ∨ 2 ^ q.qlog ≤ (q.tail - q.head).toNat) → exec (.eventQueueRoom (.vd vd)) s = .next s) ∧
    (q.en = true → (q.tail - q.head).toNat < 2 ^ q.qlog → ∃ t, exec (.eventQueueRoom (.vd vd)) s = .next t ∧
      t = { s with mem := t.mem, vds := t.vds } ∧ getVd t vd = { getVd s vd with eq := { q with tail := q.tail + 1 }, held := [] } ∧
      StoresBytes s t (hostPa (q.base.toNat + 64 * (q.tail.toNat % 2 ^ q.qlog))) (ws.flatMap bytesOf))) ∧
  (∀ (s : State) (n : Nat) (p : Part) (ws : List DWord), getPart s n = some p → p.held = [ws] → ws.length = 8 → p.eq.en = true →
    (p.eq.tail - p.eq.head).toNat < 2 ^ p.eq.qlog → ∃ t, exec (.eventQueueRoom (.part n)) s = .next t ∧
      getPart t n = some { p with eq := { p.eq with tail := p.eq.tail + 1 }, held := [] } ∧
      StoresBytes s t (hostPa (p.eq.base.toNat + 64 * (p.eq.tail.toNat % 2 ^ p.eq.qlog))) (ws.flatMap bytesOf))

/-- 19 R459, R461: one service of a stage-2 level-3 fault takes the oldest frame of the partition's ring, zeroes it and writes the leaf;
where no ring can serve it, the range is requested from the host under a tag, or joins the request that stands for it. -/
def Sys2Proof.Claims.PageFaultServices : Prop :=
  ∀ (s s₁ : State) (vd die ipa lv : Nat) (va : DWord) (needs : Needs), walkable s vd die va = true →
    translate s .none vd die va.toNat needs false = (.pageFault 2 lv ipa, s₁) →
    let pn := partOf vd
    let ring := hostRing s₁ pn die
    let frame := BitVec.ofNat 64 (rdBytes s₁.mem (hostPa (ring.base.toNat + 8 * (ring.head.toNat % 2 ^ ring.qlog))) 8)
    let range := BitVec.ofNat 64 (ipa / 2 ^ 16 * 2 ^ 16)
    (lv = 3 → hostMode s₁ pn 0 = false → ring.kept = none → ring.en = true → ring.head ≠ ring.tail → hostFrameOk s₁ pn die frame = true →
      die < 4 → ∀ pa cleared, cleared = { s₁ with mem := zeroPieces s₁.mem (framePieces s₁ pn 0 die frame.toNat) } →
      entry2Pa cleared pn die ipa [0, 1, 2, 3] (getVd s₁ vd).s2root.toNat = some pa → (rd64 cleared pa).getLsbD 0 = false →
      ∃ t, exec (.pageFaultService vd die va needs) s = .next t ∧ (hostRing t pn die).head = ring.head + 1 ∧
        (let e := rd64 t pa;
          e.getLsbD 0 = true ∧ e.getLsbD 1 = true ∧ e.getLsbD 3 = ring.rd ∧ e.getLsbD 4 = ring.w ∧ e.getLsbD 5 = ring.x ∧
          e.getLsbD 6 = false ∧ e.getLsbD 7 = false ∧ teOa e = frame.toNat ∧ teLoc e = 0 ∧ teDie e = die) ∧
        (∀ a j, a ∈ framePieces s₁ pn 0 die frame.toNat → j < 1024 → (a + j < pa ∨ pa + 8 ≤ a + j) → rdByte t.mem (a + j) = 0)) ∧
    (serviceFor s₁ vd die (.pageFault 2 lv ipa) = .request →
      let room := walkRoom s₁ (lowBay s₁ pn die) vd (va.toNat / 2 ^ 16) = true
      let joins := ∃ e ∈ (getVd s₁ vd).tags, e.2.ipa = range ∧ e.2.pri = none
      let without := fun (u : State) n => (Store.find (getVd u vd).tags n).map (fun q => { q with walks := [] })
      (¬ room → exec (.pageFaultService vd die va needs) s = .next s₁) ∧
      (room → joins → ∃ t, exec (.pageFaultService vd die va needs) s = .next t ∧ t.mem = s₁.mem ∧ t.tasks = s₁.tasks ∧
        ∀ n, without t n = without s₁ n) ∧
      (room → ¬ joins → (∀ n, n < 64 → Store.find (getVd s₁ vd).tags n ≠ none) → exec (.pageFaultService vd die va needs) s = .next s₁) ∧
      (room → ¬ joins → ∀ n, n < 64 → Store.find (getVd s₁ vd).tags n = none →
        (∀ m, m < n → Store.find (getVd s₁ vd).tags m ≠ none) → ∃ t q, exec (.pageFaultService vd die va needs) s = .next t ∧
          Store.find (getVd t vd).tags n = some q ∧ q.ipa = range ∧ q.va = va ∧ q.die = die ∧ q.needs = needs ∧ q.pri = none))

/-- 19 R463 to R465: an answer of a stale generation or of no outstanding tag is counted and posted; a served request frees its tag and its
accesses look again; a refused one gives its warp the fault that it holds. A failed PRI response stops its copy with subcause 6. -/
def Sys2Proof.Claims.PageAnswers : Prop :=
  ∀ (s : State) (vd : Nat) (x : DWord),
    let v := getVd s vd
    let gen := x.toNat / 2 ^ 48
    let tag := x.toNat / 2 ^ 40 % 2 ^ 6
    let code := x.toNat / 2 ^ 32 % 2 ^ 2
    let stale := fun i => ∀ p, getPart s (partOf vd) = some p → ∃ t q, exec i s = .next t ∧ getPart t (partOf vd) = some q ∧
      q.stalecnt = p.stalecnt + 1 ∧ t.tasks = s.tasks ∧ getVd t vd = v
    ((code = 0 ∨ code = 3) → exec (.presp vd x) s = .next s) ∧
    ((code = 1 ∨ code = 2) → (gen ≠ v.gen.toNat ∨ ∀ rq, Store.find v.tags tag = some rq → rq.pri ≠ none) → stale (.presp vd x)) ∧
    (∀ rq, code = 1 → gen = v.gen.toNat → Store.find v.tags tag = some rq → rq.pri = none → ∃ t, exec (.presp vd x) s = .next t ∧ t.mem = s.mem ∧
      Store.find (getVd t vd).tags tag = none ∧
      (∀ k i y w, getTask s k = some y → y.vd = vd → getWarp y i = some w → (∃ ts f, w.blocked = .page ts f ∧ tag ∈ ts) →
        ∃ w', warpOf t k i = some w' ∧ w'.blocked = .ready ∧ w'.pc = w.pc)) ∧
    (∀ rq k i f w, code = 2 → gen = v.gen.toNat → Store.find v.tags tag = some rq → rq.pri = none → vdLattice s vd = [] → vdCopies s vd = [] →
      vdGaeq s vd = [] → v.devHeld ≠ some tag → (∀ n, n < 16 → vdWarps s (16 * partOf vd + n) heldUntagged = []) → vdWarps s vd (heldOn tag) = [(k, i)] →
      warpOf s k i = some w → w.blocked = .page [tag] f →
      exec (.presp vd x) s = .next (takeFault (modWarp (setVd s vd { v with tags := Store.del v.tags tag }) k i
        (fun w => { w with blocked := .ready })) k i f)) ∧
    (∀ g page c n ok, (g ≠ v.gen.toNat ∨ ∀ e ∈ v.tags, e.2.ipa.toNat / 4096 = page.toNat / 4096 → e.2.pri = none) → stale (.priResponse vd g page c n ok)) ∧
    ((s.cores.map Prod.fst).Nodup → (∀ c ∈ s.cores, (c.2.copies.map Prod.fst).Nodup) →
      ∀ page n rq core entry o va c m,
        v.tags.find? (fun e => decide (e.2.ipa.toNat / 4096 = page.toNat / 4096) && e.2.pri.isSome) = some (n, rq) →
        Store.find (getCore s core).copies entry = some o → keyVd o.task = vd → o.st = .held n va →
        let leaves := fun ok st => ∃ t o', exec (.priResponse vd v.gen.toNat page c m ok) s = .next t ∧
          Store.find (getCore t core).copies entry = some o' ∧ o'.st = st ∧ o'.progress = o.progress ∧ Store.find (getVd t vd).tags n = none
        leaves true .going ∧ leaves false (.stopped 0x10 6))

/-- 03 R98, 11 R304, 14 R383: a START queues an invalidation of the VD; when the oldest completes, no cached translation of its range is
left, every other stays, and one of SIZE 3 lets walks use the root that it took. -/
def Sys2Proof.Claims.Invalidations : Prop :=
  ∀ (s : State) (vd : Nat),
    (∀ x : Word, x.getLsbD 2 = true → exec (.invalidateStart vd false x) s = .next s) ∧
    (∀ x : Word, x.getLsbD 2 = false → exec (.invalidateStart vd false x) s = .next (setVd s vd { getVd s vd with
      invsize := x.toNat % 4, invq := (getVd s vd).invq ++ if x.getLsbD 3 then
        [{ stage2 := false, va := (getVd s vd).invva, size := x.toNat % 4, root := (getVd s vd).s1root }] else [] })) ∧
    (∀ x : Word, exec (.invalidateStart vd true x) s = .next (setVd s vd { getVd s vd with
      invsize2 := x.toNat % 4, invq := (getVd s vd).invq ++ if x.getLsbD 3 then
        [{ stage2 := true, va := (getVd s vd).invva2, size := x.toNat % 4, root := (getVd s vd).s1root }] else [] })) ∧
    ((getVd s vd).invq = [] → exec (.invalidationComplete vd) s = .next s) ∧
    (∀ iv rest, (getVd s vd).invq = iv :: rest → ∃ t, exec (.invalidationComplete vd) s = .next t ∧ t.mem = s.mem ∧ t.tasks = s.tasks ∧
      (getVd t vd).invq.length = rest.length ∧ (getVd t vd).s1eff = (if iv.size = 3 then iv.root else (getVd s vd).s1eff) ∧
      let unit := if iv.size = 0 then 2 ^ 16 else if iv.size = 1 then 2 ^ 21 else 2 ^ 30
      let first := iv.va.toNat / unit * unit
      let hit := fun e : TlbEntry => e.vd = vd ∧ (iv.stage2 = true ∨ 3 ≤ iv.size ∨ (e.base < first + unit ∧ first < e.base + e.size))
      (∀ n e, (e ∈ (getCore t n).tlb ↔ e ∈ (getCore s n).tlb ∧ ¬ hit e) ∧ (e ∈ (getCore t n).copyTlb ↔ e ∈ (getCore s n).copyTlb ∧ ¬ hit e)) ∧
      ∀ d e, e ∈ Store.get [] t.dtlb d ↔ e ∈ Store.get [] s.dtlb d ∧ ¬ hit e)

/-- 14 R393, R394, 19 R478: consuming entries of the dirty log below 7/8 of its ring ends the throttle and lets what it held go on; a ring
that has been full for 100 ms ends the log. -/
def Sys2Proof.Claims.DirtyLog : Prop :=
  ∀ (s : State) (vd : Nat) (x : DWord),
    let v := getVd s vd
    let used := (v.dltail - x).toNat
    (7 * 2 ^ v.dllog ≤ 8 * used → exec (.dlheadWrite vd x) s = .next (setVd s vd { v with
      dlhead := x, dlFullSince := if used < 2 ^ v.dllog then none else v.dlFullSince })) ∧
    (8 * used < 7 * 2 ^ v.dllog → ∃ t, exec (.dlheadWrite vd x) s = .next t ∧ t.mem = s.mem ∧ (getVd t vd).thr = false ∧
      (getVd t vd).dlhead = x ∧ (getVd t vd).dlFullSince = none ∧
      ∀ k i y w, getTask s k = some y → y.vd = vd → getWarp y i = some w → w.blocked = .dirty →
        ∃ w', warpOf t k i = some w' ∧ w'.blocked = .ready ∧ w'.pc = w.pc) ∧
    ((v.dlFullSince = none ∨ v.logen = false ∨ (v.dltail - v.dlhead).toNat < 2 ^ v.dllog ∨
        (∀ n, v.dlFullSince = some n → s.timeNs - n < 10 ^ 8)) → exec (.dirtyLogFull vd) s = .next s) ∧
    (∀ n, v.dlFullSince = some n → v.logen = true → 2 ^ v.dllog ≤ (v.dltail - v.dlhead).toNat → 10 ^ 8 ≤ s.timeNs - n →
      ∃ t, exec (.dirtyLogFull vd) s = .next t ∧ (getVd t vd).logen = false ∧ (getVd t vd).ovf = true ∧
        ∀ k i y w, getTask s k = some y → y.vd = vd → getWarp y i = some w → w.blocked = .dirty →
          ∃ w', warpOf t k i = some w' ∧ w'.blocked = .ready ∧ w'.pc = w.pc)

/-- 19 R477: growth of a park overflow region answers its request: where it is granted the held warps look again, and where it is refused
each raises the fault that it holds. -/
def Sys2Proof.Claims.ParkGrowth : Prop :=
  ∀ (s : State) (n die : Nat) (p : Part), getPart s n = some p → die ∈ p.growReq →
    let cap := Store.get 32768 p.parkCap die
    let grown := fun i step => ∃ t q, exec i s = .next t ∧ getPart t n = some q ∧ q.growReq = p.growReq.erase die ∧ t.mem = s.mem ∧
      Store.get 32768 q.parkCap die = min 983040 (cap + step) ∧
      ∀ k j y w f, getTask s k = some y → partOf y.vd = n → y.die = die → getWarp y j = some w → w.blocked = .parkRoom f →
        ∃ w', warpOf t k j = some w' ∧ w'.blocked = .ready ∧ w'.pc = w.pc
    let refused := fun i => ∀ k j w f, parkHolders s n die = [(k, j, f)] → warpOf s k j = some w →
      exec i s = .next (takeFault (modWarp (setPart s n { p with growReq := p.growReq.erase die }) k j
        (fun w => { w with blocked := .ready })) k j f)
    (p.pmode.getLsbD 2 = false → cap < 983040 → grown (.parkGrowthHw n die true) 2048) ∧
    (p.pmode.getLsbD 2 = false → refused (.parkGrowthHw n die false)) ∧
    (∀ x : DWord, x.toNat / 2 ^ 54 % 4 = die → p.pmode.getLsbD 2 = true → x.toNat / 2 ^ 56 ≠ 0 → pkgrowOk s n x = true → cap < 983040 →
      grown (.pkgrowGrant n x) (2048 * (x.toNat / 2 ^ 56))) ∧
    (∀ x : DWord, x.toNat / 2 ^ 54 % 4 = die → p.pmode.getLsbD 2 = true → x.toNat / 2 ^ 56 = 0 → refused (.pkgrowRefuse n x))

/-- 19 R468, R469: ENGCTL resumes or aborts a stopped operation: resumed it goes on where it stopped; aborted its entry frees. A write that
names none is ignored, and one for a VD that is switched out waits until the VD runs. -/
def Sys2Proof.Claims.EngineControl : Prop :=
  ∀ (s : State) (vd gen core entry : Nat),
    let v := getVd s vd
    ((gen ≠ v.gen.toNat ∨ engStopped s vd core entry = false) →
      exec (.engctlResume vd gen core entry) s = .next s ∧ exec (.engctlAbort vd gen core entry) s = .next s) ∧
    (gen = v.gen.toNat → engStopped s vd core entry = true → vdRuns s vd = false →
      exec (.engctlResume vd gen core entry) s = .next (setVd s vd { v with engRec := v.engRec ++ [(core, entry, true)] }) ∧
      exec (.engctlAbort vd gen core entry) s = .next (setVd s vd { v with engRec := v.engRec ++ [(core, entry, false)] })) ∧
    (gen = v.gen.toNat → engStopped s vd core entry = true → vdRuns s vd = true →
      (∃ t, exec (.engctlResume vd gen core entry) s = .next t ∧ engineState t core entry = some .going ∧ t.mem = s.mem) ∧
      ∀ cause, stoppedAt s core entry cause → ∃ t, exec (.engctlAbort vd gen core entry) s = .next t ∧ engineState t core entry = none)

/-! Virtual devices, CXL.mem, clamping and wake, and the register windows (04 R119, 14 R379 to R398, 17 R428, R429, 19 R479). -/

namespace Sys2Proof.Claims

/-- The VD has no job, task, future word or engine operation. -/
def QuietVd (s : State) (vd : Nat) : Prop :=
  (∀ e ∈ s.jobs, e.2.vd ≠ vd) ∧ (∀ e ∈ s.tasks, e.2.vd ≠ vd) ∧ (∀ e ∈ s.futs, e.1 ≠ vd) ∧
  ∀ n e, e ∈ s.cores → n = e.1 → (∀ o ∈ e.2.copies, keyVd o.2.task ≠ vd) ∧ (∀ o ∈ e.2.gaeq, keyVd o.2.task ≠ vd)

/-- A VD whose context has been cleared (14 R386): its generation has increased, `HEAD` is `TAIL`, and what its tenant and the device hold
for it is gone. -/
structure Cleared (s t : State) (vd : Nat) : Prop where
  gen : (getVd t vd).gen = (getVd s vd).gen + 1
  head : (getVd t vd).qhead = queueTail s vd
  held : (getVd t vd).s1root = 0 ∧ (getVd t vd).tags = [] ∧ (getVd t vd).invq = [] ∧ (getVd t vd).adoptReqs = [] ∧
    (getVd t vd).engRec = [] ∧ (getVd t vd).held = [] ∧ (getVd t vd).rung = false ∧ (getVd t vd).tff = FrameRing.reset
  hosts : (getVd t vd).qbase = (getVd s vd).qbase ∧ (getVd t vd).s2root = (getVd s vd).s2root
  others : ∀ n, n ≠ vd → getVd t n = getVd s n

/-- The class of a partition's VD with the lowest WCLS (14 R396). -/
def LowestClass (s : State) (part cls : Nat) : Prop :=
  (∃ v ∈ partVds s part, (getVd s v).wcls = cls) ∧ ∀ v ∈ partVds s part, cls ≤ (getVd s v).wcls

/-- All VDs of a partition have been idle for the smallest IDLE among them, which is not 0 (14 R396). -/
def IdleLongEnough (s : State) (part : Nat) : Prop :=
  ∃ u ∈ partVds s part, (getVd s u).idle ≠ 0 ∧
    ∀ v ∈ partVds s part, (getVd s u).idle ≤ (getVd s v).idle ∧ vdIdle s v = true ∧
      (getVd s u).idle * 100000 ≤ s.timeNs - (getVd s v).idleSince

end Sys2Proof.Claims

/-- 14 R384 to R386: writes of VDCFG. While EN = 1 only SLICE and IDLE are taken; a refused creation leaves its reason in CERR and EN 0;
an accepted one, a write of 0 to EN, a VD reset and a function-level reset clear the VD. -/
def Obligations.VirtualDeviceLife : Prop :=
  ∀ (s : State) (vd : Nat) (cfg : DWord) (p : Part), getPart s (partOf vd) = some p → vd < 1024 →
    let v := getVd s vd
    let en := cfg.getLsbD 63
    let wcls := cfg.toNat / 2 ^ 61 % 4
    let slice := cfg.toNat / 2 ^ 53 % 2 ^ 8
    let qlog := cfg.toNat / 2 ^ 49 % 2 ^ 4
    let idle := cfg.toNat / 2 ^ 41 % 2 ^ 8
    let refused := fun n => exec (.vdCreate vd cfg) s =
      .next (setVd s vd { v with slice := slice, idle := idle, wcls := wcls, qlog := qlog, cerr := n })
    (v.en = true → en = true → exec (.registerWrite (.host vd) 0 cfg) s = .next (setVd s vd { v with slice := slice, idle := idle })) ∧
    (v.en = false → en = true →
      ((wcls = 3 ∨ (wcls = 0 ∧ s.fit.wzero = false) ∨ (wcls = 2 ∧ s.fit.farm = false)) → refused 1) ∧
      (wcls = 1 → (qlog < 4 ∨ 12 < qlog) → refused 3) ∧
      (wcls = 2 → s.fit.farm = true → 4 ≤ qlog → qlog ≤ 12 → saveBlocks s (partOf vd) = [] →
        ((freeFar s (partOf vd)).filter (fun b => !farLost s b)).length < saveNeed p → refused 2) ∧
      ((wcls = 1 ∨ (wcls = 0 ∧ s.fit.wzero = true)) → 4 ≤ qlog → qlog ≤ 12 → QuietVd s vd →
        ∃ t, exec (.vdCreate vd cfg) s = .next t ∧ Cleared s t vd ∧ (getVd t vd).en = true ∧ (getVd t vd).cerr = 0 ∧
          (getVd t vd).wcls = wcls ∧ (getVd t vd).qlog = qlog ∧ (getVd t vd).slice = slice ∧ (getVd t vd).idle = idle ∧
          (getVd t vd).invsize = 0 ∧ (getVd t vd).invsize2 = 0 ∧
          t.tasks.map Prod.fst = s.tasks.map Prod.fst)) ∧
    (v.en = true → QuietVd s vd →
      (en = false → ∃ t, exec (.vdDisable vd cfg) s = .next t ∧ Cleared s t vd ∧ (getVd t vd).en = false) ∧
      (∃ t, exec (.vdreset vd) s = .next t ∧ exec (.registerWrite (.host vd) 0x50 1) s = .next t ∧ Cleared s t vd ∧ (getVd t vd).en = true)) ∧
    (v.en = true → ∃ t, exec (.vdreset vd) s = .next t ∧ exec (.functionLevelReset vd) s = .next t ∧
      (∀ e ∈ t.tasks, e.2.vd ≠ vd) ∧ (∀ e ∈ t.futs, e.1 ≠ vd)) ∧
    (v.en = false → exec (.vdreset vd) s = .next s ∧ exec (.functionLevelReset vd) s = .next s ∧ exec (.vdDisable vd cfg) s = .next s)

/-- 04 R119, 14 R391, R398, 19 R479: a CXL.mem access outside its partition's window does nothing. One inside wakes a clamped partition, and
waits for the end of its wake. While the partition is awake and restored, a write stores its bytes at the places of the window, clears the
poison of whole sectors, and rings the VD whose TAIL it writes; a read changes no memory. -/
def Sys2Proof.Claims.CxlAccesses : Prop :=
  ∀ (s : State) (part off len : Nat) (data : List Byte),
    let place := fun i => hostByte s part (off + i)
    let inside := fun n => ∃ i, i < n ∧ windowPa s part (off + i) ≠ none
    let waits := fun i a => ∀ p, getPart s part = some p → p.clamp ≠ .awake → ∃ t q, exec i s = .next t ∧ t.mem = s.mem ∧ t.tasks = s.tasks ∧
      getPart t part = some q ∧ q.clamp = wokenBy s 0 p.clamp ∧ q.hostq = p.hostq ++ [a]
    (¬ inside len → exec (.cxlMemRead part off len) s = .next s) ∧
    (¬ inside data.length → exec (.cxlMemWrite part off data) s = .next s) ∧
    (inside len → waits (.cxlMemRead part off len) { write := false, off := off, len := len, data := [] }) ∧
    (inside data.length → waits (.cxlMemWrite part off data) { write := true, off := off, len := data.length, data := data }) ∧
    ∀ p, getPart s part = some p → p.clamp = .awake → p.unrestored = [] → p.hostq = [] →
      (∃ t, exec (.cxlMemRead part off len) s = .next t ∧ t.mem = s.mem ∧ t.poison = s.poison ∧ t.tasks = s.tasks) ∧
      ((∀ v ∈ partVds s part, zalnaProduces s v = false) → ∃ t, exec (.cxlMemWrite part off data) s = .next t ∧ t.tasks = s.tasks ∧
        (∀ i a, i < data.length → place i = some a → (∀ j, i < j → j < data.length → place j ≠ some a) →
          rdByte t.mem a = data.getD i 0) ∧
        (∀ a, (∀ i, i < data.length → place i ≠ some a) → rdByte t.mem a = rdByte s.mem a) ∧
        (∀ sec, (∀ i, i < 16 → ∃ j, j < data.length ∧ place j = some (16 * sec + i)) → Store.get false t.poison sec = false) ∧
        (∀ sec, (∃ i, i < 16 ∧ ∀ j, j < data.length → place j ≠ some (16 * sec + i)) →
          Store.get false t.poison sec = Store.get false s.poison sec) ∧
        ∀ v ∈ partVds s part, ((∃ pa j a, queuePlace s v 0 = some pa ∧ j < data.length ∧ place j = some a ∧ pa ≤ a ∧ a < pa + 8) →
          (getVd t v).rung = true ∧ (getVd t v).stopped = false))

/-- 14 R388, R396, R397, 17 R429: a partition clamps, to the class of its VD with the lowest WCLS, when all VDs have been idle for the
smallest IDLE; in host-assisted mode it proposes, and clamps when the host confirms and that still holds. Under W2 die memory goes to the
save area and is powered off. -/
def Sys2Proof.Claims.Clamping : Prop :=
  ∀ (s : State) (part cls : Nat) (p : Part), getPart s part = some p → p.clamp = .awake → p.cur = none → LowestClass s part cls →
    let clamped := if cls = 0 then { p with clamp := .clamped 0, proposal := none }
      else { p with clamp := .clamped cls, proposal := none, switchTo := none }
    let clamps := fun i => ∃ t, exec i s = .next t ∧ t = { setPart s part clamped with l2 := t.l2 } ∧ (cls = 0 → t.l2 = s.l2)
    (¬ IdleLongEnough s part → exec (.clamp part) s = .next s ∧ ∀ num, exec (.clampackConfirm part num) s = .next s) ∧
    (IdleLongEnough s part → p.pmode.getLsbD 4 = false → cls ≤ 1 → clamps (.clamp part)) ∧
    (IdleLongEnough s part → p.pmode.getLsbD 4 = false → cls = 2 → Memory.wf s.mem = true → (saveBlocks s part).Nodup → p.unrestored = [] →
      ∃ t, exec (.clamp part) s = .next t ∧ t = { setPart s part clamped with mem := t.mem, l2 := t.l2 } ∧
        (∀ w b pa, w < dieWindows s p → windowPa s part w = some pa → (saveBlocks s part)[w / 2 ^ 31]? = some b →
          rdByte t.mem (farPa (b * 2 ^ 31 + w % 2 ^ 31)) = rdByte s.mem pa) ∧
        (∀ a, inBays p a = true → rdByte t.mem a = 0) ∧
        ∀ a, inBays p a = false → (isFar a && elemOf (farBlockOf a) (saveBlocks s part)) = false → rdByte t.mem a = rdByte s.mem a) ∧
    (IdleLongEnough s part → p.pmode.getLsbD 4 = true → p.proposal = none → p.propAfter ≤ s.timeNs → ∃ t q r,
      exec (.clamp part) s = .next t ∧ t = { s with mem := t.mem, parts := t.parts } ∧ getPart t part = some q ∧
      q.proposal = some (p.propNext % 2 ^ 16) ∧ q.clamp = .awake ∧ r.cause = 0x45 ∧ r.detail = cls + part * 2 ^ 8 ∧
      r.info.toNat = p.propNext % 2 ^ 16 ∧ (queueFull p.eq = true → q.held = p.held ++ [recWords r]) ∧
      (queueFull p.eq = false → q.eq.tail = p.eq.tail + 1 ∧ StoresBytes s t
        (hostPa (p.eq.base.toNat + 64 * (p.eq.tail.toNat % 2 ^ p.eq.qlog))) ((recWords r).flatMap bytesOf))) ∧
    (∀ num, p.proposal = some num → IdleLongEnough s part → cls ≤ 1 → clamps (.clampackConfirm part num)) ∧
    (∀ num u, p.proposal = some num → u ∈ partVds s part → (getVd s u).idle ≠ 0 →
      (∀ v ∈ partVds s part, (getVd s u).idle ≤ (getVd s v).idle) →
      exec (.clampackDecline part num) s =
        .next (setPart s part { p with proposal := none, propAfter := s.timeNs + (getVd s u).idle * 100000 })) ∧
    (∀ num, p.proposal ≠ some num → exec (.clampackConfirm part num) s = .next s ∧ exec (.clampackDecline part num) s = .next s)

/-- 14 R397 to R399, 21 R499, R501: a wake write begins the wake of a clamped partition; when it completes tasks may be placed, and one
that took longer than its class's bound is reported. Under W2 the 64 KiB ranges of die memory are then restored from the save area, each once,
those demanded first in their order and the others from the lowest. -/
def Sys2Proof.Claims.WakeAndRestore : Prop :=
  ∀ (s : State) (part vd : Nat) (p : Part), getPart s part = some p →
    (∀ cls, p.clamp = .clamped cls → partOf vd = part →
      exec (.wake vd) s = .next (setPart s part { p with clamp := .waking cls vd s.timeNs })) ∧
    ((∀ cls, p.clamp ≠ .clamped cls) → partOf vd = part → exec (.wake vd) s = .next s) ∧
    (∀ cls since micros, p.clamp = .waking cls vd since → railsShut s p ≠ [] → exec (.wakeComplete part micros []) s = .next s) ∧
    (∀ cls since micros, p.clamp = .waking cls vd since → cls ≤ 2 → railsShut s p = [] → p.hostq = [] →
      let now := max s.timeNs (since + 1000 * micros)
      let took := (now - since) / 1000
      let bound := if cls = 0 then 200 else if cls = 1 then 2000 else 20000
      ∃ t q, exec (.wakeComplete part micros []) s = .next t ∧ getPart t part = some q ∧ q.clamp = .awake ∧ t.timeNs = now ∧
        t.tasks = s.tasks ∧ q.unrestored = (if cls = 2 then [(0, dieWindows s p / 2 ^ 16)] else p.unrestored) ∧
        (took ≤ bound → t.firex.log = s.firex.log ∧ t.mem = s.mem) ∧
        (bound < took → ∃ r, newestLog t [part] r ∧ r.cause = 0x22 ∧ r.unit = 11 ∧ r.detail = cls + part * 2 ^ 8 ∧
          r.info = BitVec.ofNat 64 took ∧ r.prec = false ∧ r.pc = 0)) ∧
    (∀ off, let r := off / 2 ^ 16
      ((p.clamp ≠ .awake ∨ (p.demand ++ p.unrestored.map Prod.fst).head? ≠ some r) → exec (.w2Restore part off) s = .next s) ∧
      (p.clamp = .awake → (p.demand ++ p.unrestored.map Prod.fst).head? = some r → p.hostq = [] →
        (p.unrestored.Pairwise (fun a b => a.2 ≤ b.1)) → (∀ e ∈ p.unrestored, e.1 < e.2) → (∃ e ∈ p.unrestored, e.1 ≤ r ∧ r < e.2) →
        ∃ t q, exec (.w2Restore part off) s = .next t ∧ getPart t part = some q ∧
          q = { p with unrestored := q.unrestored, demand := p.demand.filter (fun x => decide (x ≠ r)) } ∧
          (∀ n, (∃ e ∈ q.unrestored, e.1 ≤ n ∧ n < e.2) ↔ ((∃ e ∈ p.unrestored, e.1 ≤ n ∧ n < e.2) ∧ n ≠ r)) ∧
          (Memory.wf s.mem = true → (∀ a, inBays p a = true → rdByte s.mem a = 0) → ∀ b w pa, (saveBlocks s part)[r / 2 ^ 15]? = some b →
            farLost s b = false → w / 2 ^ 16 = r → windowPa s part w = some pa → w < dieWindows s p →
            rdByte t.mem pa = rdByte s.mem (farPa (b * 2 ^ 31 + w % 2 ^ 31)))))

/-- 14 R379, R383, R388, R389, R393, R401, 13 R359, 17 R428, R429: what writes to the register windows do, and where BAR0 holds them. Offsets
that are not listed ignore writes. -/
def Sys2Proof.Claims.RegisterWindows : Prop :=
  ∀ (s : State) (x : DWord),
    (∀ part p, getPart s part = some p →
      exec (.registerWrite (.part part) 0x000 x) s = .next (if partVds s part = [] then setPart s part { p with pmode := x &&& 0x7F } else s) ∧
      exec (.registerWrite (.part part) 0x008 x) s = .next (setPart s part { p with pctl := x &&& 1 }) ∧
      exec (.registerWrite (.part part) 0x010 x) s = exec (.pvoteWrite part x) s ∧
      exec (.registerWrite (.part part) 0x0D0 x) s =
        (if x.getLsbD 0 then exec (.clampackConfirm part (x.toNat / 2 ^ 32 % 2 ^ 16)) s else exec (.clampackDecline part (x.toNat / 2 ^ 32 % 2 ^ 16)) s) ∧
      (x.toNat % 4 = 1 → exec (.registerWrite (.part part) 0x0D8 x) s = exec (.triageFence part (x.toNat / 2 ^ 32 % 2 ^ 16)) s) ∧
      (x.toNat % 4 = 2 → exec (.registerWrite (.part part) 0x0D8 x) s = exec (.triageRetire part (x.toNat / 2 ^ 32 % 2 ^ 16)) s) ∧
      (∀ off, 0xE0 ≤ off → exec (.registerWrite (.part part) off x) s = .next s)) ∧
    (∀ vd p, vd < 1024 → getPart s (partOf vd) = some p →
      let v := getVd s vd
      exec (.registerWrite (.host vd) 0x010 x) s = .next (if v.en then s else setVd s vd { v with qbase := x }) ∧
      exec (.registerWrite (.host vd) 0x018 x) s = .next (if v.en then s else setVd s vd { v with s2root := x }) ∧
      exec (.registerWrite (.host vd) 0x030 x) s = .next (setVd s vd { v with dlbase := x }) ∧
      (let n := x.toNat % 2 ^ 5
       exec (.registerWrite (.host vd) 0x038 x) s = .next (setVd s vd (if 10 ≤ n ∧ n ≤ 20 then
         { v with dllog := n, logen := x.getLsbD 31, ovf := v.ovf && !x.getLsbD 30 } else v)) ∧
       exec (.registerWrite (.host vd) 0x068 x) s = .next (setVd s vd { v with eq := if 6 ≤ n ∧ n ≤ 16 then
         { v.eq with en := x.getLsbD 31, qlog := n, drop := (BitVec.ofNat 32 v.eq.drop &&& ~~~(BitVec.ofNat 32 (x.toNat / 2 ^ 8 % 2 ^ 16))).toNat }
         else v.eq })) ∧
      exec (.registerWrite (.host vd) 0x070 x) s = .next (setVd s vd { v with eq := { v.eq with head := x } }) ∧
      exec (.registerWrite (.host vd) 0x040 x) s = exec (.dlheadWrite vd x) s ∧
      exec (.registerWrite (.host vd) 0x058 x) s = exec (.wake vd) s ∧
      exec (.registerWrite (.host vd) 0x080 x) s = exec (.presp vd x) s ∧
      (∀ off, 0x90 ≤ off → exec (.registerWrite (.host vd) off x) s = .next s ∧ exec (.registerWrite (.tenant vd) off x) s = .next s) ∧
      (v.en = false → ∀ off, exec (.registerWrite (.tenant vd) off x) s = .next s) ∧
      (v.en = true → exec (.registerWrite (.tenant vd) 0x000 x) s = .next (setVd s vd { v with s1root := x }) ∧
        exec (.registerWrite (.tenant vd) 0x008 x) s = .next (setVd s vd { v with invva := x }) ∧
        exec (.registerWrite (.tenant vd) 0x018 x) s = exec (.wake vd) s ∧
        exec (.registerWrite (.tenant vd) 0x040 x) s = .next (setVd s vd { v with adoptWait := x }) ∧
        exec (.registerWrite (.tenant vd) 0x048 x) s = exec (.adoptAnswer vd x) s)) ∧
    (let a := fun i => Store.get 0 s.firex.args i
     (∀ i, i < 4 → exec (.registerWrite .mailbox (0x10 + 8 * i) x) s =
       .next { s with firex := { s.firex with args := Store.set 0 s.firex.args i x } }) ∧
     (s.firex.move = none →
       (s.firex.busy = true → exec (.registerWrite .mailbox 0 x) s = .next s) ∧
       (s.firex.busy = false → s.firex.running.isSome = true →
         (x.toNat % 256 = 1 → exec (.registerWrite .mailbox 0 x) s = exec (.pcreate (a 0).toNat (a 1) (a 2) (a 3)) s) ∧
         (x.toNat % 256 = 2 → exec (.registerWrite .mailbox 0 x) s = exec (.pdestroy (a 0).toNat) s) ∧
         (x.toNat % 256 = 3 → exec (.registerWrite .mailbox 0 x) s = exec (.capmove (a 0).toNat (a 1).toNat (a 2).toNat) s) ∧
         (x.toNat % 256 = 4 → exec (.registerWrite .mailbox 0 x) s = exec (.attest (a 0) (a 1)) s) ∧
         (x.toNat % 256 = 5 → exec (.registerWrite .mailbox 0 x) s = exec (.fwstage (a 0) (a 1) ((a 3).getLsbD 0)) s) ∧
         (x.toNat % 256 = 6 → exec (.registerWrite .mailbox 0 x) s = exec (.errlog (a 0).toNat (a 1) (a 2)) s))) ∧
     (∀ mv, s.firex.move = some mv → x.toNat % 256 = 3 → a 0 = 1 →
       exec (.registerWrite .mailbox 0 x) s = exec (.capmoveConfirm none) s)) ∧
    ((∀ off, off < 0x30 → exec (.registerWrite .bar0 off x) s = exec (.registerWrite .mailbox off x) s) ∧
      (∀ off, off < 0x10000 → exec (.registerWrite .bar0 (0x10000 + off) x) s = exec (.registerWrite .launchTable off x) s) ∧
      (∀ n off, n < 64 → off < 0x1000 → exec (.registerWrite .bar0 (0x100000 + 0x1000 * n + off) x) s = exec (.registerWrite (.part n) off x) s) ∧
      ∀ n off, n < 1024 → off < 0x1000 → exec (.registerWrite .bar0 (0x200000 + 0x1000 * n + off) x) s = exec (.registerWrite (.host n) off x) s) ∧
    (∀ n w, n < 1024 → w < 8 → exec (.registerWrite .launchTable (64 * n + 8 * w) x) s =
      .next { s with zlaunch := Store.set 0 s.zlaunch (8 * n + w) (if w = 0 then x &&& 0x83FFFFFFFFFFFFFF else x) })

/-! Operating points, thermal stages, rails, the loss of a die, links, memory channels and data errors (14 R404, R406, 17 R421, R422, R429,
R433, R434, 19 R479, 20 R484, R486, 21 R499 to R511, R514). -/

namespace Sys2Proof.Claims

/-- The partition has cores in the package region `j`, which holds bays 4j to 4j + 3 (01 R29). -/
def CoresIn (p : Part) (j : Nat) : Prop := ∃ b, b < 4 ∧ p.bays.getLsbD (4 * j + b) = true

/-- A region of the package that some partition that is not clamped uses. -/
def ActiveRegion (s : State) (j : Nat) : Prop := j < 4 * dieCount s ∧ ∃ e ∈ s.parts, CoresIn e.2 j ∧ e.2.clamp = .awake

/-- A UNIT_LOST record of class H (21 R499, R500). -/
def LostRec (r : Rec) (unit reason hi info : Nat) : Prop :=
  r.cause = 0x1F ∧ r.unit = unit ∧ r.detail = reason + hi * 2 ^ 8 ∧ r.info = BitVec.ofNat 64 info ∧ r.prec = false ∧ r.pc = 0 ∧ r.task = 0

/-- No partition triages errors with its host (14 R388). -/
def HardwareTriage (s : State) : Prop := ∀ e ∈ s.parts, e.2.pmode.getLsbD 5 = false

/-- The bandwidth factor of a thermal stage (21 R503). -/
def factorOf (stage : Nat) : Nat := if stage = 0 then 64 else if stage = 1 then 60 else 45

end Sys2Proof.Claims

/-- 14 R404: a write of PVOTE sets each region's operating point to the lowest-numbered vote of the partitions with cores there that are
not clamped, where no controller holds the region, and each rail to the voltage of its lowest point. -/
def Sys2Proof.Claims.VotesSetPoints : Prop :=
  ∀ (s : State) (part : Nat) (value : DWord) (p : Part), getPart s part = some p →
    ∃ t, exec (.pvoteWrite part value) s = .next t ∧ getPart t part = some { p with pvote := value &&& 0x7777777777777777 &&& BitVec.ofNat 64 (2 ^ (16 * dieCount s) - 1) } ∧
      t = { s with parts := t.parts, point := t.point, volts := t.volts } ∧
      (∀ r, r < 2 * dieCount s → Store.get 900 t.volts r = pointMilliVolts (min (min 4 (pointOf t (2 * r))) (pointOf t (2 * r + 1)))) ∧
      ∀ j, j < 4 * dieCount s → dieHot s (j / 4) = false → raisedIn s j = false →
        Store.get Rail.up s.rails (2 * (j / 4) + j % 4 / 2) ≠ .disabled →
        let vote := fun q : Part => min 4 (q.pvote.toNat / 2 ^ (4 * j) % 8)
        (∀ e ∈ t.parts, CoresIn e.2 j → e.2.clamp = .awake → pointOf t j ≤ vote e.2) ∧
        ((∃ e ∈ t.parts, CoresIn e.2 j ∧ e.2.clamp = .awake) →
          ∃ e ∈ t.parts, CoresIn e.2 j ∧ e.2.clamp = .awake ∧ pointOf t j = vote e.2) ∧
        ((∀ e ∈ t.parts, CoresIn e.2 j → e.2.clamp ≠ .awake) → pointOf t j = pointOf s j)

/-- 14 R406: the power controller first halves LTCAP in every active region, down to 1, and then steps the points of the highest-clocked
regions, down to point 4; undoing a halving restores every LTCAP. -/
def Sys2Proof.Claims.PowerSteps : Prop :=
  ∀ (s : State),
    ((∃ j, ActiveRegion s j ∧ 1 < ltcapOf s j) → ∃ t, exec .powerLimitStep s = .next t ∧ t = { s with power := t.power, ltcap := t.ltcap } ∧
      (∀ j, ActiveRegion s j → ltcapOf t j = max 1 (ltcapOf s j / 2)) ∧ (∀ j, ¬ ActiveRegion s j → ltcapOf t j = ltcapOf s j) ∧
      ∃ u, exec .powerLimitRelax t = .next u ∧ u.power = s.power ∧ ∀ j, ltcapOf u j = ltcapOf s j) ∧
    (∀ m, (∀ j, ActiveRegion s j → ltcapOf s j ≤ 1 ∧ m ≤ pointOf s j) → (∃ j, ActiveRegion s j ∧ pointOf s j = m) → m < 4 →
      ∃ t, exec .powerLimitStep s = .next t ∧ t = { s with power := t.power, point := t.point, volts := t.volts } ∧
        (∀ j, ActiveRegion s j → pointOf s j = m → pointOf t j = m + 1) ∧
        ∀ j, (¬ ActiveRegion s j ∨ pointOf s j ≠ m) → pointOf t j = pointOf s j) ∧
    ((∀ j, ActiveRegion s j → ltcapOf s j ≤ 1 ∧ 4 ≤ pointOf s j) → exec .powerLimitStep s = .next s) ∧
    (s.power = [] → exec .powerLimitRelax s = .next s)

/-- 21 R499, R500, R503: each change of a bandwidth factor posts UNIT_LOST reason 8 with the factors; stage 3 steps every region of the
die to point 4. -/
def Sys2Proof.Claims.ThermalStages : Prop :=
  ∀ (s : State) (far : Bool) (unit stage : Nat),
    let key := if far then 4 + unit else unit
    let die := if far then channelDie s unit else unit
    (3 < stage → exec (.thermalStage far unit stage) s = .next s) ∧
    (stage ≤ 3 → die < dieCount s → (far = true → unit < 32) → ∃ t, exec (.thermalStage far unit stage) s = .next t ∧
      thermalOf t key = stage ∧ (∀ k, k ≠ key → thermalOf t k = thermalOf s k) ∧ t.tasks = s.tasks ∧ t.jobs = s.jobs ∧
      (stage = 3 → ∀ q, q < 4 → pointOf t (4 * die + q) = 4) ∧
      (factorOf stage = factorOf (thermalOf s key) → t.firex.log = s.firex.log ∧ t.mem = s.mem) ∧
      (factorOf stage ≠ factorOf (thermalOf s key) → ∃ ps r info, newestLog t ps r ∧ LostRec r 8 8 die info ∧
        info % 2 ^ 8 = (if far then factorOf (thermalOf s die) else factorOf stage) ∧ (far = true → info / 2 ^ 8 = factorOf stage) ∧
        (far = false → ps = dieParts s die)))

/-- 21 R505, R506, R500: a droop is only logged; a shut rail's cores lose what they hold, and every task of their nests is gone; a restart
is reported once for each region, and after a failed one the cores stay disabled. -/
def Sys2Proof.Claims.Rails : Prop :=
  ∀ (s : State) (die rail : Nat), die < dieCount s → rail < 2 →
    let region := 4 * die + 2 * rail
    let cores := fun c => 48 * die + 24 * rail ≤ c ∧ c < 48 * die + 24 * rail + 24
    (railState s die rail = some .up → ∃ t r, exec (.railDroop die rail) s = .next t ∧ newestLog t [] r ∧ railState t die rail = some .droop ∧
      t = { s with rails := t.rails, firex := t.firex } ∧ exec (.railVoltageRecovered die rail) t =
        .next { t with rails := Store.set Rail.up t.rails (2 * die + rail) .up }) ∧
    ((railState s die rail = some .up ∨ railState s die rail = some .droop) → ∃ t, exec (.railShut die rail) s = .next t ∧
      railState t die rail = some .shut ∧
      (∀ k ∈ nestsOn s (railCores die rail), getTask t k = none) ∧
      (nestsOn s (railCores die rail) = [] → t = { s with cores := t.cores, rails := t.rails } ∧
        (∀ c, cores c → getCore t c = loseCore (getCore s c)) ∧ ∀ c, ¬ cores c → getCore t c = getCore s c)) ∧
    (∀ c : Core, let l := loseCore c
      l.slots = [] ∧ l.flight = [] ∧ l.store = [] ∧ l.gate = [] ∧ l.consts = [] ∧ l.l1 = [] ∧ l.tlb = [] ∧ l.monitor = [] ∧
      l.copies = c.copies ∧ l.badcell = c.badcell ∧ l.disabled = c.disabled ∧
      ∀ e ∈ c.gaeq, (∃ n o a d, e.2.kind = .run n o a d) → e ∈ l.gaeq) ∧
    (railState s die rail = some .shut →
      (∃ t r₁ r₂ p₁ p₂ rest, exec (.railRestart die rail true) s = .next t ∧ railState t die rail = some .up ∧
        t.firex.log = (p₂, recWords r₂) :: (p₁, recWords r₁) :: rest ∧ LostRec r₁ 11 1 region 0 ∧ LostRec r₂ 11 1 (region + 1) 0 ∧
        t.cores = s.cores) ∧
      (∃ t r₁ r₂ p₁ p₂ rest, exec (.railRestart die rail false) s = .next t ∧ railState t die rail = some .disabled ∧
        t.firex.log = (p₂, recWords r₂) :: (p₁, recWords r₁) :: rest ∧ LostRec r₁ 11 2 region (2 ^ (24 * rail) * (2 ^ 24 - 1)) ∧
        LostRec r₂ 11 2 (region + 1) (2 ^ (24 * rail) * (2 ^ 24 - 1)) ∧
        (∀ c, cores c → getCore t c = { getCore s c with disabled := true }) ∧ ∀ c, ¬ cores c → getCore t c = getCore s c)) ∧
    (railState s die rail ≠ some .shut → ∀ b, exec (.railRestart die rail b) s = .next s)

/-- 21 R507, R500: a lost die leaves service with its cores and tasks, every job with tasks on it is killed, and the loss is reported. -/
def Sys2Proof.Claims.DieLoss : Prop :=
  ∀ (s : State) (die : Nat),
    (dieUp s die = false → exec (.dieLost die) s = .next s) ∧
    (dieUp s die = true → ∃ t ps r, exec (.dieLost die) s = .next t ∧ dieUp t die = false ∧ newestLog t ps r ∧ LostRec r 11 3 die 0 ∧
      (∀ e ∈ t.tasks, e.2.die ≠ die) ∧
      (∀ c, c / 48 = die → (getCore t c).slots = [] ∧ (getCore t c).copies = [] ∧ (getCore t c).gaeq = [] ∧ (getCore t c).flight = [] ∧
        (getCore t c).badcell = (getCore s c).badcell) ∧
      ((∀ e ∈ s.jobs, e.1 = jobKey e.2.vd e.2.num) → ∀ e ∈ s.jobs, die ∈ e.2.dies →
        (∃ ix, dieLo e.2 (dieRank e.2 die) ≤ ix ∧ ix < dieLo e.2 (dieRank e.2 die + 1) ∧ Store.find e.2.done ix = none) →
        getJob t e.2.vd e.2.num = none))

/-- 21 R508, R509, R514, R500: a lane error is mapped to a spare while one is left; past them a boundary loses the lane's group and is
narrowed, or below 256 lanes disabled, and a Zalna port is disabled. -/
def Sys2Proof.Claims.LinkLanes : Prop :=
  ∀ (s : State) (i dir lane : Nat) (l l' : LinkState), l' = { l with failed := l.failed ++ [lane] } → l.groups = [] → lane ∉ l.failed →
    (∀ (x : Instr), x = .boundaryLaneError i dir lane → i < boundCount s → dir < 2 → lane < 512 →
      Store.get linkReset s.bounds (2 * i + dir) = l →
      let put := fun v => { s with bounds := Store.put s.bounds (2 * i + dir) v }
      let n := 512 - 32 * (((l'.failed.drop 16).map (fun m => m / 32)).dedup).length
      (l.failed.length < 16 → exec x s = .next (put l')) ∧
      (16 ≤ l.failed.length → 256 ≤ n → ∃ t ps r, exec x s = .next t ∧ newestLog t ps r ∧ LostRec r 10 4 i n ∧
        t.bounds = (put l').bounds ∧ t.tasks = s.tasks) ∧
      (16 ≤ l.failed.length → n < 256 → l.disabled = false → ∃ t ps r, exec x s = .next t ∧ newestLog t ps r ∧ LostRec r 10 5 i 0 ∧
        t.bounds = (put { l' with disabled := true }).bounds ∧ t.tasks = s.tasks)) ∧
    (∀ (x : Instr) (port : Nat), x = .zalnaLaneError port dir lane → s.fit.fourDies = true → port < 8 → s.fit.zports.getLsbD port = true →
      dir < 2 → Store.get linkReset s.zlinks (2 * port + dir) = l →
      let put := fun v => { s with zlinks := Store.put s.zlinks (2 * port + dir) v }
      (l.failed.length < 8 → exec x s = .next (put l')) ∧
      (8 ≤ l.failed.length → l.disabled = false → ∃ t ps r, exec x s = .next t ∧ newestLog t ps r ∧ LostRec r 10 9 port 0 ∧
        t.zlinks = (put { l' with disabled := true }).zlinks ∧ t.tasks = s.tasks))

/-- 21 R510, R511, R500: a lasting fault of a die-memory channel is logged and takes one of the die's four spares, and with none left the channel is lost;
a lost far-memory channel keeps its owners. -/
def Sys2Proof.Claims.MemoryChannels : Prop :=
  ∀ (s : State),
    (∀ (die slice : Nat) (unreadable : List Nat), HardwareTriage s → die < dieCount s → slice < 64 →
      Store.get false s.lostSlices (64 * die + slice) = false → ∃ t ps r n, exec (.channelFault die slice unreadable) s = .next t ∧
      newestLog t ps r ∧ LostRec r 8 7 (64 * die + slice) n ∧ t.tasks = s.tasks ∧
      (∃ ps' r' rest, t.firex.log = (ps, recWords r) :: (ps', recWords r') :: rest ∧ r'.cause = 0x12 ∧ r'.last = true) ∧
      (∀ o ∈ unreadable, o < 2 ^ 30 → Store.get false t.poison (((64 * die + slice) * 2 ^ 30 + o) / 16) = true) ∧
      (Store.get 0 s.sparesUsed die < 4 → n = 1 ∧ Store.get 0 t.sparesUsed die = Store.get 0 s.sparesUsed die + 1 ∧ t.lostSlices = s.lostSlices) ∧
      (4 ≤ Store.get 0 s.sparesUsed die → n = 2 ∧ Store.get false t.lostSlices (64 * die + slice) = true ∧ t.sparesUsed = s.sparesUsed)) ∧
    (∀ ch, s.fit.farm = true → ch < 32 → Store.get false s.lostFarCh ch = false → ∃ t ps r, exec (.farChannelLost ch) s = .next t ∧
      newestLog t ps r ∧ LostRec r 8 6 ch 0xFFFF ∧ Store.get false t.lostFarCh ch = true ∧ t.firex.farOwner = s.firex.farOwner ∧
      ∀ b, b / 16 = ch → farLost t b = true)

/-- 17 R421, R422, R433, R434, 19 R479: a transient error is only logged, and the sixteenth of a unit within a second counts as lasting; a
lasting one is logged with LAST and contained in the unit that holds it; a patrol read makes no other record. -/
def Sys2Proof.Claims.DataErrors : Prop :=
  ∀ (s : State) (place : ErrPlace) (syn : DWord),
    let recent := (Store.get [] s.firex.transient (placeUnit place)).filter (fun t => decide (s.timeNs - t ≤ 1000000000))
    (recent.length < 15 → ∃ t ps r, exec (.dataErrorDetected place syn false) s = .next t ∧ t = { s with firex := t.firex } ∧
      newestLog t ps r ∧ r.cause = 0x12 ∧ r.last = false ∧ r.info = syn) ∧
    (15 ≤ recent.length → ∃ m, Store.find m (placeUnit place) = none ∧ exec (.dataErrorDetected place syn false) s =
      exec (.dataErrorDetected place syn true) { s with firex := { s.firex with transient := m } }) ∧
    (∀ off, place = .farSector off → ∃ t ps r, exec (.dataErrorDetected place syn true) s = .next t ∧ newestLog t ps r ∧ r.cause = 0x12 ∧
      r.last = true ∧ Store.get false t.poison (farPa off / 16) = true ∧ (∀ n, n ≠ farPa off / 16 → Store.get false t.poison n =
        Store.get false s.poison n) ∧ (∀ a, isHost a = false → rdByte t.mem a = rdByte s.mem a) ∧ t.tasks = s.tasks) ∧
    (∀ die off, place = .dieSector die off → HardwareTriage s → ∃ t, exec (.dataErrorDetected place syn true) s = .next t ∧
      Store.get false t.poison ((die * 2 ^ 36 + off) / 16) = true ∧ t.tasks = s.tasks ∧
      (Store.get false s.lostSlices (64 * die + off / 2 ^ 30 % 64) = false → Store.get 0 s.sparesUsed die < 4 →
        Store.get 0 t.sparesUsed die = Store.get 0 s.sparesUsed die + 1)) ∧
    (∀ k i r l w, place = .register k i r l → warpOf s k i = some w → ∃ t w', exec (.dataErrorDetected place syn true) s = .next t ∧
      warpOf t k i = some w' ∧ w' = { w with lostRegs := w'.lostRegs } ∧ Store.get false w'.lostRegs (32 * r + l) = true ∧
      ∀ n, n ≠ 32 * r + l → Store.get false w'.lostRegs n = Store.get false w.lostRegs n) ∧
    (∀ k off x, place = .sharedWord k off → getTask s k = some x → ∃ t y, exec (.dataErrorDetected place syn true) s = .next t ∧
      getTask t k = some y ∧ y = { x with lostShared := y.lostShared } ∧ Store.get false y.lostShared (off / 4) = true) ∧
    (∀ link, exec (.flitCrcError link true) s = exec (.dataErrorDetected (.link link) 0 true) s ∧
      exec (.flitCrcError link false) s = exec (.dataErrorDetected (.link link) 0 false) s) ∧
    (∀ die off lasting, dieUp s die = true → die < 4 →
      let before := (Store.get [] s.firex.transient (placeUnit (.dieSector die off))).filter (fun t => decide (s.timeNs - t ≤ 1000000000))
      ∃ t ps r, exec (.patrolRead die off lasting) s = .next t ∧ newestLog t ps r ∧ r.cause = 0x12 ∧
      r.last = (lasting || decide (15 ≤ before.length)) ∧ t = { s with firex := t.firex, poison := t.poison } ∧
      (r.last = false → t.poison = s.poison) ∧ (r.last = true → Store.get false t.poison ((die * 2 ^ 36 + off) / 16) = true))

/-- 17 R429, R434, 20 R484, R486, 14 R388: a lasting error of a cell fences it, which the fence list keeps; in host-assisted triage it is
posted first, and the host's answer of its number fences or retires the unit. -/
def Sys2Proof.Claims.FencingAndTriage : Prop :=
  ∀ (s : State) (core cell : Nat) (syn : DWord), cell < 64 →
    let x := Instr.dataErrorDetected (.cell core cell) syn true
    let bad := (getCore s core).badcell ||| (1#64 <<< cell)
    (HardwareTriage s → (getCore s core).badcell.getLsbD cell = false → ∃ t, exec x s = .next t ∧ (getCore t core).badcell = bad ∧
      Store.find t.firex.fences core = some bad) ∧
    (∀ pn p, partOfCore s core = some pn → getPart s pn = some p → p.pmode.getLsbD 5 = true → (getCore s core).slots = [] →
      ∃ t q r, exec x s = .next t ∧ getPart t pn = some q ∧ q.triage = p.triage ++ [{ num := p.triNext % 2 ^ 16, place := .cell core cell }] ∧
        (getCore t core).badcell = (getCore s core).badcell ∧ r.cause = 0x47 ∧ r.unit = 1 ∧ r.core = core ∧ r.addr.toNat = cell ∧
        r.info.toNat = p.triNext % 2 ^ 16 * 2 ^ 48 + syn.toNat % 2 ^ 48 ∧
        (queueFull p.eq = true → q.held = p.held ++ [recWords r]) ∧
        (queueFull p.eq = false → ∀ n, n < 64 →
          rdByte t.mem (hostPa (p.eq.base.toNat + 64 * (p.eq.tail.toNat % 2 ^ p.eq.qlog)) + n) = ((recWords r).flatMap bytesOf).getD n 0) ∧
        (∀ a, isHost a = false → rdByte t.mem a = rdByte s.mem a)) ∧
    (∀ pn p num, getPart s pn = some p → (∀ y ∈ p.triage, y.num ≠ num) →
      exec (.triageFence pn num) s = .next s ∧ exec (.triageRetire pn num) s = .next s) ∧
    (∀ pn p num, getPart s pn = some p → p.triage = [{ num := num, place := .cell core cell }] →
      (getCore s core).badcell.getLsbD cell = false →
      ∀ y, (y = Instr.triageFence pn num ∨ y = .triageRetire pn num) → ∃ t, exec y s = .next t ∧ (getCore t core).badcell = bad) ∧
    (∀ pn p num die off, getPart s pn = some p → p.triage = [{ num := num, place := .dieSector die off }] →
      Store.get false s.lostSlices (64 * die + off / 2 ^ 30 % 64) = false →
      (Store.get 0 s.sparesUsed die < 4 → ∃ t, exec (.triageFence pn num) s = .next t ∧
        Store.get 0 t.sparesUsed die = Store.get 0 s.sparesUsed die + 1) ∧
      ∃ t, exec (.triageRetire pn num) s = .next t ∧ t.sparesUsed = s.sparesUsed ∧
        Store.get false t.lostSlices (64 * die + off / 2 ^ 30 % 64) = true)

/-! Firex: partitions, capacity moves, attestation, firmware, its log and power-on reset (14 R375 to R381, R388, R407 to R409, 17 R429,
R430, 20 R486, 21 R511 to R518). -/

namespace Sys2Proof.Claims

/-- The mailbox after a command has ended with a result code (14 R379). -/
def Ended (t : State) (code : Nat) : Prop := t.firex.busy = false ∧ t.firex.code = BitVec.ofNat 8 code

/-- An event that a partition's queue holds in memory, or that waits for room (17 R428). -/
def PostedPart (s t : State) (pn : Nat) (p : Part) (awaits : Bool) (r : Rec) : Prop :=
  ∃ q, getPart t pn = some q ∧
    (queueFull p.eq = true → t.mem = s.mem ∧ (awaits = true → q.held = p.held ++ [recWords r])) ∧
    (queueFull p.eq = false → q.eq.tail = p.eq.tail + 1 ∧
      StoresBytes s t (hostPa (p.eq.base.toNat + 64 * (p.eq.tail.toNat % 2 ^ p.eq.qlog))) ((recWords r).flatMap bytesOf))

/-- Slot `n` may boot: its image is not below the rollback counter (14 R407). -/
def Eligible (s : State) (n : Nat) (x : FwSlot) : Prop := (n, x) ∈ s.firex.slots ∧ s.firex.counter.toNat ≤ x.version.toNat

end Sys2Proof.Claims

/-- 14 R375, R377 to R379, R388: creation gives free bays and blocks to a new partition, with its mode word and reset registers; bays or
blocks that belong to another are refused. Destruction leaves zeros in its memory and cores and frees its blocks. -/
def Sys2Proof.Claims.PartitionLifecycle : Prop :=
  ∀ (s : State) (part : Nat) (bays list mode : DWord),
    let blocks := farList s list
    let x := Instr.pcreate part bays list mode
    let refused := ∃ t, exec x s = .next t ∧ t.parts = s.parts ∧ t.firex.farOwner = s.firex.farOwner ∧ t.firex.busy = false ∧ t.firex.code ≠ 0
    (firexTakes s = false → exec x s = .next s ∧ exec (.pdestroy part) s = .next s) ∧
    (firexTakes s = true →
      (((getPart s part).isSome = true ∨ bays = 0 ∨ 64 ≤ part ∨ (∃ e ∈ s.parts, e.2.bays &&& bays ≠ 0) ∨
        (∃ b ∈ blocks, (Store.find s.firex.farOwner b).isSome = true) ∨ ¬ blocks.Nodup) → refused) ∧
      (createOk s part bays blocks = true → ∃ t q, exec x s = .next t ∧ Ended t 0 ∧ getPart t part = some q ∧ q.bays = bays ∧
        q.pmode = mode &&& 0x7F ∧ q.pctl = 0 ∧ q.pvote = 0 ∧ q.penergy = 0 ∧ q.eq = EventQueue.reset ∧
        (∀ n, n ≠ part → getPart t n = getPart s n) ∧
        ∀ b, Store.find t.firex.farOwner b = if b ∈ blocks then some part else Store.find s.firex.farOwner b) ∧
      (getPart s part = none → ∃ t, exec (.pdestroy part) s = .next t ∧ t.firex.busy = false ∧ t.firex.code ≠ 0 ∧ t.parts = s.parts) ∧
      ∀ p, getPart s part = some p → ∃ t, exec (.pdestroy part) s = .next t ∧ Ended t 0 ∧ getPart t part = none ∧
        (∀ a, inBays p a = true → rdByte t.mem a = 0) ∧
        (partVds s part = [] → ∀ b a, b ∈ farBlocks s part → b < 512 → a < 2 ^ 31 → rdByte t.mem (farPa (b * 2 ^ 31 + a)) = 0) ∧
        (∀ e ∈ t.firex.farOwner, e.2 ≠ part) ∧ (∀ e ∈ t.vds, partOf e.1 ≠ part) ∧
        ∀ c, hasBay p (bayOfCore c) = true → (getCore t c).slots = [] ∧ (getCore t c).consts = [] ∧ (getCore t c).l1 = [] ∧
          (getCore t c).copies = [] ∧ (getCore t c).gaeq = [])

/-- 14 R381, 17 R429, 21 R512, R518: a capacity move asks the source's host to give up its highest free blocks, and after the confirmation
writes them with zeros and gives them to the other partition; each failure has its reason and leaves the blocks with the source. -/
def Sys2Proof.Claims.CapacityMoves : Prop :=
  ∀ (s : State),
    let fails := fun (i : Instr) (src reason step low count : Nat) => ∃ t r, exec i s = .next t ∧ Ended t reason ∧ t.firex.move = none ∧
      t.firex.farOwner = s.firex.farOwner ∧ newestLog t [src] r ∧ r.cause = 0x25 ∧ r.detail = reason + step * 2 ^ 8 ∧
      r.addr = BitVec.ofNat 64 low ∧ r.info = BitVec.ofNat 64 count
    (∀ src dst count p q, firexTakes s = true → getPart s src = some p → getPart s dst = some q →
      (farBlocks s src).Pairwise (fun a b => a < b) →
      let free := freeFar s src
      ((free.length < count ∨ count = 0) → ∃ low, fails (.capmove src dst count) src 1 1 low count) ∧
      (count ≤ free.length → 0 < count → ∃ t mv r, exec (.capmove src dst count) s = .next t ∧ t.firex.busy = true ∧
        t.firex.move = some mv ∧ mv.src = src ∧ mv.dst = dst ∧ mv.blocks.length = count ∧ (∀ b ∈ mv.blocks, b ∈ free) ∧
        (∀ b ∈ mv.blocks, ∀ c ∈ free, c ∉ mv.blocks → c < b) ∧ t.firex.farOwner = s.firex.farOwner ∧
        PostedPart s t src p true r ∧ r.cause = 0x42 ∧ r.detail = dst * 2 ^ 8 ∧ r.info = BitVec.ofNat 64 count ∧
        r.addr.toNat ∈ mv.blocks.map (fun b => b % 2 ^ 64) ∧ ∀ b ∈ mv.blocks, b < 512 → r.addr.toNat ≤ b)) ∧
    (∀ mv, s.firex.move = some mv → ∀ low, low = lowBlock mv.blocks →
      (∀ p q, getPart s mv.src = some p → getPart s mv.dst = some q →
        (∃ t r, exec (.capmoveConfirm none) s = .next t ∧ Ended t 0 ∧ t.firex.move = none ∧
          (∀ b, Store.find t.firex.farOwner b = if b ∈ mv.blocks then some mv.dst else Store.find s.firex.farOwner b) ∧
          (q.eq.en = false → ∀ b a, b ∈ mv.blocks → b < 512 → a < 2 ^ 31 → rdByte t.mem (farPa (b * 2 ^ 31 + a)) = 0) ∧
          r.cause = 0x43 ∧ r.detail = mv.src * 2 ^ 8 ∧ r.info = BitVec.ofNat 64 mv.blocks.length ∧
          ∃ q', getPart t mv.dst = some q' ∧ (queueFull q.eq = false → q'.eq.tail = q.eq.tail + 1 ∧
            rdList t.mem (hostPa (q.eq.base.toNat + 64 * (q.eq.tail.toNat % 2 ^ q.eq.qlog))) 64 = (recWords r).flatMap bytesOf)) ∧
        (∀ b ∈ mv.blocks, fails (.capmoveConfirm (some b)) mv.src 3 3 low mv.blocks.length ∧
          ∃ t, exec (.capmoveConfirm (some b)) s = .next t ∧ farLost t b = true)) ∧
      ((getPart s mv.src = none ∨ getPart s mv.dst = none) → fails (.capmoveConfirm none) mv.src 4 3 low mv.blocks.length) ∧
      (10000000000 ≤ s.timeNs - mv.since → fails .capmoveTimeout mv.src 2 mv.step low mv.blocks.length) ∧
      (s.timeNs - mv.since < 10000000000 → exec .capmoveTimeout s = .next s)) ∧
    (s.firex.move = none → exec (.capmoveConfirm none) s = .next s ∧ exec .capmoveTimeout s = .next s)

/-- 14 R408, 21 R518: an attestation report holds its format, the versions, the capability word, the nonce, the digest of the running
firmware, a digest of the tables (an open function of them, log 6) and zeros in its reserved bytes; the signature is left open (log 6). Where
Firex does not reach the host memory the command ends with code 5. -/
def Sys2Proof.Claims.AttestationReport : Prop :=
  ∀ (s : State) (nonce report : DWord) (n : Nat) (slot : FwSlot), firexTakes s = true → s.firex.running = some n →
    let reached := firexReach s nonce 32 = true ∧ firexReach s report 256 = true
    (¬ reached → ∃ t, exec (.attest nonce report) s = .next t ∧ Ended t 5 ∧ t.mem = s.mem) ∧
    (reached → Store.find s.firex.slots n = none → ∃ t, exec (.attest nonce report) s = .next t ∧ Ended t 6 ∧ t.mem = s.mem) ∧
    (reached → Store.find s.firex.slots n = some slot → slot.digest.length = 64 → ∃ t bs, exec (.attest nonce report) s = .next t ∧ Ended t 0 ∧
      StoresBytes s t (hostPa report.toNat) bs ∧ bs.length = 256 ∧
      bs.take 16 = bytesOf (BitVec.ofNat 64 (1 + slot.version.toNat * 2 ^ 32)) ++
        bytesOf (BitVec.ofNat 64 (s.firex.counter.toNat + (capWord s 0).toNat % 2 ^ 32 * 2 ^ 32)) ∧
      (bs.drop 16).take 32 = rdList s.mem (hostPa nonce.toNat) 32 ∧ (bs.drop 48).take 64 = slot.digest ∧
      (bs.drop 112).take 64 = ((List.range 8).map (Config.tableDigest (tableWords s))).flatMap bytesOf ∧
      (bs.drop 176).take 16 = List.replicate 16 0 ∧ t.firex.slots = s.firex.slots ∧ t.firex.counter = s.firex.counter)

/-- 14 R407, R409, 21 R516 to R518, 20 R486: staging verifies an image and writes the inactive slot; a refused image changes neither the
running firmware nor the counter. The counter rises only at a healthy boot of an image staged so, a boot that stays unhealthy falls back
once, and power-on reset runs the newest slot that the counter admits and keeps the fenced cells. -/
def Sys2Proof.Claims.FirmwareSlots : Prop :=
  ∀ (s : State),
    let kept := fun t : State => t.firex.running = s.firex.running ∧ t.firex.counter = s.firex.counter
    (∀ (image len : DWord) (raise : Bool),
      let x := Instr.fwstage image len raise
      let b := rdList s.mem (hostPa image.toNat) len.toNat
      let refused := fun n => ∃ t ps r, exec x s = .next t ∧ Ended t n ∧ newestLog t ps r ∧ r.cause = 0x26 ∧ r.detail = n ∧
        kept t ∧ t.firex.slots = s.firex.slots
      (s.firex.busy = true → exec x s = .next s) ∧
      (s.firex.busy = false → firexReach s image len.toNat = false → ∃ t, exec x s = .next t ∧ Ended t 5 ∧ kept t ∧
        t.firex.slots = s.firex.slots) ∧
      (s.firex.busy = false → firexReach s image len.toNat = true → Config.imageFormatOk b = false → refused 3) ∧
      (s.firex.busy = false → firexReach s image len.toNat = true → Config.imageFormatOk b = true → Config.imageVerifies b = false → refused 1) ∧
      (s.firex.busy = false → firexReach s image len.toNat = true → Config.imageFormatOk b = true → Config.imageVerifies b = true →
        ((Config.imageVersion b).toNat < s.firex.counter.toNat → refused 2) ∧
        (s.firex.counter.toNat ≤ (Config.imageVersion b).toNat → ∃ t n, exec x s = .next t ∧ Ended t 0 ∧ kept t ∧ n < 2 ∧
          s.firex.running ≠ some n ∧ (∀ m, m ≠ n → Store.find t.firex.slots m = Store.find s.firex.slots m) ∧
          ∃ slot, Store.find t.firex.slots n = some slot ∧ slot.version = Config.imageVersion b ∧ slot.digest = sha512 b ∧ slot.raise = raise))) ∧
    (∀ n slot, s.firex.running = some n → Store.find s.firex.slots n = some slot → ∃ t, exec .fwHealthyReport s = .next t ∧
      t.firex.healthy = true ∧ t.firex.running = some n ∧
      t.firex.counter = (if slot.raise = true ∧ s.firex.counter.toNat < slot.version.toNat then slot.version else s.firex.counter)) ∧
    (∀ n, s.firex.running = some n →
      ((s.firex.healthy = true ∨ s.timeNs - s.firex.bootAt < 1000000000) → exec .fwHealthTimeout s = .next s) ∧
      (s.firex.healthy = false → 1000000000 ≤ s.timeNs - s.firex.bootAt → ∃ t ps r, exec .fwHealthTimeout s = .next t ∧
        newestLog t ps r ∧ r.cause = 0x26 ∧ r.detail = 4 ∧ t.firex.counter = s.firex.counter ∧ t.firex.slots = s.firex.slots ∧
        (s.firex.fellBack = true → t.firex.running = none) ∧
        (s.firex.fellBack = false → ∀ m, t.firex.running = some m → m ≠ n ∧ ∃ slot, Eligible s m slot) ∧
        (s.firex.fellBack = false → (∃ m slot, m ≠ n ∧ Eligible s m slot) → t.firex.running.isSome = true))) ∧
    ((s.firex.fences.map Prod.fst).Nodup → ∃ t, exec .powerOnReset s = .next t ∧ t.fit = s.fit ∧ t.firex.counter = s.firex.counter ∧
      t.firex.slots = s.firex.slots ∧ t.tasks = [] ∧ t.jobs = [] ∧ t.parts = [] ∧ t.vds = [] ∧ t.firex.farOwner = [] ∧
      (∀ n, t.firex.running = some n → ∃ x, Eligible s n x ∧ ∀ m y, Eligible s m y → y.order ≤ x.order) ∧
      (t.firex.running = none → ∀ m y, ¬ Eligible s m y) ∧
      (∀ c x, Store.find s.firex.fences c = some x → (getCore t c).badcell = x)) ∧
    (s.firex.running = none → ∀ x, ((∃ a b c d, x = Instr.pcreate a b c d) ∨ (∃ a, x = .pdestroy a) ∨ (∃ a b c, x = .capmove a b c) ∨
      (∃ a b, x = .attest a b) ∨ (∃ a b c, x = .errlog a b c)) → exec x s = .next s)

/-- 17 R430, 21 R518: ERRLOG copies the newest matching records to host memory and returns their count; one that names no partition is
refused with code 7, and one whose buffer Firex does not reach with code 5. -/
def Sys2Proof.Claims.ErrorLogCopies : Prop :=
  ∀ (s : State) (part : Nat) (buffer maxCount : DWord), firexTakes s = true →
    (part ≠ 0xFF → getPart s part = none → ∃ t, exec (.errlog part buffer maxCount) s = .next t ∧ Ended t 7 ∧ t.mem = s.mem) ∧
    ((part = 0xFF ∨ (getPart s part).isSome = true) → firexReach s buffer (64 * min 4096 maxCount.toNat) = false →
      ∃ t, exec (.errlog part buffer maxCount) s = .next t ∧ Ended t 5 ∧ t.mem = s.mem) ∧
    ((part = 0xFF ∨ (getPart s part).isSome = true) → firexReach s buffer (64 * min 4096 maxCount.toNat) = true →
      let found := s.firex.log.filter (fun e => decide (part = 0xFF ∨ part ∈ e.1))
      let l := found.take (min 4096 maxCount.toNat)
      ∃ t, exec (.errlog part buffer maxCount) s = .next t ∧ Ended t 0 ∧ t.firex.log = s.firex.log ∧
        StoresBytes s t (hostPa buffer.toNat) (l.flatMap (fun e => e.2.flatMap bytesOf)) ∧
        Store.get 0 t.firex.args 0 = BitVec.ofNat 64 l.length ∧ t.tasks = s.tasks)

/-! The machine as a whole: reset, the encoding, the issue of an instruction, and what every step keeps. -/

namespace Sys2Proof.Claims

/-- The word that a bench's step runs: no fault of the warp waits for its delivery, and in `s₂` the warp's constant image stands on the
core and its word has been fetched. -/
structure FetchesWord (s : State) (core k i : Nat) (kn : Kernel) (x : DWord) (s₂ : State) : Prop where
  fetched : ∃ t w s₁, getTask (modWarp s k i beforeFetch) k = some t ∧ getWarp t i = some w ∧ w.raised = none ∧
    taskKernel (modWarp s k i beforeFetch) t = some kn ∧ loadConst (modWarp s k i beforeFetch) core k i t w kn = (none, s₁) ∧
    fetchWord s₁ core k i t w w.pc = (.word x, s₂)

/-- What a step answers once gates whose state the agent has changed have acted (02 R57). -/
def ThenGates : Host.Outcome State Fault Refusal → Host.Outcome State Fault Refusal
  | .next t => .next (pollGates t)
  | o => o

/-- A bench's ready warps (13 R367). -/
def ReadyOn (s : State) (core bench : Nat) : List BenchWarp := (benchWarpsOf s core bench).filter (warpReady s)

end Sys2Proof.Claims

/-- 06 R151 to R170, 18 R439: the word of every well-formed instruction decodes to it with every operand; a word that decodes is the word of
a well-formed instruction and of no other; and a refusal names the lowest reason, and its lowest field, that the word meets. -/
def Obligations.DecodeAndEncodeAgree : Prop :=
  (∀ (ver : Nat) (i : Instr) (w : DWord), encode i = some w → WellFormed ver i → decodeWord ver (isBlockWord w) w = .ok i) ∧
  (∀ (ver : Nat) (i : Instr) (w : DWord), decodeWord ver (isBlockWord w) w = .ok i → WellFormed ver i ∧ encode i = some w) ∧
  (∀ (ver : Nat) (block : Bool) (w : DWord) (i : Instr) (e : Nat × Nat), parseWord block w = .ok i → decodeWord ver block w = .error e →
    e ∈ violations ver i ∧ ∀ e' ∈ violations ver i, e.1 < e'.1 ∨ (e.1 = e'.1 ∧ e.2 ≤ e'.2))

/-- Words that chapters 07, 08 and 09 write out decode to the instructions that their text gives, and a word of an unlisted opcode is
refused. -/
def Obligations.WordsOfTheText : Prop :=
  decodeTableWord 64 0x021C241014000800 = some (.div ⟨⟨false, 7⟩, .v 9, .v 4, .v 5, .v 0, .z32, .rn, false, false, 0⟩) ∧
  decodeTableWord 64 0x115C1C04080C0258 = some (.blut ⟨⟨false, 7⟩, .v 7, .v 1, .v 2, .v 3, 0x96⟩) ∧
  decodeTableWord 64 0x201D0810011DC008 = some (.setp ⟨⟨false, 7⟩, .p 2, .v 4, .k 0, .p 7, .dflt, .rn, false, false, 2⟩) ∧
  decodeTableWord 64 0x50DC28080C280140 = some (.ffma ⟨⟨false, 7⟩, .v 10, .v 2, .v 3, .v 10, .dflt, .rz, false, true, 0⟩) ∧
  decodeTableWord 64 0x705C301018010000 = some (.cvtn ⟨⟨false, 7⟩, .v 12, .v 4, .k 6, .v 0, .dflt, .rn, false, false, false, 0⟩) ∧
  decodeTableWord 64 0x641C502013FD8048 = some (.tmv ⟨⟨false, 7⟩, .v 20, .v 8, .k 4, .vz, .dflt, 1, 2⟩) ∧
  decodeTableWord 64 0x805C281800201090 = some (.st ⟨⟨false, 7⟩, .v 10, .v 6, 8, 0, .z64, .die, .rel, 2, 0⟩) ∧
  decodeTableWord 64 0xA0DC100800000000 = some (.fget ⟨⟨false, 7⟩, .v 4, .v 2, .v 0, .v 0, 0, .die, 0⟩) ∧
  decodeTableWord 64 0xFC00000000000000 = none

/-- 02 R57, R60, 13 R367, R368, 18 R439: a bench's issue runs one warp: the word that stands at its PC, decoded, is the instruction whose
meaning the step takes, in the state in which the bench's other ready warps have counted its issue slots, and gates that it changed act
after it; a word that does not decode raises its refusal. What is fetched is the eight bytes at the PC's place. -/
def Sys2Proof.Claims.StepRunsTheFetchedInstruction : Prop :=
  (∀ (s s₂ : State) (core bench : Nat) (rest : List Agent) (b : BenchWarp) (kn : Kernel) (x : DWord), s.agenda = .issue core bench :: rest →
    let s₀ := { s with agenda := rest }
    coreRuns s₀ core = true → pickWarp (ReadyOn s₀ core bench) = some b → FetchesWord s₀ core b.k b.i kn x s₂ →
    let at_ := fun i => { noteIssue s₂ core bench (issueSlots i) b with cur := some { task := b.k, warp := b.i }, latCur := none }
    (∀ i, decodeWord kn.encv false x = .ok i → step s = ThenGates (exec i (at_ i))) ∧
    (∀ r f, decodeWord kn.encv false x = .error (r, f) →
      step s = ThenGates (exec (.unassignedWordFetch r f) (at_ (.unassignedWordFetch r f))))) ∧
  (∀ (s s₁ : State) (core k i : Nat) (t : Task) (w : Warp) (va : DWord) (pa : Nat), fetchPlace s core t w.active va = (.ok pa, s₁) →
    (∀ j, j < 8 → poisoned s₁ (pa + j) = false) →
    fetchWord s core k i t w va = (.word (wordOfBytes ((List.range 8).map (fun j => rdByte s₁.mem (pa + j)))), s₁))

/-- 13 R367, R368: the warp that a bench picks is a ready one: the oldest of those that 896 issue slots have passed over, else the oldest of
those that do not yield, else the oldest. -/
def Sys2Proof.Claims.OldestReadyWarpIssues : Prop :=
  (∀ (l : List BenchWarp), l ≠ [] → ∃ b, pickWarp l = some b ∧ b ∈ l ∧
    ((∃ x ∈ l, 896 ≤ x.w.passed) → 896 ≤ b.w.passed ∧ ∀ x ∈ l, 896 ≤ x.w.passed → ageOf b ≤ ageOf x) ∧
    ((∀ x ∈ l, x.w.passed < 896) → (∃ x ∈ l, x.w.yieldLeft = 0) → b.w.yieldLeft = 0 ∧ ∀ x ∈ l, x.w.yieldLeft = 0 → ageOf b ≤ ageOf x) ∧
    ((∀ x ∈ l, x.w.passed < 896 ∧ x.w.yieldLeft ≠ 0) → ∀ x ∈ l, ageOf b ≤ ageOf x)) ∧
  (∀ (s : State) (core bench : Nat) (b : BenchWarp), b ∈ ReadyOn s core bench →
    b.w.launch ≠ 0 ∧ b.w.blocked = .ready ∧ b.w.lat = none ∧ b.slot / 8 = bench ∧ vdRuns s (keyVd b.k) = true ∧
    ∀ t, getTask s b.k = some t → t.evicting = false ∧ mayIssue s b.k b.i t = true)

/-- 12 R331: a lattice cell's turn fires the context that the firing order picks, which is the meaning of its word, and only while its VD
runs. -/
def Sys2Proof.Claims.StepFiresThePickedContext : Prop :=
  ∀ (s : State) (core cell ctx : Nat) (rest : List Agent), s.agenda = .fire core cell ctx :: rest →
    let s₀ := { s with agenda := rest }
    (∀ f, coreRuns s₀ core = true → cellPick s₀ core cell = some f → f.node = nodeOf cell ctx → latticeRuns s₀ (keyVd f.k) = true →
      step s = ThenGates (exec (latInstr f.t) { s₀ with cur := none, latCur := some { core := core, node := f.node } })) ∧
    (cellPick s₀ core cell = none → step s = .next (pollGates s₀)) ∧
    (∀ f, cellPick s₀ core cell = some f → (f.node ≠ nodeOf cell ctx ∨ latticeRuns s₀ (keyVd f.k) = false) → step s = .next (pollGates s₀))

/-- Every step keeps memory in its canonical form: addresses strictly rising, and no byte listed that reads as an unlisted one (the form is
the model's, log 2). -/
def Obligations.StepsKeepMemoryCanonical : Prop :=
  ∀ (s t : State), Memory.wf s.mem = true → step s = .next t → Memory.wf t.mem = true

/-- 14 R384, R385, R388, R404, 17 R428, 13 R373, 19 R460, 20 R486, 21 R516: what reset leaves where the manual gives a value: no partition,
VD, job or task, VDCFG, event-queue and ring registers at their reset values, LTCAP 16 and point 0; and reset memory is canonical (log 2). -/
def Obligations.ResetLeaves : Prop :=
  let r := State.reset
  r.parts = [] ∧ r.jobs = [] ∧ r.tasks = [] ∧ Memory.wf r.mem = true ∧ (∀ j, ltcapOf r j = 16 ∧ pointOf r j = 0) ∧
  (∀ vd, let v := getVd r vd
    v.en = false ∧ v.wcls = 1 ∧ v.slice = 20 ∧ v.qlog = 4 ∧ v.idle = 10 ∧ v.gen = 0 ∧ v.cerr = 0 ∧ v.thr = false ∧ v.ovf = false ∧
    v.eq.base = 0 ∧ v.eq.en = false ∧ v.eq.drop = 0 ∧ v.eq.qlog = 6 ∧ v.eq.head = 0 ∧ v.eq.tail = 0 ∧ v.tff.en = false ∧ v.tff.qlog = 6) ∧
  (∀ bays mode, let p := newPart bays mode
    p.pvote = 0 ∧ p.pctl = 0 ∧ p.penergy = 0 ∧ p.eq = EventQueue.reset) ∧
  ∀ c, (getCore r c).slots = [] ∧ (getCore r c).badcell = 0

/-- 02 R59, 07 R202: an `EXIT` that leaves its warp no lane ends the warp, and with the last warp of a task the task, with value 0 and status
0 (where no barrier of the task waits and the dirty log has room, and another warp of a task that goes on is ready). -/
def Sys2Proof.Claims.ExitOfTheLastLanes : Prop :=
  ∀ (s : State) (c : Ctx) (f : RRaw), Runs s (.exit f) c → c.g ≠ 0 → c.w.launch &&& ~~~c.g = 0 → c.t.barriers = [] →
    ((∃ j v, j ≠ c.i ∧ getWarp c.t j = some v ∧ v.launch ≠ 0 ∧ v.blocked = .ready) → ∃ t w, exec (.exit f) s = .next t ∧
      warpOf t c.k c.i = some w ∧ w.launch = 0 ∧ (∀ j, j ≠ c.i → warpOf t c.k j = getWarp c.t j)) ∧
    ((∀ j v, j ≠ c.i → getWarp c.t j = some v → v.launch = 0) → endHeld s c.k = false → ∃ t w, exec (.exit f) s = .next t ∧
      w.launch = 0 ∧ t = endTask (setWarp s c.k c.i w) c.k 0 0 ∧ ∀ x, getTask t c.k = some x → x.st = .ended ∧ x.warps = [])

/-! The statements that join several claims of one theme. -/

/-- Integer arithmetic, carries and division give the results of the pseudocode. -/
def Obligations.IntegerArithmetic : Prop :=
  Sys2Proof.Claims.IntegerArithmeticResults ∧ Sys2Proof.Claims.CarryResults ∧ Sys2Proof.Claims.DivisionResults

/-- Logic, shifts, bit fields, compare, select, moves and the immediate forms. -/
def Obligations.LogicSelectAndImmediate : Prop :=
  Sys2Proof.Claims.LogicAndBitResults ∧ Sys2Proof.Claims.CompareSelectMoveResults ∧ Sys2Proof.Claims.ImmediateFormResults

/-- MOVK to a uniform register, and the reads of SRD and CLK. -/
def Obligations.UniformMovesAndSpecialReads : Prop :=
  Sys2Proof.Claims.UniformMoveResults ∧ Sys2Proof.Claims.SpecialRegisterAndClockReads

/-- BRA, BRX, CALL and RET: where the warp goes and what its divergence stack holds. -/
def Obligations.BranchesAndCalls : Prop :=
  Sys2Proof.Claims.BranchOutcome ∧ Sys2Proof.Claims.IndirectBranchGroups ∧ Sys2Proof.Claims.CallAndReturn

/-- EXIT, NOP and YIELD, the end of a warp and of a task, and the pops of the divergence stack. -/
def Obligations.ExitAndReconvergence : Prop :=
  Sys2Proof.Claims.ExitNopYield ∧ Sys2Proof.Claims.ExitOfTheLastLanes ∧ Sys2Proof.Claims.FetchAfterReconvergence

/-- Votes, matches, masks, election and the exchange between lanes. -/
def Obligations.WarpOperations : Prop :=
  Sys2Proof.Claims.VoteMatchElectResults ∧ Sys2Proof.Claims.LaneExchangeResults

/-- Reductions over the lanes of a mask and prefixes over segments. -/
def Obligations.WarpReductions : Prop :=
  Sys2Proof.Claims.IntegerReductionResults ∧ Sys2Proof.Claims.FloatReductionResults

/-- Each rounding rounds the exact value once; sums and products before it are exact. -/
def Obligations.RoundingAndExactSums : Prop :=
  Sys2Proof.Claims.RoundingIsCorrect ∧ Sys2Proof.Claims.ExactSumsAndProducts

/-- Floating arithmetic rounds the exact result once; the special functions are fixed functions; enabled checks raise. -/
def Obligations.FloatArithmetic : Prop :=
  Sys2Proof.Claims.FloatArithmeticResults ∧ Sys2Proof.Claims.FloatFunctionResults

/-- Minimum and maximum, comparison, selection, classification and FCHK. -/
def Obligations.FloatCompareAndSelect : Prop :=
  Sys2Proof.Claims.FloatMinMaxResults ∧ Sys2Proof.Claims.FloatCompareClassifyResults

/-- The mode word, conversions between formats, bit moves and narrow elements. -/
def Obligations.ModeWordAndConversions : Prop :=
  Sys2Proof.Claims.ModeWordReadAndWrite ∧ Sys2Proof.Claims.ConvertAndPackResults ∧ Sys2Proof.Claims.NarrowConversionResults

/-- LD and LDK read the bytes of their places and write the registers; no byte changes. -/
def Obligations.LoadsReadBytes : Prop :=
  Sys2Proof.Claims.LoadResults ∧ Sys2Proof.Claims.BytesThatAreRead ∧ Sys2Proof.Claims.UniformLoadResults

/-- ST stores its bytes and leaves every other byte; the L1 after accesses. -/
def Obligations.StoresWriteBytes : Prop :=
  Sys2Proof.Claims.StoreResults ∧ Sys2Proof.Claims.L1AfterAccesses

/-- Misaligned and out-of-range accesses, and faults of accesses that are taken. -/
def Obligations.AccessFaults : Prop :=
  Sys2Proof.Claims.AlignmentAndExtentFaults ∧ Sys2Proof.Claims.AccessFaultsAreTaken

/-- FNEW and FPUT: records made EMPTY and filled, and readers woken. -/
def Obligations.FuturesFilled : Prop :=
  Sys2Proof.Claims.NewFutureResults ∧ Sys2Proof.Claims.PutResults

/-- FGET and FTRY: values read, warps parked, poison raised. -/
def Obligations.FuturesRead : Prop :=
  Sys2Proof.Claims.GetResults ∧ Sys2Proof.Claims.GetParks ∧ Sys2Proof.Claims.TryResults

/-- LKACQ and LKREL: locks taken, handed on and freed. -/
def Obligations.Locks : Prop :=
  Sys2Proof.Claims.LockAcquireResults ∧ Sys2Proof.Claims.LockReleaseResults

/-- TEND ends its task; the last task to end takes its job out of the table. -/
def Obligations.TaskEnds : Prop :=
  Sys2Proof.Claims.TaskEndResults ∧ Sys2Proof.Claims.JobsCountEndedTasks

/-- Copies, gathers and scatters enter an issue entry; the cache hints change no data. -/
def Obligations.CopyIssue : Prop :=
  Sys2Proof.Claims.CopyIssueResults ∧ Sys2Proof.Claims.GatherScatterIssueResults ∧ Sys2Proof.Claims.CacheHintResults

/-- The order of a copy's bytes, and what one chunk moves. -/
def Obligations.CopyMoves : Prop :=
  Sys2Proof.Claims.CopyByteOrder ∧ Sys2Proof.Claims.CopyChunkMoves

/-- MMA and MMAS: each element is one rounding of an exact sum. -/
def Obligations.MatrixMultiply : Prop :=
  Sys2Proof.Claims.MatrixSumIsOneRounding ∧ Sys2Proof.Claims.MatrixMultiplyResults

/-- TRN, LDM and STM: blocks transposed and moved between registers and memory. -/
def Obligations.MatrixMoves : Prop :=
  Sys2Proof.Claims.TransposeResults ∧ Sys2Proof.Claims.TileMoveResults

/-- The value of a bunched row, and the completion of a row. -/
def Obligations.BunchedRows : Prop :=
  Sys2Proof.Claims.BunchedRowValue ∧ Sys2Proof.Claims.GatherRowCompletes

/-- Taking a trap, delivering a fault to the handler or the event queue, and returning. -/
def Obligations.TrapsAndReturns : Prop :=
  Sys2Proof.Claims.TrapAndBreakpoint ∧ Sys2Proof.Claims.FaultDelivery ∧ Sys2Proof.Claims.ReturnFromTrap

/-- SRW, CAPT and LIVE: control registers, capture hints and the live-tag limit. -/
def Obligations.ControlRegistersAndHints : Prop :=
  Sys2Proof.Claims.ControlRegisters ∧ Sys2Proof.Claims.HintsAndLiveTags

/-- CAPQ and PMCR answer; DRAIN waits for the lattice. -/
def Obligations.QueriesAndDrains : Prop :=
  Sys2Proof.Claims.Queries ∧ Sys2Proof.Claims.DrainResults

/-- Which context fires first, and what STEER, MERGE, FAN and INJ send. -/
def Obligations.LatticeRoutes : Prop :=
  Sys2Proof.Claims.FiringOrder ∧ Sys2Proof.Claims.SteerMergeFanInject

/-- WADV, TAGPSH, TAGPOP and BEXIT, and the firings of other instructions. -/
def Obligations.LatticeIterations : Prop :=
  Sys2Proof.Claims.GatesNestingAndExits ∧ Sys2Proof.Claims.ContextFirings

/-- Arriving tokens, admission, and the commits of the order queue. -/
def Obligations.LatticeTokensAndOrder : Prop :=
  Sys2Proof.Claims.ArrivalAndAdmission ∧ Sys2Proof.Claims.OrderQueue

/-- Drains, the watchdog, explicit blocks and placements. -/
def Obligations.LatticeDrainsAndBlocks : Prop :=
  Sys2Proof.Claims.DrainsAndWatchdog ∧ Sys2Proof.Claims.BlocksAndPlacement

/-- TAIL writes ring the dispatcher, which accepts or refuses a record. -/
def Obligations.Launches : Prop :=
  Sys2Proof.Claims.TailWrites ∧ Sys2Proof.Claims.LaunchAcceptance

/-- Which task a dispatcher places and where, and how time slices pass. -/
def Obligations.DispatchAndSlices : Prop :=
  Sys2Proof.Claims.DispatchOfTasks ∧ Sys2Proof.Claims.TimeSlices

/-- Entries of event queues, and the dirty log's throttle and end. -/
def Obligations.EventQueuesAndDirtyLogs : Prop :=
  Sys2Proof.Claims.EventQueues ∧ Sys2Proof.Claims.DirtyLog

/-- Page faults are served from the ring or requested, and the answers end them. -/
def Obligations.PageFaultsServed : Prop :=
  Sys2Proof.Claims.PageFaultServices ∧ Sys2Proof.Claims.PageAnswers

/-- Invalidations, growth of the park region, and ENGCTL. -/
def Obligations.VmControl : Prop :=
  Sys2Proof.Claims.Invalidations ∧ Sys2Proof.Claims.ParkGrowth ∧ Sys2Proof.Claims.EngineControl

/-- CXL.mem accesses and writes to the register windows. -/
def Obligations.HostAccesses : Prop :=
  Sys2Proof.Claims.CxlAccesses ∧ Sys2Proof.Claims.RegisterWindows

/-- When a partition clamps, what W2 saves, and how it wakes. -/
def Obligations.ClampAndWake : Prop :=
  Sys2Proof.Claims.Clamping ∧ Sys2Proof.Claims.WakeAndRestore

/-- Votes, steps of the power controller and thermal stages. -/
def Obligations.PowerAndThermal : Prop :=
  Sys2Proof.Claims.VotesSetPoints ∧ Sys2Proof.Claims.PowerSteps ∧ Sys2Proof.Claims.ThermalStages

/-- Droops, shut rails, restarts, and the loss of a die. -/
def Obligations.RailsAndDies : Prop :=
  Sys2Proof.Claims.Rails ∧ Sys2Proof.Claims.DieLoss

/-- Lane errors of links and lasting faults of memory channels. -/
def Obligations.LinksAndChannels : Prop :=
  Sys2Proof.Claims.LinkLanes ∧ Sys2Proof.Claims.MemoryChannels

/-- Data errors are logged and contained; cells are fenced, by hardware or by the host's answer. -/
def Obligations.ErrorsAndFences : Prop :=
  Sys2Proof.Claims.DataErrors ∧ Sys2Proof.Claims.FencingAndTriage

/-- Partitions are created and destroyed, and capacity moves between them. -/
def Obligations.PartitionsAndCapacity : Prop :=
  Sys2Proof.Claims.PartitionLifecycle ∧ Sys2Proof.Claims.CapacityMoves

/-- Attestation, firmware slots and fallback, power-on reset, and ERRLOG. -/
def Obligations.FirmwareAndLog : Prop :=
  Sys2Proof.Claims.AttestationReport ∧ Sys2Proof.Claims.FirmwareSlots ∧ Sys2Proof.Claims.ErrorLogCopies

/-- A step runs the decoded instruction that the picked warp fetches, or the context that a cell picks. -/
def Obligations.StepRunsTheDecodedInstruction : Prop :=
  Sys2Proof.Claims.StepRunsTheFetchedInstruction ∧ Sys2Proof.Claims.OldestReadyWarpIssues ∧ Sys2Proof.Claims.StepFiresThePickedContext
end

