-- ==== Sys2Proof/Laws/Store.lean ====
section
/-! SUPPORT. Laws of sparse stores: what reading after each operation gives, for every list, and that each operation keeps the canonical
form. -/

namespace Sys2Proof.Machine

variable {α : Type}

@[simp] theorem Store.find_nil (k : Nat) : Store.find ([] : List (Nat × α)) k = none := rfl
@[simp] theorem Store.find_cons (j : Nat) (v : α) (t : List (Nat × α)) (k : Nat) :
    Store.find ((j, v) :: t) k = if k = j then some v else Store.find t k := rfl

/-- Reading after listing gives the new value at its key and the old one elsewhere. -/
@[simp] theorem Store.find_put (m : List (Nat × α)) (k : Nat) (v : α) (j : Nat) :
    Store.find (Store.put m k v) j = if j = k then some v else Store.find m j := by
  induction m with
  | nil => simp [Store.put]
  | cons e t ih =>
    obtain ⟨a, w⟩ := e
    simp only [Store.put]
    by_cases h1 : k < a
    · simp [h1]
    · by_cases h2 : k = a
      · subst h2
        by_cases h3 : j = k <;> simp [h3]
      · simp only [h1, h2, if_false, Store.find_cons, ih]
        by_cases h3 : j = a
        · simp [h3, Ne.symm h2]
        · simp [h3]

/-- Reading after removal gives nothing at the key and the old value elsewhere. -/
@[simp] theorem Store.find_del (m : List (Nat × α)) (k j : Nat) :
    Store.find (Store.del m k) j = if j = k then none else Store.find m j := by
  induction m with
  | nil => simp [Store.del]
  | cons e t ih =>
    obtain ⟨a, w⟩ := e
    simp only [Store.del]
    by_cases h1 : k = a
    · subst h1
      by_cases h3 : j = k
      · subst h3; simp [ih]
      · simp [h3, ih]
    · by_cases h3 : j = a
      · simp [h1, h3, Ne.symm h1]
      · simp [h1, h3, ih]

@[simp] theorem Store.find_modify (m : List (Nat × α)) (k : Nat) (f : α → α) (j : Nat) :
    Store.find (Store.modify m k f) j = if j = k then (Store.find m j).map f else Store.find m j := by
  induction m with
  | nil => simp [Store.modify]
  | cons e t ih =>
    obtain ⟨a, w⟩ := e
    simp only [Store.modify, Store.find_cons, ih]
    by_cases h3 : j = a
    · subst h3
      by_cases h1 : k = j
      · simp [h1]
      · simp [h1, Ne.symm h1]
    · simp [h3]

@[simp] theorem Store.get_nil (d : α) (k : Nat) : Store.get d [] k = d := rfl

theorem Store.get_eq (d : α) (m : List (Nat × α)) (k : Nat) : Store.get d m k = (Store.find m k).getD d := by
  simp only [Store.get]
  cases Store.find m k <;> rfl

/-- Reading after a write gives the new value at its key and the old one elsewhere. -/
@[simp] theorem Store.get_set [DecidableEq α] (d : α) (m : List (Nat × α)) (k : Nat) (v : α) (j : Nat) :
    Store.get d (Store.set d m k v) j = if j = k then v else Store.get d m j := by
  simp only [Store.set, Store.get_eq]
  by_cases hv : v = d
  · by_cases hj : j = k <;> simp [hv, hj]
  · by_cases hj : j = k <;> simp [hv, hj]

@[simp] theorem Store.get_put (d : α) (m : List (Nat × α)) (k : Nat) (v : α) (j : Nat) :
    Store.get d (Store.put m k v) j = if j = k then v else Store.get d m j := by
  simp only [Store.get_eq, Store.find_put]
  by_cases hj : j = k <;> simp [hj]

/-! The canonical form. -/

theorem Store.above_mono {lo lo' : Nat} (h : lo' ≤ lo) : ∀ {m : List (Nat × α)}, Store.above lo m = true → Store.above lo' m = true
  | [], _ => rfl
  | (j, v) :: t, hm => by
    simp only [Store.above, Bool.and_eq_true, decide_eq_true_eq] at hm ⊢
    exact ⟨by omega, hm.2⟩

theorem Store.sorted_of_above {lo : Nat} : ∀ {m : List (Nat × α)}, Store.above lo m = true → Store.sorted m = true
  | [], _ => rfl
  | (j, v) :: t, hm => by
    simp only [Store.above, Bool.and_eq_true] at hm
    exact hm.2

theorem Store.above_put {lo k : Nat} (v : α) (hk : lo < k) :
    ∀ {m : List (Nat × α)}, Store.above lo m = true → Store.above lo (Store.put m k v) = true
  | [], _ => by simp [Store.put, Store.above, hk]
  | (j, w) :: t, hm => by
    simp only [Store.above, Bool.and_eq_true, decide_eq_true_eq] at hm
    simp only [Store.put]
    by_cases h1 : k < j
    · simp [h1, Store.above, hk, hm.2]
    · by_cases h2 : k = j
      · subst h2
        simp [Store.above, hm.2, hk]
      · have h3 : j < k := by omega
        simp [h1, h2, Store.above, hm.1, Store.above_put v h3 hm.2]

theorem Store.sorted_put (m : List (Nat × α)) (k : Nat) (v : α) (h : Store.sorted m = true) : Store.sorted (Store.put m k v) = true := by
  match m with
  | [] => rfl
  | (j, w) :: t =>
    simp only [Store.put]
    by_cases h1 : k < j
    · simp only [Store.sorted] at h
      simp [h1, Store.sorted, Store.above, h]
    · by_cases h2 : k = j
      · subst h2
        simpa [Store.sorted] using h
      · have h3 : j < k := by omega
        simp only [Store.sorted] at h
        simp [h1, h2, Store.sorted, Store.above_put v h3 h]

/-- A store filtered by its keys lists none that the filter drops. -/
theorem Store.find_filterOut {β : Type} (p : Nat → Bool) : ∀ (m : List (Nat × β)) (n : Nat), p n = false →
    Store.find (m.filter (fun e => p e.1)) n = none
  | [], _, _ => rfl
  | (j, v) :: t, n, h => by
    have ih := Store.find_filterOut p t n h
    by_cases hp : p j = true
    · have hn : n ≠ j := fun e => by rw [e, hp] at h; exact absurd h (by decide)
      simpa [List.filter, hp, Store.find, hn] using ih
    · simpa [List.filter, hp] using ih

/-- What a store that has lost some of its keys still says is true, it said before. -/
theorem Store.get_of_filter (p : Nat → Bool) : ∀ (m : List (Nat × Bool)) (n : Nat),
    Store.get false (m.filter (fun e => p e.1)) n = true → Store.get false m n = true
  | [], _, h => h
  | (j, v) :: t, n, h => by
    have ih := Store.get_of_filter p t n
    by_cases hn : n = j
    · subst hn
      by_cases hp : p n = true
      · simpa [List.filter, hp, Store.get, Store.find] using h
      · have h' : Store.get false (t.filter (fun e => p e.1)) n = true := by simpa [List.filter, hp] using h
        have : Store.find (t.filter (fun e => p e.1)) n = none := Store.find_filterOut p t n (by simpa using hp)
        simp [Store.get, this] at h'
    · by_cases hp : p j = true
      · have h' : Store.get false (t.filter (fun e => p e.1)) n = true := by simpa [List.filter, hp, Store.get, Store.find, hn] using h
        simpa [Store.get, Store.find, hn] using ih h'
      · have h' : Store.get false (t.filter (fun e => p e.1)) n = true := by simpa [List.filter, hp] using h
        simpa [Store.get, Store.find, hn] using ih h'

theorem Store.above_filter {lo : Nat} (p : Nat × α → Bool) :
    ∀ {m : List (Nat × α)}, Store.above lo m = true → Store.above lo (m.filter p) = true
  | [], _ => rfl
  | (j, w) :: t, hm => by
    simp only [Store.above, Bool.and_eq_true, decide_eq_true_eq] at hm
    have ht := Store.above_filter p hm.2
    by_cases hp : p (j, w) = true
    · simp [hp, Store.above, hm.1, ht]
    · simp only [Bool.not_eq_true] at hp
      simp only [hp, Bool.false_eq_true, not_false_eq_true, List.filter_cons_of_neg]
      exact Store.above_mono (by omega) ht

theorem Store.sorted_filter (p : Nat × α → Bool) (m : List (Nat × α)) (h : Store.sorted m = true) : Store.sorted (m.filter p) = true := by
  match m with
  | [] => rfl
  | (j, w) :: t =>
    have ht := Store.above_filter p (show Store.above j t = true from h)
    by_cases hp : p (j, w) = true
    · simp only [List.filter_cons, hp, if_true]
      exact ht
    · simp only [Bool.not_eq_true] at hp
      simp only [hp, Bool.false_eq_true, not_false_eq_true, List.filter_cons_of_neg]
      exact Store.sorted_of_above ht

theorem Store.del_eq_filter (m : List (Nat × α)) (k : Nat) : Store.del m k = m.filter (fun e => decide (k ≠ e.1)) := by
  induction m with
  | nil => rfl
  | cons e t ih =>
    obtain ⟨j, w⟩ := e
    simp only [Store.del]
    by_cases h : k = j
    · subst h; simp [ih]
    · simp [h, ih]

theorem Store.mem_put {m : List (Nat × α)} {k : Nat} {v : α} {e : Nat × α} : e ∈ Store.put m k v → e = (k, v) ∨ e ∈ m := by
  induction m with
  | nil => simp [Store.put]
  | cons x t ih =>
    obtain ⟨j, w⟩ := x
    simp only [Store.put]
    intro he
    split at he
    · simpa using he
    · split at he
      · rcases List.mem_cons.mp he with h | h
        · exact .inl h
        · exact .inr (List.mem_cons_of_mem _ h)
      · rcases List.mem_cons.mp he with h | h
        · exact .inr (h ▸ List.mem_cons_self)
        · rcases ih h with h | h
          · exact .inl h
          · exact .inr (List.mem_cons_of_mem _ h)

theorem Store.wf_filter [DecidableEq α] (d : α) (m : List (Nat × α)) (p : Nat × α → Bool) (h : Store.wf d m = true) :
    Store.wf d (m.filter p) = true := by
  simp only [Store.wf, Bool.and_eq_true, List.all_eq_true] at h ⊢
  exact ⟨Store.sorted_filter p m h.1, fun e he => h.2 e (List.mem_of_mem_filter he)⟩

/-- A write keeps the canonical form. -/
theorem Store.wf_set [DecidableEq α] (d : α) (m : List (Nat × α)) (k : Nat) (v : α) (h : Store.wf d m = true) :
    Store.wf d (Store.set d m k v) = true := by
  simp only [Store.set]
  by_cases hv : v = d
  · simp only [hv, if_true]
    rw [Store.del_eq_filter]
    exact Store.wf_filter d m _ h
  · simp only [hv, if_false]
    simp only [Store.wf, Bool.and_eq_true, List.all_eq_true] at h ⊢
    refine ⟨Store.sorted_put m k v h.1, fun e he => ?_⟩
    rcases Store.mem_put he with rfl | he
    · simpa using hv
    · exact h.2 e he

end Sys2Proof.Machine
end

