-- ==== Sys2Proof/Laws/Memory.lean ====
section
/-! SUPPORT. Laws of physical memory: a read after a write, the bytes that a write leaves alone, and that every memory operation keeps the
canonical form. -/

namespace Sys2Proof.Machine

/-! One byte. -/

@[simp] theorem rdByte_wrByte (m : List Host.Cell) (a : Nat) (v : Byte) (b : Nat) :
    rdByte (wrByte m a v) b = if b = a then v else rdByte m b := Store.get_set _ _ _ _ _

theorem wrByte_wf (m : List Host.Cell) (a : Nat) (v : Byte) (h : Memory.wf m = true) : Memory.wf (wrByte m a v) = true :=
  Store.wf_set _ _ _ _ h

theorem filter_wf (m : List Host.Cell) (p : Host.Cell → Bool) (h : Memory.wf m = true) : Memory.wf (m.filter p) = true :=
  Store.wf_filter _ _ _ h

/-! Little-endian words. -/

/-- A write of `n` bytes leaves every byte outside them. -/
theorem rdByte_wrBytes_outside (n : Nat) : ∀ (m : List Host.Cell) (a v b : Nat), (b < a ∨ a + n ≤ b) →
    rdByte (wrBytes m a n v) b = rdByte m b := by
  induction n with
  | zero => intros; rfl
  | succ n ih =>
    intro m a v b h
    rw [wrBytes, ih _ _ _ _ (by omega), rdByte_wrByte, if_neg (by omega)]

/-- Byte `i` of a write. -/
theorem rdByte_wrBytes (n : Nat) : ∀ (m : List Host.Cell) (a v i : Nat), i < n →
    rdByte (wrBytes m a n v) (a + i) = BitVec.ofNat 8 (v / 256 ^ i) := by
  induction n with
  | zero => intros; omega
  | succ n ih =>
    intro m a v i h
    rw [wrBytes]
    cases i with
    | zero =>
      rw [rdByte_wrBytes_outside _ _ _ _ _ (by omega)]
      simp
    | succ i =>
      have h1 : a + (i + 1) = a + 1 + i := by omega
      rw [h1, ih _ _ _ _ (by omega), Nat.div_div_eq_div_mul, Nat.pow_succ, Nat.mul_comm]

/-- A read of `n` bytes depends on those bytes only. -/
theorem rdBytes_congr (n : Nat) : ∀ (m m' : List Host.Cell) (a : Nat), (∀ i, i < n → rdByte m (a + i) = rdByte m' (a + i)) →
    rdBytes m a n = rdBytes m' a n := by
  induction n with
  | zero => intros; rfl
  | succ n ih =>
    intro m m' a h
    have h0 := h 0 (by omega)
    rw [Nat.add_zero] at h0
    rw [rdBytes, rdBytes, h0, ih m m' (a + 1) (fun i hi => by
      have h1 := h (i + 1) (by omega)
      rwa [show a + (i + 1) = a + 1 + i by omega] at h1)]

/-- A read of the bytes just written gives the value, modulo their number. -/
theorem rdBytes_wrBytes (n : Nat) : ∀ (m : List Host.Cell) (a v : Nat), rdBytes (wrBytes m a n v) a n = v % 256 ^ n := by
  induction n with
  | zero => intro m a v; simp [rdBytes, Nat.mod_one]
  | succ n ih =>
    intro m a v
    have h0 := rdByte_wrBytes (n + 1) m a v 0 (by omega)
    simp only [Nat.add_zero, Nat.pow_zero, Nat.div_one] at h0
    rw [rdBytes, h0, wrBytes, ih]
    simp only [BitVec.toNat_ofNat]
    have h1 : 256 ^ (n + 1) = 256 * 256 ^ n := by rw [Nat.pow_succ, Nat.mul_comm]
    rw [h1, Nat.mod_mul]

theorem rdBytes_wrBytes_outside (n k : Nat) (m : List Host.Cell) (a v b : Nat) (h : b + k ≤ a ∨ a + n ≤ b) :
    rdBytes (wrBytes m a n v) b k = rdBytes m b k :=
  rdBytes_congr k _ _ b (fun i hi => rdByte_wrBytes_outside n m a v (b + i) (by omega))

theorem wrBytes_wf (n : Nat) : ∀ (m : List Host.Cell) (a v : Nat), Memory.wf m = true → Memory.wf (wrBytes m a n v) = true := by
  induction n with
  | zero => intro m a v h; exact h
  | succ n ih => intro m a v h; exact ih _ _ _ (wrByte_wf _ _ _ h)

/-! Lists of bytes. -/

theorem rdByte_wrList_outside (l : List Byte) : ∀ (m : List Host.Cell) (a b : Nat), (b < a ∨ a + l.length ≤ b) →
    rdByte (wrList m a l) b = rdByte m b := by
  induction l with
  | nil => intros; rfl
  | cons x t ih =>
    intro m a b h
    simp only [List.length_cons] at h
    rw [wrList, ih _ _ _ (by omega), rdByte_wrByte, if_neg (by omega)]

theorem wrList_wf (l : List Byte) : ∀ (m : List Host.Cell) (a : Nat), Memory.wf m = true → Memory.wf (wrList m a l) = true := by
  induction l with
  | nil => intro m a h; exact h
  | cons x t ih => intro m a h; exact ih _ _ (wrByte_wf _ _ _ h)

/-! The operations of the state. -/

theorem wr64_mem (s : State) (pa : Nat) (x : DWord) : (wr64 s pa x).mem = wrBytes s.mem pa 8 x.toNat := rfl

theorem putBytes_mem (s : State) (pa n v : Nat) : (putBytes s pa n v).mem = wrBytes s.mem pa n v := by
  unfold putBytes; split <;> rfl

theorem wr64_wf (s : State) (pa : Nat) (x : DWord) (h : Memory.wf s.mem = true) : Memory.wf (wr64 s pa x).mem = true :=
  wrBytes_wf _ _ _ _ h

theorem putBytes_wf (s : State) (pa n v : Nat) (h : Memory.wf s.mem = true) : Memory.wf (putBytes s pa n v).mem = true := by
  rw [putBytes_mem]; exact wrBytes_wf _ _ _ _ h

theorem setPoison_wf (s : State) (pa : Nat) (b : Bool) (h : Memory.wf s.mem = true) : Memory.wf (setPoison s pa b).mem = true := h

/-- A 64-bit word reads back. -/
theorem rd64_wr64 (s : State) (pa : Nat) (x : DWord) : rd64 (wr64 s pa x) pa = x := by
  have h : x.toNat < 2 ^ 64 := x.isLt
  simp only [rd64, wr64_mem, rdBytes_wrBytes, w64]
  apply BitVec.eq_of_toNat_eq
  simp only [BitVec.toNat_ofNat]
  omega

end Sys2Proof.Machine
end

