-- ==== Sys2Proof/Laws/State.lean ====
section
/-! SUPPORT. What each named update of the state and of a warp leaves unchanged: one lemma for each field and each update. -/

namespace Sys2Proof.Machine

@[simp] theorem setPart_fit (s : State) (p : Nat) (x : Part) : (setPart s p x).fit = s.fit := rfl
@[simp] theorem setPart_mem (s : State) (p : Nat) (x : Part) : (setPart s p x).mem = s.mem := rfl
@[simp] theorem setPart_poison (s : State) (p : Nat) (x : Part) : (setPart s p x).poison = s.poison := rfl
@[simp] theorem setPart_clocks (s : State) (p : Nat) (x : Part) : (setPart s p x).clocks = s.clocks := rfl
@[simp] theorem setPart_timeNs (s : State) (p : Nat) (x : Part) : (setPart s p x).timeNs = s.timeNs := rfl
@[simp] theorem setPart_ltcap (s : State) (p : Nat) (x : Part) : (setPart s p x).ltcap = s.ltcap := rfl
@[simp] theorem setPart_point (s : State) (p : Nat) (x : Part) : (setPart s p x).point = s.point := rfl
@[simp] theorem setPart_power (s : State) (p : Nat) (x : Part) : (setPart s p x).power = s.power := rfl
@[simp] theorem setPart_volts (s : State) (p : Nat) (x : Part) : (setPart s p x).volts = s.volts := rfl
@[simp] theorem setPart_rails (s : State) (p : Nat) (x : Part) : (setPart s p x).rails = s.rails := rfl
@[simp] theorem setPart_lostDies (s : State) (p : Nat) (x : Part) : (setPart s p x).lostDies = s.lostDies := rfl
@[simp] theorem setPart_bounds (s : State) (p : Nat) (x : Part) : (setPart s p x).bounds = s.bounds := rfl
@[simp] theorem setPart_zlinks (s : State) (p : Nat) (x : Part) : (setPart s p x).zlinks = s.zlinks := rfl
@[simp] theorem setPart_sparesUsed (s : State) (p : Nat) (x : Part) : (setPart s p x).sparesUsed = s.sparesUsed := rfl
@[simp] theorem setPart_lostSlices (s : State) (p : Nat) (x : Part) : (setPart s p x).lostSlices = s.lostSlices := rfl
@[simp] theorem setPart_lostFarCh (s : State) (p : Nat) (x : Part) : (setPart s p x).lostFarCh = s.lostFarCh := rfl
@[simp] theorem setPart_thermal (s : State) (p : Nat) (x : Part) : (setPart s p x).thermal = s.thermal := rfl
@[simp] theorem setPart_zlaunch (s : State) (p : Nat) (x : Part) : (setPart s p x).zlaunch = s.zlaunch := rfl
@[simp] theorem setPart_firex (s : State) (p : Nat) (x : Part) : (setPart s p x).firex = s.firex := rfl
@[simp] theorem setPart_vds (s : State) (p : Nat) (x : Part) : (setPart s p x).vds = s.vds := rfl
@[simp] theorem setPart_jobs (s : State) (p : Nat) (x : Part) : (setPart s p x).jobs = s.jobs := rfl
@[simp] theorem setPart_tasks (s : State) (p : Nat) (x : Part) : (setPart s p x).tasks = s.tasks := rfl
@[simp] theorem setPart_cores (s : State) (p : Nat) (x : Part) : (setPart s p x).cores = s.cores := rfl
@[simp] theorem setPart_dtlb (s : State) (p : Nat) (x : Part) : (setPart s p x).dtlb = s.dtlb := rfl
@[simp] theorem setPart_l2 (s : State) (p : Nat) (x : Part) : (setPart s p x).l2 = s.l2 := rfl
@[simp] theorem setPart_ats (s : State) (p : Nat) (x : Part) : (setPart s p x).ats = s.ats := rfl
@[simp] theorem setPart_parks (s : State) (p : Nat) (x : Part) : (setPart s p x).parks = s.parks := rfl
@[simp] theorem setPart_agenda (s : State) (p : Nat) (x : Part) : (setPart s p x).agenda = s.agenda := rfl
@[simp] theorem setPart_cur (s : State) (p : Nat) (x : Part) : (setPart s p x).cur = s.cur := rfl
@[simp] theorem setPart_latCur (s : State) (p : Nat) (x : Part) : (setPart s p x).latCur = s.latCur := rfl
@[simp] theorem setPart_futs (s : State) (p : Nat) (x : Part) : (setPart s p x).futs = s.futs := rfl
@[simp] theorem setPart_freeIx (s : State) (p : Nat) (x : Part) : (setPart s p x).freeIx = s.freeIx := rfl
@[simp] theorem setPart_seq (s : State) (p : Nat) (x : Part) : (setPart s p x).seq = s.seq := rfl

@[simp] theorem setVd_fit (s : State) (n : Nat) (x : Vd) : (setVd s n x).fit = s.fit := rfl
@[simp] theorem setVd_mem (s : State) (n : Nat) (x : Vd) : (setVd s n x).mem = s.mem := rfl
@[simp] theorem setVd_poison (s : State) (n : Nat) (x : Vd) : (setVd s n x).poison = s.poison := rfl
@[simp] theorem setVd_clocks (s : State) (n : Nat) (x : Vd) : (setVd s n x).clocks = s.clocks := rfl
@[simp] theorem setVd_timeNs (s : State) (n : Nat) (x : Vd) : (setVd s n x).timeNs = s.timeNs := rfl
@[simp] theorem setVd_ltcap (s : State) (n : Nat) (x : Vd) : (setVd s n x).ltcap = s.ltcap := rfl
@[simp] theorem setVd_point (s : State) (n : Nat) (x : Vd) : (setVd s n x).point = s.point := rfl
@[simp] theorem setVd_power (s : State) (n : Nat) (x : Vd) : (setVd s n x).power = s.power := rfl
@[simp] theorem setVd_volts (s : State) (n : Nat) (x : Vd) : (setVd s n x).volts = s.volts := rfl
@[simp] theorem setVd_rails (s : State) (n : Nat) (x : Vd) : (setVd s n x).rails = s.rails := rfl
@[simp] theorem setVd_lostDies (s : State) (n : Nat) (x : Vd) : (setVd s n x).lostDies = s.lostDies := rfl
@[simp] theorem setVd_bounds (s : State) (n : Nat) (x : Vd) : (setVd s n x).bounds = s.bounds := rfl
@[simp] theorem setVd_zlinks (s : State) (n : Nat) (x : Vd) : (setVd s n x).zlinks = s.zlinks := rfl
@[simp] theorem setVd_sparesUsed (s : State) (n : Nat) (x : Vd) : (setVd s n x).sparesUsed = s.sparesUsed := rfl
@[simp] theorem setVd_lostSlices (s : State) (n : Nat) (x : Vd) : (setVd s n x).lostSlices = s.lostSlices := rfl
@[simp] theorem setVd_lostFarCh (s : State) (n : Nat) (x : Vd) : (setVd s n x).lostFarCh = s.lostFarCh := rfl
@[simp] theorem setVd_thermal (s : State) (n : Nat) (x : Vd) : (setVd s n x).thermal = s.thermal := rfl
@[simp] theorem setVd_zlaunch (s : State) (n : Nat) (x : Vd) : (setVd s n x).zlaunch = s.zlaunch := rfl
@[simp] theorem setVd_firex (s : State) (n : Nat) (x : Vd) : (setVd s n x).firex = s.firex := rfl
@[simp] theorem setVd_parts (s : State) (n : Nat) (x : Vd) : (setVd s n x).parts = s.parts := rfl
@[simp] theorem setVd_jobs (s : State) (n : Nat) (x : Vd) : (setVd s n x).jobs = s.jobs := rfl
@[simp] theorem setVd_tasks (s : State) (n : Nat) (x : Vd) : (setVd s n x).tasks = s.tasks := rfl
@[simp] theorem setVd_cores (s : State) (n : Nat) (x : Vd) : (setVd s n x).cores = s.cores := rfl
@[simp] theorem setVd_dtlb (s : State) (n : Nat) (x : Vd) : (setVd s n x).dtlb = s.dtlb := rfl
@[simp] theorem setVd_l2 (s : State) (n : Nat) (x : Vd) : (setVd s n x).l2 = s.l2 := rfl
@[simp] theorem setVd_ats (s : State) (n : Nat) (x : Vd) : (setVd s n x).ats = s.ats := rfl
@[simp] theorem setVd_parks (s : State) (n : Nat) (x : Vd) : (setVd s n x).parks = s.parks := rfl
@[simp] theorem setVd_agenda (s : State) (n : Nat) (x : Vd) : (setVd s n x).agenda = s.agenda := rfl
@[simp] theorem setVd_cur (s : State) (n : Nat) (x : Vd) : (setVd s n x).cur = s.cur := rfl
@[simp] theorem setVd_latCur (s : State) (n : Nat) (x : Vd) : (setVd s n x).latCur = s.latCur := rfl
@[simp] theorem setVd_futs (s : State) (n : Nat) (x : Vd) : (setVd s n x).futs = s.futs := rfl
@[simp] theorem setVd_freeIx (s : State) (n : Nat) (x : Vd) : (setVd s n x).freeIx = s.freeIx := rfl
@[simp] theorem setVd_seq (s : State) (n : Nat) (x : Vd) : (setVd s n x).seq = s.seq := rfl

@[simp] theorem setCore_fit (s : State) (c : Nat) (x : Core) : (setCore s c x).fit = s.fit := rfl
@[simp] theorem setCore_mem (s : State) (c : Nat) (x : Core) : (setCore s c x).mem = s.mem := rfl
@[simp] theorem setCore_poison (s : State) (c : Nat) (x : Core) : (setCore s c x).poison = s.poison := rfl
@[simp] theorem setCore_clocks (s : State) (c : Nat) (x : Core) : (setCore s c x).clocks = s.clocks := rfl
@[simp] theorem setCore_timeNs (s : State) (c : Nat) (x : Core) : (setCore s c x).timeNs = s.timeNs := rfl
@[simp] theorem setCore_ltcap (s : State) (c : Nat) (x : Core) : (setCore s c x).ltcap = s.ltcap := rfl
@[simp] theorem setCore_point (s : State) (c : Nat) (x : Core) : (setCore s c x).point = s.point := rfl
@[simp] theorem setCore_power (s : State) (c : Nat) (x : Core) : (setCore s c x).power = s.power := rfl
@[simp] theorem setCore_volts (s : State) (c : Nat) (x : Core) : (setCore s c x).volts = s.volts := rfl
@[simp] theorem setCore_rails (s : State) (c : Nat) (x : Core) : (setCore s c x).rails = s.rails := rfl
@[simp] theorem setCore_lostDies (s : State) (c : Nat) (x : Core) : (setCore s c x).lostDies = s.lostDies := rfl
@[simp] theorem setCore_bounds (s : State) (c : Nat) (x : Core) : (setCore s c x).bounds = s.bounds := rfl
@[simp] theorem setCore_zlinks (s : State) (c : Nat) (x : Core) : (setCore s c x).zlinks = s.zlinks := rfl
@[simp] theorem setCore_sparesUsed (s : State) (c : Nat) (x : Core) : (setCore s c x).sparesUsed = s.sparesUsed := rfl
@[simp] theorem setCore_lostSlices (s : State) (c : Nat) (x : Core) : (setCore s c x).lostSlices = s.lostSlices := rfl
@[simp] theorem setCore_lostFarCh (s : State) (c : Nat) (x : Core) : (setCore s c x).lostFarCh = s.lostFarCh := rfl
@[simp] theorem setCore_thermal (s : State) (c : Nat) (x : Core) : (setCore s c x).thermal = s.thermal := rfl
@[simp] theorem setCore_zlaunch (s : State) (c : Nat) (x : Core) : (setCore s c x).zlaunch = s.zlaunch := rfl
@[simp] theorem setCore_firex (s : State) (c : Nat) (x : Core) : (setCore s c x).firex = s.firex := rfl
@[simp] theorem setCore_parts (s : State) (c : Nat) (x : Core) : (setCore s c x).parts = s.parts := rfl
@[simp] theorem setCore_vds (s : State) (c : Nat) (x : Core) : (setCore s c x).vds = s.vds := rfl
@[simp] theorem setCore_jobs (s : State) (c : Nat) (x : Core) : (setCore s c x).jobs = s.jobs := rfl
@[simp] theorem setCore_tasks (s : State) (c : Nat) (x : Core) : (setCore s c x).tasks = s.tasks := rfl
@[simp] theorem setCore_dtlb (s : State) (c : Nat) (x : Core) : (setCore s c x).dtlb = s.dtlb := rfl
@[simp] theorem setCore_l2 (s : State) (c : Nat) (x : Core) : (setCore s c x).l2 = s.l2 := rfl
@[simp] theorem setCore_ats (s : State) (c : Nat) (x : Core) : (setCore s c x).ats = s.ats := rfl
@[simp] theorem setCore_parks (s : State) (c : Nat) (x : Core) : (setCore s c x).parks = s.parks := rfl
@[simp] theorem setCore_agenda (s : State) (c : Nat) (x : Core) : (setCore s c x).agenda = s.agenda := rfl
@[simp] theorem setCore_cur (s : State) (c : Nat) (x : Core) : (setCore s c x).cur = s.cur := rfl
@[simp] theorem setCore_latCur (s : State) (c : Nat) (x : Core) : (setCore s c x).latCur = s.latCur := rfl
@[simp] theorem setCore_futs (s : State) (c : Nat) (x : Core) : (setCore s c x).futs = s.futs := rfl
@[simp] theorem setCore_freeIx (s : State) (c : Nat) (x : Core) : (setCore s c x).freeIx = s.freeIx := rfl
@[simp] theorem setCore_seq (s : State) (c : Nat) (x : Core) : (setCore s c x).seq = s.seq := rfl

@[simp] theorem setTask_fit (s : State) (k : Nat) (t : Task) : (setTask s k t).fit = s.fit := rfl
@[simp] theorem setTask_mem (s : State) (k : Nat) (t : Task) : (setTask s k t).mem = s.mem := rfl
@[simp] theorem setTask_poison (s : State) (k : Nat) (t : Task) : (setTask s k t).poison = s.poison := rfl
@[simp] theorem setTask_clocks (s : State) (k : Nat) (t : Task) : (setTask s k t).clocks = s.clocks := rfl
@[simp] theorem setTask_timeNs (s : State) (k : Nat) (t : Task) : (setTask s k t).timeNs = s.timeNs := rfl
@[simp] theorem setTask_ltcap (s : State) (k : Nat) (t : Task) : (setTask s k t).ltcap = s.ltcap := rfl
@[simp] theorem setTask_point (s : State) (k : Nat) (t : Task) : (setTask s k t).point = s.point := rfl
@[simp] theorem setTask_power (s : State) (k : Nat) (t : Task) : (setTask s k t).power = s.power := rfl
@[simp] theorem setTask_volts (s : State) (k : Nat) (t : Task) : (setTask s k t).volts = s.volts := rfl
@[simp] theorem setTask_rails (s : State) (k : Nat) (t : Task) : (setTask s k t).rails = s.rails := rfl
@[simp] theorem setTask_lostDies (s : State) (k : Nat) (t : Task) : (setTask s k t).lostDies = s.lostDies := rfl
@[simp] theorem setTask_bounds (s : State) (k : Nat) (t : Task) : (setTask s k t).bounds = s.bounds := rfl
@[simp] theorem setTask_zlinks (s : State) (k : Nat) (t : Task) : (setTask s k t).zlinks = s.zlinks := rfl
@[simp] theorem setTask_sparesUsed (s : State) (k : Nat) (t : Task) : (setTask s k t).sparesUsed = s.sparesUsed := rfl
@[simp] theorem setTask_lostSlices (s : State) (k : Nat) (t : Task) : (setTask s k t).lostSlices = s.lostSlices := rfl
@[simp] theorem setTask_lostFarCh (s : State) (k : Nat) (t : Task) : (setTask s k t).lostFarCh = s.lostFarCh := rfl
@[simp] theorem setTask_thermal (s : State) (k : Nat) (t : Task) : (setTask s k t).thermal = s.thermal := rfl
@[simp] theorem setTask_zlaunch (s : State) (k : Nat) (t : Task) : (setTask s k t).zlaunch = s.zlaunch := rfl
@[simp] theorem setTask_firex (s : State) (k : Nat) (t : Task) : (setTask s k t).firex = s.firex := rfl
@[simp] theorem setTask_parts (s : State) (k : Nat) (t : Task) : (setTask s k t).parts = s.parts := rfl
@[simp] theorem setTask_vds (s : State) (k : Nat) (t : Task) : (setTask s k t).vds = s.vds := rfl
@[simp] theorem setTask_jobs (s : State) (k : Nat) (t : Task) : (setTask s k t).jobs = s.jobs := rfl
@[simp] theorem setTask_cores (s : State) (k : Nat) (t : Task) : (setTask s k t).cores = s.cores := rfl
@[simp] theorem setTask_dtlb (s : State) (k : Nat) (t : Task) : (setTask s k t).dtlb = s.dtlb := rfl
@[simp] theorem setTask_l2 (s : State) (k : Nat) (t : Task) : (setTask s k t).l2 = s.l2 := rfl
@[simp] theorem setTask_ats (s : State) (k : Nat) (t : Task) : (setTask s k t).ats = s.ats := rfl
@[simp] theorem setTask_parks (s : State) (k : Nat) (t : Task) : (setTask s k t).parks = s.parks := rfl
@[simp] theorem setTask_agenda (s : State) (k : Nat) (t : Task) : (setTask s k t).agenda = s.agenda := rfl
@[simp] theorem setTask_cur (s : State) (k : Nat) (t : Task) : (setTask s k t).cur = s.cur := rfl
@[simp] theorem setTask_latCur (s : State) (k : Nat) (t : Task) : (setTask s k t).latCur = s.latCur := rfl
@[simp] theorem setTask_futs (s : State) (k : Nat) (t : Task) : (setTask s k t).futs = s.futs := rfl
@[simp] theorem setTask_freeIx (s : State) (k : Nat) (t : Task) : (setTask s k t).freeIx = s.freeIx := rfl
@[simp] theorem setTask_seq (s : State) (k : Nat) (t : Task) : (setTask s k t).seq = s.seq := rfl

@[simp] theorem setJob_fit (s : State) (j : Job) : (setJob s j).fit = s.fit := rfl
@[simp] theorem setJob_mem (s : State) (j : Job) : (setJob s j).mem = s.mem := rfl
@[simp] theorem setJob_poison (s : State) (j : Job) : (setJob s j).poison = s.poison := rfl
@[simp] theorem setJob_clocks (s : State) (j : Job) : (setJob s j).clocks = s.clocks := rfl
@[simp] theorem setJob_timeNs (s : State) (j : Job) : (setJob s j).timeNs = s.timeNs := rfl
@[simp] theorem setJob_ltcap (s : State) (j : Job) : (setJob s j).ltcap = s.ltcap := rfl
@[simp] theorem setJob_point (s : State) (j : Job) : (setJob s j).point = s.point := rfl
@[simp] theorem setJob_power (s : State) (j : Job) : (setJob s j).power = s.power := rfl
@[simp] theorem setJob_volts (s : State) (j : Job) : (setJob s j).volts = s.volts := rfl
@[simp] theorem setJob_rails (s : State) (j : Job) : (setJob s j).rails = s.rails := rfl
@[simp] theorem setJob_lostDies (s : State) (j : Job) : (setJob s j).lostDies = s.lostDies := rfl
@[simp] theorem setJob_bounds (s : State) (j : Job) : (setJob s j).bounds = s.bounds := rfl
@[simp] theorem setJob_zlinks (s : State) (j : Job) : (setJob s j).zlinks = s.zlinks := rfl
@[simp] theorem setJob_sparesUsed (s : State) (j : Job) : (setJob s j).sparesUsed = s.sparesUsed := rfl
@[simp] theorem setJob_lostSlices (s : State) (j : Job) : (setJob s j).lostSlices = s.lostSlices := rfl
@[simp] theorem setJob_lostFarCh (s : State) (j : Job) : (setJob s j).lostFarCh = s.lostFarCh := rfl
@[simp] theorem setJob_thermal (s : State) (j : Job) : (setJob s j).thermal = s.thermal := rfl
@[simp] theorem setJob_zlaunch (s : State) (j : Job) : (setJob s j).zlaunch = s.zlaunch := rfl
@[simp] theorem setJob_firex (s : State) (j : Job) : (setJob s j).firex = s.firex := rfl
@[simp] theorem setJob_parts (s : State) (j : Job) : (setJob s j).parts = s.parts := rfl
@[simp] theorem setJob_vds (s : State) (j : Job) : (setJob s j).vds = s.vds := rfl
@[simp] theorem setJob_tasks (s : State) (j : Job) : (setJob s j).tasks = s.tasks := rfl
@[simp] theorem setJob_cores (s : State) (j : Job) : (setJob s j).cores = s.cores := rfl
@[simp] theorem setJob_dtlb (s : State) (j : Job) : (setJob s j).dtlb = s.dtlb := rfl
@[simp] theorem setJob_l2 (s : State) (j : Job) : (setJob s j).l2 = s.l2 := rfl
@[simp] theorem setJob_ats (s : State) (j : Job) : (setJob s j).ats = s.ats := rfl
@[simp] theorem setJob_parks (s : State) (j : Job) : (setJob s j).parks = s.parks := rfl
@[simp] theorem setJob_agenda (s : State) (j : Job) : (setJob s j).agenda = s.agenda := rfl
@[simp] theorem setJob_cur (s : State) (j : Job) : (setJob s j).cur = s.cur := rfl
@[simp] theorem setJob_latCur (s : State) (j : Job) : (setJob s j).latCur = s.latCur := rfl
@[simp] theorem setJob_futs (s : State) (j : Job) : (setJob s j).futs = s.futs := rfl
@[simp] theorem setJob_freeIx (s : State) (j : Job) : (setJob s j).freeIx = s.freeIx := rfl
@[simp] theorem setJob_seq (s : State) (j : Job) : (setJob s j).seq = s.seq := rfl

@[simp] theorem setPoison_fit (s : State) (pa : Nat) (b : Bool) : (setPoison s pa b).fit = s.fit := rfl
@[simp] theorem setPoison_mem (s : State) (pa : Nat) (b : Bool) : (setPoison s pa b).mem = s.mem := rfl
@[simp] theorem setPoison_clocks (s : State) (pa : Nat) (b : Bool) : (setPoison s pa b).clocks = s.clocks := rfl
@[simp] theorem setPoison_timeNs (s : State) (pa : Nat) (b : Bool) : (setPoison s pa b).timeNs = s.timeNs := rfl
@[simp] theorem setPoison_ltcap (s : State) (pa : Nat) (b : Bool) : (setPoison s pa b).ltcap = s.ltcap := rfl
@[simp] theorem setPoison_point (s : State) (pa : Nat) (b : Bool) : (setPoison s pa b).point = s.point := rfl
@[simp] theorem setPoison_power (s : State) (pa : Nat) (b : Bool) : (setPoison s pa b).power = s.power := rfl
@[simp] theorem setPoison_volts (s : State) (pa : Nat) (b : Bool) : (setPoison s pa b).volts = s.volts := rfl
@[simp] theorem setPoison_rails (s : State) (pa : Nat) (b : Bool) : (setPoison s pa b).rails = s.rails := rfl
@[simp] theorem setPoison_lostDies (s : State) (pa : Nat) (b : Bool) : (setPoison s pa b).lostDies = s.lostDies := rfl
@[simp] theorem setPoison_bounds (s : State) (pa : Nat) (b : Bool) : (setPoison s pa b).bounds = s.bounds := rfl
@[simp] theorem setPoison_zlinks (s : State) (pa : Nat) (b : Bool) : (setPoison s pa b).zlinks = s.zlinks := rfl
@[simp] theorem setPoison_sparesUsed (s : State) (pa : Nat) (b : Bool) : (setPoison s pa b).sparesUsed = s.sparesUsed := rfl
@[simp] theorem setPoison_lostSlices (s : State) (pa : Nat) (b : Bool) : (setPoison s pa b).lostSlices = s.lostSlices := rfl
@[simp] theorem setPoison_lostFarCh (s : State) (pa : Nat) (b : Bool) : (setPoison s pa b).lostFarCh = s.lostFarCh := rfl
@[simp] theorem setPoison_thermal (s : State) (pa : Nat) (b : Bool) : (setPoison s pa b).thermal = s.thermal := rfl
@[simp] theorem setPoison_zlaunch (s : State) (pa : Nat) (b : Bool) : (setPoison s pa b).zlaunch = s.zlaunch := rfl
@[simp] theorem setPoison_firex (s : State) (pa : Nat) (b : Bool) : (setPoison s pa b).firex = s.firex := rfl
@[simp] theorem setPoison_parts (s : State) (pa : Nat) (b : Bool) : (setPoison s pa b).parts = s.parts := rfl
@[simp] theorem setPoison_vds (s : State) (pa : Nat) (b : Bool) : (setPoison s pa b).vds = s.vds := rfl
@[simp] theorem setPoison_jobs (s : State) (pa : Nat) (b : Bool) : (setPoison s pa b).jobs = s.jobs := rfl
@[simp] theorem setPoison_tasks (s : State) (pa : Nat) (b : Bool) : (setPoison s pa b).tasks = s.tasks := rfl
@[simp] theorem setPoison_cores (s : State) (pa : Nat) (b : Bool) : (setPoison s pa b).cores = s.cores := rfl
@[simp] theorem setPoison_dtlb (s : State) (pa : Nat) (b : Bool) : (setPoison s pa b).dtlb = s.dtlb := rfl
@[simp] theorem setPoison_l2 (s : State) (pa : Nat) (b : Bool) : (setPoison s pa b).l2 = s.l2 := rfl
@[simp] theorem setPoison_ats (s : State) (pa : Nat) (b : Bool) : (setPoison s pa b).ats = s.ats := rfl
@[simp] theorem setPoison_parks (s : State) (pa : Nat) (b : Bool) : (setPoison s pa b).parks = s.parks := rfl
@[simp] theorem setPoison_agenda (s : State) (pa : Nat) (b : Bool) : (setPoison s pa b).agenda = s.agenda := rfl
@[simp] theorem setPoison_cur (s : State) (pa : Nat) (b : Bool) : (setPoison s pa b).cur = s.cur := rfl
@[simp] theorem setPoison_latCur (s : State) (pa : Nat) (b : Bool) : (setPoison s pa b).latCur = s.latCur := rfl
@[simp] theorem setPoison_futs (s : State) (pa : Nat) (b : Bool) : (setPoison s pa b).futs = s.futs := rfl
@[simp] theorem setPoison_freeIx (s : State) (pa : Nat) (b : Bool) : (setPoison s pa b).freeIx = s.freeIx := rfl
@[simp] theorem setPoison_seq (s : State) (pa : Nat) (b : Bool) : (setPoison s pa b).seq = s.seq := rfl

@[simp] theorem wr64_fit (s : State) (pa : Nat) (x : DWord) : (wr64 s pa x).fit = s.fit := rfl
@[simp] theorem wr64_poison (s : State) (pa : Nat) (x : DWord) : (wr64 s pa x).poison = s.poison := rfl
@[simp] theorem wr64_clocks (s : State) (pa : Nat) (x : DWord) : (wr64 s pa x).clocks = s.clocks := rfl
@[simp] theorem wr64_timeNs (s : State) (pa : Nat) (x : DWord) : (wr64 s pa x).timeNs = s.timeNs := rfl
@[simp] theorem wr64_ltcap (s : State) (pa : Nat) (x : DWord) : (wr64 s pa x).ltcap = s.ltcap := rfl
@[simp] theorem wr64_point (s : State) (pa : Nat) (x : DWord) : (wr64 s pa x).point = s.point := rfl
@[simp] theorem wr64_power (s : State) (pa : Nat) (x : DWord) : (wr64 s pa x).power = s.power := rfl
@[simp] theorem wr64_volts (s : State) (pa : Nat) (x : DWord) : (wr64 s pa x).volts = s.volts := rfl
@[simp] theorem wr64_rails (s : State) (pa : Nat) (x : DWord) : (wr64 s pa x).rails = s.rails := rfl
@[simp] theorem wr64_lostDies (s : State) (pa : Nat) (x : DWord) : (wr64 s pa x).lostDies = s.lostDies := rfl
@[simp] theorem wr64_bounds (s : State) (pa : Nat) (x : DWord) : (wr64 s pa x).bounds = s.bounds := rfl
@[simp] theorem wr64_zlinks (s : State) (pa : Nat) (x : DWord) : (wr64 s pa x).zlinks = s.zlinks := rfl
@[simp] theorem wr64_sparesUsed (s : State) (pa : Nat) (x : DWord) : (wr64 s pa x).sparesUsed = s.sparesUsed := rfl
@[simp] theorem wr64_lostSlices (s : State) (pa : Nat) (x : DWord) : (wr64 s pa x).lostSlices = s.lostSlices := rfl
@[simp] theorem wr64_lostFarCh (s : State) (pa : Nat) (x : DWord) : (wr64 s pa x).lostFarCh = s.lostFarCh := rfl
@[simp] theorem wr64_thermal (s : State) (pa : Nat) (x : DWord) : (wr64 s pa x).thermal = s.thermal := rfl
@[simp] theorem wr64_zlaunch (s : State) (pa : Nat) (x : DWord) : (wr64 s pa x).zlaunch = s.zlaunch := rfl
@[simp] theorem wr64_firex (s : State) (pa : Nat) (x : DWord) : (wr64 s pa x).firex = s.firex := rfl
@[simp] theorem wr64_parts (s : State) (pa : Nat) (x : DWord) : (wr64 s pa x).parts = s.parts := rfl
@[simp] theorem wr64_vds (s : State) (pa : Nat) (x : DWord) : (wr64 s pa x).vds = s.vds := rfl
@[simp] theorem wr64_jobs (s : State) (pa : Nat) (x : DWord) : (wr64 s pa x).jobs = s.jobs := rfl
@[simp] theorem wr64_tasks (s : State) (pa : Nat) (x : DWord) : (wr64 s pa x).tasks = s.tasks := rfl
@[simp] theorem wr64_cores (s : State) (pa : Nat) (x : DWord) : (wr64 s pa x).cores = s.cores := rfl
@[simp] theorem wr64_dtlb (s : State) (pa : Nat) (x : DWord) : (wr64 s pa x).dtlb = s.dtlb := rfl
@[simp] theorem wr64_l2 (s : State) (pa : Nat) (x : DWord) : (wr64 s pa x).l2 = s.l2 := rfl
@[simp] theorem wr64_ats (s : State) (pa : Nat) (x : DWord) : (wr64 s pa x).ats = s.ats := rfl
@[simp] theorem wr64_parks (s : State) (pa : Nat) (x : DWord) : (wr64 s pa x).parks = s.parks := rfl
@[simp] theorem wr64_agenda (s : State) (pa : Nat) (x : DWord) : (wr64 s pa x).agenda = s.agenda := rfl
@[simp] theorem wr64_cur (s : State) (pa : Nat) (x : DWord) : (wr64 s pa x).cur = s.cur := rfl
@[simp] theorem wr64_latCur (s : State) (pa : Nat) (x : DWord) : (wr64 s pa x).latCur = s.latCur := rfl
@[simp] theorem wr64_futs (s : State) (pa : Nat) (x : DWord) : (wr64 s pa x).futs = s.futs := rfl
@[simp] theorem wr64_freeIx (s : State) (pa : Nat) (x : DWord) : (wr64 s pa x).freeIx = s.freeIx := rfl
@[simp] theorem wr64_seq (s : State) (pa : Nat) (x : DWord) : (wr64 s pa x).seq = s.seq := rfl

@[simp] theorem putBytes_fit (s : State) (pa : Nat) (n : Nat) (x : Nat) : (putBytes s pa n x).fit = s.fit := by unfold putBytes; split <;> rfl
@[simp] theorem putBytes_clocks (s : State) (pa : Nat) (n : Nat) (x : Nat) : (putBytes s pa n x).clocks = s.clocks := by unfold putBytes; split <;> rfl
@[simp] theorem putBytes_timeNs (s : State) (pa : Nat) (n : Nat) (x : Nat) : (putBytes s pa n x).timeNs = s.timeNs := by unfold putBytes; split <;> rfl
@[simp] theorem putBytes_ltcap (s : State) (pa : Nat) (n : Nat) (x : Nat) : (putBytes s pa n x).ltcap = s.ltcap := by unfold putBytes; split <;> rfl
@[simp] theorem putBytes_point (s : State) (pa : Nat) (n : Nat) (x : Nat) : (putBytes s pa n x).point = s.point := by unfold putBytes; split <;> rfl
@[simp] theorem putBytes_power (s : State) (pa : Nat) (n : Nat) (x : Nat) : (putBytes s pa n x).power = s.power := by unfold putBytes; split <;> rfl
@[simp] theorem putBytes_volts (s : State) (pa : Nat) (n : Nat) (x : Nat) : (putBytes s pa n x).volts = s.volts := by unfold putBytes; split <;> rfl
@[simp] theorem putBytes_rails (s : State) (pa : Nat) (n : Nat) (x : Nat) : (putBytes s pa n x).rails = s.rails := by unfold putBytes; split <;> rfl
@[simp] theorem putBytes_lostDies (s : State) (pa : Nat) (n : Nat) (x : Nat) : (putBytes s pa n x).lostDies = s.lostDies := by unfold putBytes; split <;> rfl
@[simp] theorem putBytes_bounds (s : State) (pa : Nat) (n : Nat) (x : Nat) : (putBytes s pa n x).bounds = s.bounds := by unfold putBytes; split <;> rfl
@[simp] theorem putBytes_zlinks (s : State) (pa : Nat) (n : Nat) (x : Nat) : (putBytes s pa n x).zlinks = s.zlinks := by unfold putBytes; split <;> rfl
@[simp] theorem putBytes_sparesUsed (s : State) (pa : Nat) (n : Nat) (x : Nat) : (putBytes s pa n x).sparesUsed = s.sparesUsed := by unfold putBytes; split <;> rfl
@[simp] theorem putBytes_lostSlices (s : State) (pa : Nat) (n : Nat) (x : Nat) : (putBytes s pa n x).lostSlices = s.lostSlices := by unfold putBytes; split <;> rfl
@[simp] theorem putBytes_lostFarCh (s : State) (pa : Nat) (n : Nat) (x : Nat) : (putBytes s pa n x).lostFarCh = s.lostFarCh := by unfold putBytes; split <;> rfl
@[simp] theorem putBytes_thermal (s : State) (pa : Nat) (n : Nat) (x : Nat) : (putBytes s pa n x).thermal = s.thermal := by unfold putBytes; split <;> rfl
@[simp] theorem putBytes_zlaunch (s : State) (pa : Nat) (n : Nat) (x : Nat) : (putBytes s pa n x).zlaunch = s.zlaunch := by unfold putBytes; split <;> rfl
@[simp] theorem putBytes_firex (s : State) (pa : Nat) (n : Nat) (x : Nat) : (putBytes s pa n x).firex = s.firex := by unfold putBytes; split <;> rfl
@[simp] theorem putBytes_parts (s : State) (pa : Nat) (n : Nat) (x : Nat) : (putBytes s pa n x).parts = s.parts := by unfold putBytes; split <;> rfl
@[simp] theorem putBytes_vds (s : State) (pa : Nat) (n : Nat) (x : Nat) : (putBytes s pa n x).vds = s.vds := by unfold putBytes; split <;> rfl
@[simp] theorem putBytes_jobs (s : State) (pa : Nat) (n : Nat) (x : Nat) : (putBytes s pa n x).jobs = s.jobs := by unfold putBytes; split <;> rfl
@[simp] theorem putBytes_tasks (s : State) (pa : Nat) (n : Nat) (x : Nat) : (putBytes s pa n x).tasks = s.tasks := by unfold putBytes; split <;> rfl
@[simp] theorem putBytes_cores (s : State) (pa : Nat) (n : Nat) (x : Nat) : (putBytes s pa n x).cores = s.cores := by unfold putBytes; split <;> rfl
@[simp] theorem putBytes_dtlb (s : State) (pa : Nat) (n : Nat) (x : Nat) : (putBytes s pa n x).dtlb = s.dtlb := by unfold putBytes; split <;> rfl
@[simp] theorem putBytes_l2 (s : State) (pa : Nat) (n : Nat) (x : Nat) : (putBytes s pa n x).l2 = s.l2 := by unfold putBytes; split <;> rfl
@[simp] theorem putBytes_ats (s : State) (pa : Nat) (n : Nat) (x : Nat) : (putBytes s pa n x).ats = s.ats := by unfold putBytes; split <;> rfl
@[simp] theorem putBytes_parks (s : State) (pa : Nat) (n : Nat) (x : Nat) : (putBytes s pa n x).parks = s.parks := by unfold putBytes; split <;> rfl
@[simp] theorem putBytes_agenda (s : State) (pa : Nat) (n : Nat) (x : Nat) : (putBytes s pa n x).agenda = s.agenda := by unfold putBytes; split <;> rfl
@[simp] theorem putBytes_cur (s : State) (pa : Nat) (n : Nat) (x : Nat) : (putBytes s pa n x).cur = s.cur := by unfold putBytes; split <;> rfl
@[simp] theorem putBytes_latCur (s : State) (pa : Nat) (n : Nat) (x : Nat) : (putBytes s pa n x).latCur = s.latCur := by unfold putBytes; split <;> rfl
@[simp] theorem putBytes_futs (s : State) (pa : Nat) (n : Nat) (x : Nat) : (putBytes s pa n x).futs = s.futs := by unfold putBytes; split <;> rfl
@[simp] theorem putBytes_freeIx (s : State) (pa : Nat) (n : Nat) (x : Nat) : (putBytes s pa n x).freeIx = s.freeIx := by unfold putBytes; split <;> rfl
@[simp] theorem putBytes_seq (s : State) (pa : Nat) (n : Nat) (x : Nat) : (putBytes s pa n x).seq = s.seq := by unfold putBytes; split <;> rfl

@[simp] theorem setWarp_fit (s : State) (k : Nat) (i : Nat) (w : Warp) : (setWarp s k i w).fit = s.fit := by unfold setWarp; split <;> rfl
@[simp] theorem setWarp_mem (s : State) (k : Nat) (i : Nat) (w : Warp) : (setWarp s k i w).mem = s.mem := by unfold setWarp; split <;> rfl
@[simp] theorem setWarp_poison (s : State) (k : Nat) (i : Nat) (w : Warp) : (setWarp s k i w).poison = s.poison := by unfold setWarp; split <;> rfl
@[simp] theorem setWarp_clocks (s : State) (k : Nat) (i : Nat) (w : Warp) : (setWarp s k i w).clocks = s.clocks := by unfold setWarp; split <;> rfl
@[simp] theorem setWarp_timeNs (s : State) (k : Nat) (i : Nat) (w : Warp) : (setWarp s k i w).timeNs = s.timeNs := by unfold setWarp; split <;> rfl
@[simp] theorem setWarp_ltcap (s : State) (k : Nat) (i : Nat) (w : Warp) : (setWarp s k i w).ltcap = s.ltcap := by unfold setWarp; split <;> rfl
@[simp] theorem setWarp_point (s : State) (k : Nat) (i : Nat) (w : Warp) : (setWarp s k i w).point = s.point := by unfold setWarp; split <;> rfl
@[simp] theorem setWarp_power (s : State) (k : Nat) (i : Nat) (w : Warp) : (setWarp s k i w).power = s.power := by unfold setWarp; split <;> rfl
@[simp] theorem setWarp_volts (s : State) (k : Nat) (i : Nat) (w : Warp) : (setWarp s k i w).volts = s.volts := by unfold setWarp; split <;> rfl
@[simp] theorem setWarp_rails (s : State) (k : Nat) (i : Nat) (w : Warp) : (setWarp s k i w).rails = s.rails := by unfold setWarp; split <;> rfl
@[simp] theorem setWarp_lostDies (s : State) (k : Nat) (i : Nat) (w : Warp) : (setWarp s k i w).lostDies = s.lostDies := by unfold setWarp; split <;> rfl
@[simp] theorem setWarp_bounds (s : State) (k : Nat) (i : Nat) (w : Warp) : (setWarp s k i w).bounds = s.bounds := by unfold setWarp; split <;> rfl
@[simp] theorem setWarp_zlinks (s : State) (k : Nat) (i : Nat) (w : Warp) : (setWarp s k i w).zlinks = s.zlinks := by unfold setWarp; split <;> rfl
@[simp] theorem setWarp_sparesUsed (s : State) (k : Nat) (i : Nat) (w : Warp) : (setWarp s k i w).sparesUsed = s.sparesUsed := by unfold setWarp; split <;> rfl
@[simp] theorem setWarp_lostSlices (s : State) (k : Nat) (i : Nat) (w : Warp) : (setWarp s k i w).lostSlices = s.lostSlices := by unfold setWarp; split <;> rfl
@[simp] theorem setWarp_lostFarCh (s : State) (k : Nat) (i : Nat) (w : Warp) : (setWarp s k i w).lostFarCh = s.lostFarCh := by unfold setWarp; split <;> rfl
@[simp] theorem setWarp_thermal (s : State) (k : Nat) (i : Nat) (w : Warp) : (setWarp s k i w).thermal = s.thermal := by unfold setWarp; split <;> rfl
@[simp] theorem setWarp_zlaunch (s : State) (k : Nat) (i : Nat) (w : Warp) : (setWarp s k i w).zlaunch = s.zlaunch := by unfold setWarp; split <;> rfl
@[simp] theorem setWarp_firex (s : State) (k : Nat) (i : Nat) (w : Warp) : (setWarp s k i w).firex = s.firex := by unfold setWarp; split <;> rfl
@[simp] theorem setWarp_parts (s : State) (k : Nat) (i : Nat) (w : Warp) : (setWarp s k i w).parts = s.parts := by unfold setWarp; split <;> rfl
@[simp] theorem setWarp_vds (s : State) (k : Nat) (i : Nat) (w : Warp) : (setWarp s k i w).vds = s.vds := by unfold setWarp; split <;> rfl
@[simp] theorem setWarp_jobs (s : State) (k : Nat) (i : Nat) (w : Warp) : (setWarp s k i w).jobs = s.jobs := by unfold setWarp; split <;> rfl
@[simp] theorem setWarp_cores (s : State) (k : Nat) (i : Nat) (w : Warp) : (setWarp s k i w).cores = s.cores := by unfold setWarp; split <;> rfl
@[simp] theorem setWarp_dtlb (s : State) (k : Nat) (i : Nat) (w : Warp) : (setWarp s k i w).dtlb = s.dtlb := by unfold setWarp; split <;> rfl
@[simp] theorem setWarp_l2 (s : State) (k : Nat) (i : Nat) (w : Warp) : (setWarp s k i w).l2 = s.l2 := by unfold setWarp; split <;> rfl
@[simp] theorem setWarp_ats (s : State) (k : Nat) (i : Nat) (w : Warp) : (setWarp s k i w).ats = s.ats := by unfold setWarp; split <;> rfl
@[simp] theorem setWarp_parks (s : State) (k : Nat) (i : Nat) (w : Warp) : (setWarp s k i w).parks = s.parks := by unfold setWarp; split <;> rfl
@[simp] theorem setWarp_agenda (s : State) (k : Nat) (i : Nat) (w : Warp) : (setWarp s k i w).agenda = s.agenda := by unfold setWarp; split <;> rfl
@[simp] theorem setWarp_cur (s : State) (k : Nat) (i : Nat) (w : Warp) : (setWarp s k i w).cur = s.cur := by unfold setWarp; split <;> rfl
@[simp] theorem setWarp_latCur (s : State) (k : Nat) (i : Nat) (w : Warp) : (setWarp s k i w).latCur = s.latCur := by unfold setWarp; split <;> rfl
@[simp] theorem setWarp_futs (s : State) (k : Nat) (i : Nat) (w : Warp) : (setWarp s k i w).futs = s.futs := by unfold setWarp; split <;> rfl
@[simp] theorem setWarp_freeIx (s : State) (k : Nat) (i : Nat) (w : Warp) : (setWarp s k i w).freeIx = s.freeIx := by unfold setWarp; split <;> rfl
@[simp] theorem setWarp_seq (s : State) (k : Nat) (i : Nat) (w : Warp) : (setWarp s k i w).seq = s.seq := by unfold setWarp; split <;> rfl

@[simp] theorem modWarp_fit (s : State) (k : Nat) (i : Nat) (f : Warp → Warp) : (modWarp s k i f).fit = s.fit := by unfold modWarp; split <;> rfl
@[simp] theorem modWarp_mem (s : State) (k : Nat) (i : Nat) (f : Warp → Warp) : (modWarp s k i f).mem = s.mem := by unfold modWarp; split <;> rfl
@[simp] theorem modWarp_poison (s : State) (k : Nat) (i : Nat) (f : Warp → Warp) : (modWarp s k i f).poison = s.poison := by unfold modWarp; split <;> rfl
@[simp] theorem modWarp_clocks (s : State) (k : Nat) (i : Nat) (f : Warp → Warp) : (modWarp s k i f).clocks = s.clocks := by unfold modWarp; split <;> rfl
@[simp] theorem modWarp_timeNs (s : State) (k : Nat) (i : Nat) (f : Warp → Warp) : (modWarp s k i f).timeNs = s.timeNs := by unfold modWarp; split <;> rfl
@[simp] theorem modWarp_ltcap (s : State) (k : Nat) (i : Nat) (f : Warp → Warp) : (modWarp s k i f).ltcap = s.ltcap := by unfold modWarp; split <;> rfl
@[simp] theorem modWarp_point (s : State) (k : Nat) (i : Nat) (f : Warp → Warp) : (modWarp s k i f).point = s.point := by unfold modWarp; split <;> rfl
@[simp] theorem modWarp_power (s : State) (k : Nat) (i : Nat) (f : Warp → Warp) : (modWarp s k i f).power = s.power := by unfold modWarp; split <;> rfl
@[simp] theorem modWarp_volts (s : State) (k : Nat) (i : Nat) (f : Warp → Warp) : (modWarp s k i f).volts = s.volts := by unfold modWarp; split <;> rfl
@[simp] theorem modWarp_rails (s : State) (k : Nat) (i : Nat) (f : Warp → Warp) : (modWarp s k i f).rails = s.rails := by unfold modWarp; split <;> rfl
@[simp] theorem modWarp_lostDies (s : State) (k : Nat) (i : Nat) (f : Warp → Warp) : (modWarp s k i f).lostDies = s.lostDies := by unfold modWarp; split <;> rfl
@[simp] theorem modWarp_bounds (s : State) (k : Nat) (i : Nat) (f : Warp → Warp) : (modWarp s k i f).bounds = s.bounds := by unfold modWarp; split <;> rfl
@[simp] theorem modWarp_zlinks (s : State) (k : Nat) (i : Nat) (f : Warp → Warp) : (modWarp s k i f).zlinks = s.zlinks := by unfold modWarp; split <;> rfl
@[simp] theorem modWarp_sparesUsed (s : State) (k : Nat) (i : Nat) (f : Warp → Warp) : (modWarp s k i f).sparesUsed = s.sparesUsed := by unfold modWarp; split <;> rfl
@[simp] theorem modWarp_lostSlices (s : State) (k : Nat) (i : Nat) (f : Warp → Warp) : (modWarp s k i f).lostSlices = s.lostSlices := by unfold modWarp; split <;> rfl
@[simp] theorem modWarp_lostFarCh (s : State) (k : Nat) (i : Nat) (f : Warp → Warp) : (modWarp s k i f).lostFarCh = s.lostFarCh := by unfold modWarp; split <;> rfl
@[simp] theorem modWarp_thermal (s : State) (k : Nat) (i : Nat) (f : Warp → Warp) : (modWarp s k i f).thermal = s.thermal := by unfold modWarp; split <;> rfl
@[simp] theorem modWarp_zlaunch (s : State) (k : Nat) (i : Nat) (f : Warp → Warp) : (modWarp s k i f).zlaunch = s.zlaunch := by unfold modWarp; split <;> rfl
@[simp] theorem modWarp_firex (s : State) (k : Nat) (i : Nat) (f : Warp → Warp) : (modWarp s k i f).firex = s.firex := by unfold modWarp; split <;> rfl
@[simp] theorem modWarp_parts (s : State) (k : Nat) (i : Nat) (f : Warp → Warp) : (modWarp s k i f).parts = s.parts := by unfold modWarp; split <;> rfl
@[simp] theorem modWarp_vds (s : State) (k : Nat) (i : Nat) (f : Warp → Warp) : (modWarp s k i f).vds = s.vds := by unfold modWarp; split <;> rfl
@[simp] theorem modWarp_jobs (s : State) (k : Nat) (i : Nat) (f : Warp → Warp) : (modWarp s k i f).jobs = s.jobs := by unfold modWarp; split <;> rfl
@[simp] theorem modWarp_cores (s : State) (k : Nat) (i : Nat) (f : Warp → Warp) : (modWarp s k i f).cores = s.cores := by unfold modWarp; split <;> rfl
@[simp] theorem modWarp_dtlb (s : State) (k : Nat) (i : Nat) (f : Warp → Warp) : (modWarp s k i f).dtlb = s.dtlb := by unfold modWarp; split <;> rfl
@[simp] theorem modWarp_l2 (s : State) (k : Nat) (i : Nat) (f : Warp → Warp) : (modWarp s k i f).l2 = s.l2 := by unfold modWarp; split <;> rfl
@[simp] theorem modWarp_ats (s : State) (k : Nat) (i : Nat) (f : Warp → Warp) : (modWarp s k i f).ats = s.ats := by unfold modWarp; split <;> rfl
@[simp] theorem modWarp_parks (s : State) (k : Nat) (i : Nat) (f : Warp → Warp) : (modWarp s k i f).parks = s.parks := by unfold modWarp; split <;> rfl
@[simp] theorem modWarp_agenda (s : State) (k : Nat) (i : Nat) (f : Warp → Warp) : (modWarp s k i f).agenda = s.agenda := by unfold modWarp; split <;> rfl
@[simp] theorem modWarp_cur (s : State) (k : Nat) (i : Nat) (f : Warp → Warp) : (modWarp s k i f).cur = s.cur := by unfold modWarp; split <;> rfl
@[simp] theorem modWarp_latCur (s : State) (k : Nat) (i : Nat) (f : Warp → Warp) : (modWarp s k i f).latCur = s.latCur := by unfold modWarp; split <;> rfl
@[simp] theorem modWarp_futs (s : State) (k : Nat) (i : Nat) (f : Warp → Warp) : (modWarp s k i f).futs = s.futs := by unfold modWarp; split <;> rfl
@[simp] theorem modWarp_freeIx (s : State) (k : Nat) (i : Nat) (f : Warp → Warp) : (modWarp s k i f).freeIx = s.freeIx := by unfold modWarp; split <;> rfl
@[simp] theorem modWarp_seq (s : State) (k : Nat) (i : Nat) (f : Warp → Warp) : (modWarp s k i f).seq = s.seq := by unfold modWarp; split <;> rfl

@[simp] theorem setV_pc (w : Warp) (r : Nat) (l : Nat) (x : Word) : (setV w r l x).pc = w.pc := rfl
@[simp] theorem setV_active (w : Warp) (r : Nat) (l : Nat) (x : Word) : (setV w r l x).active = w.active := rfl
@[simp] theorem setV_launch (w : Warp) (r : Nat) (l : Nat) (x : Word) : (setV w r l x).launch = w.launch := rfl
@[simp] theorem setV_kregs (w : Warp) (r : Nat) (l : Nat) (x : Word) : (setV w r l x).kregs = w.kregs := rfl
@[simp] theorem setV_preds (w : Warp) (r : Nat) (l : Nat) (x : Word) : (setV w r l x).preds = w.preds := rfl
@[simp] theorem setV_stack (w : Warp) (r : Nat) (l : Nat) (x : Word) : (setV w r l x).stack = w.stack := rfl
@[simp] theorem setV_fpmode (w : Warp) (r : Nat) (l : Nat) (x : Word) : (setV w r l x).fpmode = w.fpmode := rfl
@[simp] theorem setV_kbc (w : Warp) (r : Nat) (l : Nat) (x : Word) : (setV w r l x).kbc = w.kbc := rfl
@[simp] theorem setV_gctx (w : Warp) (r : Nat) (l : Nat) (x : Word) : (setV w r l x).gctx = w.gctx := rfl
@[simp] theorem setV_handler (w : Warp) (r : Nat) (l : Nat) (x : Word) : (setV w r l x).handler = w.handler := rfl
@[simp] theorem setV_trapCause (w : Warp) (r : Nat) (l : Nat) (x : Word) : (setV w r l x).trapCause = w.trapCause := rfl
@[simp] theorem setV_spill (w : Warp) (r : Nat) (l : Nat) (x : Word) : (setV w r l x).spill = w.spill := rfl
@[simp] theorem setV_issued (w : Warp) (r : Nat) (l : Nat) (x : Word) : (setV w r l x).issued = w.issued := rfl
@[simp] theorem setV_iters (w : Warp) (r : Nat) (l : Nat) (x : Word) : (setV w r l x).iters = w.iters := rfl
@[simp] theorem setV_mmas (w : Warp) (r : Nat) (l : Nat) (x : Word) : (setV w r l x).mmas = w.mmas := rfl
@[simp] theorem setV_blocked (w : Warp) (r : Nat) (l : Nat) (x : Word) : (setV w r l x).blocked = w.blocked := rfl
@[simp] theorem setV_blockedAt (w : Warp) (r : Nat) (l : Nat) (x : Word) : (setV w r l x).blockedAt = w.blockedAt := rfl
@[simp] theorem setV_acq (w : Warp) (r : Nat) (l : Nat) (x : Word) : (setV w r l x).acq = w.acq := rfl
@[simp] theorem setV_arrived (w : Warp) (r : Nat) (l : Nat) (x : Word) : (setV w r l x).arrived = w.arrived := rfl
@[simp] theorem setV_raised (w : Warp) (r : Nat) (l : Nat) (x : Word) : (setV w r l x).raised = w.raised := rfl
@[simp] theorem setV_stamp (w : Warp) (r : Nat) (l : Nat) (x : Word) : (setV w r l x).stamp = w.stamp := rfl
@[simp] theorem setV_passed (w : Warp) (r : Nat) (l : Nat) (x : Word) : (setV w r l x).passed = w.passed := rfl
@[simp] theorem setV_yieldLeft (w : Warp) (r : Nat) (l : Nat) (x : Word) : (setV w r l x).yieldLeft = w.yieldLeft := rfl
@[simp] theorem setV_lat (w : Warp) (r : Nat) (l : Nat) (x : Word) : (setV w r l x).lat = w.lat := rfl
@[simp] theorem setV_drained (w : Warp) (r : Nat) (l : Nat) (x : Word) : (setV w r l x).drained = w.drained := rfl
@[simp] theorem setV_reenter (w : Warp) (r : Nat) (l : Nat) (x : Word) : (setV w r l x).reenter = w.reenter := rfl
@[simp] theorem setV_lostSpill (w : Warp) (r : Nat) (l : Nat) (x : Word) : (setV w r l x).lostSpill = w.lostSpill := rfl
@[simp] theorem setV_rebuilt (w : Warp) (r : Nat) (l : Nat) (x : Word) : (setV w r l x).rebuilt = w.rebuilt := rfl
@[simp] theorem setV_gaeOut (w : Warp) (r : Nat) (l : Nat) (x : Word) : (setV w r l x).gaeOut = w.gaeOut := rfl

@[simp] theorem setK_pc (w : Warp) (n : Nat) (x : Word) : (setK w n x).pc = w.pc := rfl
@[simp] theorem setK_active (w : Warp) (n : Nat) (x : Word) : (setK w n x).active = w.active := rfl
@[simp] theorem setK_launch (w : Warp) (n : Nat) (x : Word) : (setK w n x).launch = w.launch := rfl
@[simp] theorem setK_regs (w : Warp) (n : Nat) (x : Word) : (setK w n x).regs = w.regs := rfl
@[simp] theorem setK_preds (w : Warp) (n : Nat) (x : Word) : (setK w n x).preds = w.preds := rfl
@[simp] theorem setK_stack (w : Warp) (n : Nat) (x : Word) : (setK w n x).stack = w.stack := rfl
@[simp] theorem setK_fpmode (w : Warp) (n : Nat) (x : Word) : (setK w n x).fpmode = w.fpmode := rfl
@[simp] theorem setK_kbc (w : Warp) (n : Nat) (x : Word) : (setK w n x).kbc = w.kbc := rfl
@[simp] theorem setK_gctx (w : Warp) (n : Nat) (x : Word) : (setK w n x).gctx = w.gctx := rfl
@[simp] theorem setK_handler (w : Warp) (n : Nat) (x : Word) : (setK w n x).handler = w.handler := rfl
@[simp] theorem setK_trapCause (w : Warp) (n : Nat) (x : Word) : (setK w n x).trapCause = w.trapCause := rfl
@[simp] theorem setK_spill (w : Warp) (n : Nat) (x : Word) : (setK w n x).spill = w.spill := rfl
@[simp] theorem setK_issued (w : Warp) (n : Nat) (x : Word) : (setK w n x).issued = w.issued := rfl
@[simp] theorem setK_iters (w : Warp) (n : Nat) (x : Word) : (setK w n x).iters = w.iters := rfl
@[simp] theorem setK_mmas (w : Warp) (n : Nat) (x : Word) : (setK w n x).mmas = w.mmas := rfl
@[simp] theorem setK_blocked (w : Warp) (n : Nat) (x : Word) : (setK w n x).blocked = w.blocked := rfl
@[simp] theorem setK_blockedAt (w : Warp) (n : Nat) (x : Word) : (setK w n x).blockedAt = w.blockedAt := rfl
@[simp] theorem setK_acq (w : Warp) (n : Nat) (x : Word) : (setK w n x).acq = w.acq := rfl
@[simp] theorem setK_arrived (w : Warp) (n : Nat) (x : Word) : (setK w n x).arrived = w.arrived := rfl
@[simp] theorem setK_raised (w : Warp) (n : Nat) (x : Word) : (setK w n x).raised = w.raised := rfl
@[simp] theorem setK_stamp (w : Warp) (n : Nat) (x : Word) : (setK w n x).stamp = w.stamp := rfl
@[simp] theorem setK_passed (w : Warp) (n : Nat) (x : Word) : (setK w n x).passed = w.passed := rfl
@[simp] theorem setK_yieldLeft (w : Warp) (n : Nat) (x : Word) : (setK w n x).yieldLeft = w.yieldLeft := rfl
@[simp] theorem setK_lat (w : Warp) (n : Nat) (x : Word) : (setK w n x).lat = w.lat := rfl
@[simp] theorem setK_drained (w : Warp) (n : Nat) (x : Word) : (setK w n x).drained = w.drained := rfl
@[simp] theorem setK_reenter (w : Warp) (n : Nat) (x : Word) : (setK w n x).reenter = w.reenter := rfl
@[simp] theorem setK_lostSpill (w : Warp) (n : Nat) (x : Word) : (setK w n x).lostSpill = w.lostSpill := rfl
@[simp] theorem setK_rebuilt (w : Warp) (n : Nat) (x : Word) : (setK w n x).rebuilt = w.rebuilt := rfl
@[simp] theorem setK_gaeOut (w : Warp) (n : Nat) (x : Word) : (setK w n x).gaeOut = w.gaeOut := rfl

@[simp] theorem setP_pc (w : Warp) (n : Nat) (l : Nat) (b : Bool) : (setP w n l b).pc = w.pc := by unfold setP; split <;> rfl
@[simp] theorem setP_active (w : Warp) (n : Nat) (l : Nat) (b : Bool) : (setP w n l b).active = w.active := by unfold setP; split <;> rfl
@[simp] theorem setP_launch (w : Warp) (n : Nat) (l : Nat) (b : Bool) : (setP w n l b).launch = w.launch := by unfold setP; split <;> rfl
@[simp] theorem setP_regs (w : Warp) (n : Nat) (l : Nat) (b : Bool) : (setP w n l b).regs = w.regs := by unfold setP; split <;> rfl
@[simp] theorem setP_kregs (w : Warp) (n : Nat) (l : Nat) (b : Bool) : (setP w n l b).kregs = w.kregs := by unfold setP; split <;> rfl
@[simp] theorem setP_stack (w : Warp) (n : Nat) (l : Nat) (b : Bool) : (setP w n l b).stack = w.stack := by unfold setP; split <;> rfl
@[simp] theorem setP_fpmode (w : Warp) (n : Nat) (l : Nat) (b : Bool) : (setP w n l b).fpmode = w.fpmode := by unfold setP; split <;> rfl
@[simp] theorem setP_kbc (w : Warp) (n : Nat) (l : Nat) (b : Bool) : (setP w n l b).kbc = w.kbc := by unfold setP; split <;> rfl
@[simp] theorem setP_gctx (w : Warp) (n : Nat) (l : Nat) (b : Bool) : (setP w n l b).gctx = w.gctx := by unfold setP; split <;> rfl
@[simp] theorem setP_handler (w : Warp) (n : Nat) (l : Nat) (b : Bool) : (setP w n l b).handler = w.handler := by unfold setP; split <;> rfl
@[simp] theorem setP_trapCause (w : Warp) (n : Nat) (l : Nat) (b : Bool) : (setP w n l b).trapCause = w.trapCause := by unfold setP; split <;> rfl
@[simp] theorem setP_spill (w : Warp) (n : Nat) (l : Nat) (b : Bool) : (setP w n l b).spill = w.spill := by unfold setP; split <;> rfl
@[simp] theorem setP_issued (w : Warp) (n : Nat) (l : Nat) (b : Bool) : (setP w n l b).issued = w.issued := by unfold setP; split <;> rfl
@[simp] theorem setP_iters (w : Warp) (n : Nat) (l : Nat) (b : Bool) : (setP w n l b).iters = w.iters := by unfold setP; split <;> rfl
@[simp] theorem setP_mmas (w : Warp) (n : Nat) (l : Nat) (b : Bool) : (setP w n l b).mmas = w.mmas := by unfold setP; split <;> rfl
@[simp] theorem setP_blocked (w : Warp) (n : Nat) (l : Nat) (b : Bool) : (setP w n l b).blocked = w.blocked := by unfold setP; split <;> rfl
@[simp] theorem setP_blockedAt (w : Warp) (n : Nat) (l : Nat) (b : Bool) : (setP w n l b).blockedAt = w.blockedAt := by unfold setP; split <;> rfl
@[simp] theorem setP_acq (w : Warp) (n : Nat) (l : Nat) (b : Bool) : (setP w n l b).acq = w.acq := by unfold setP; split <;> rfl
@[simp] theorem setP_arrived (w : Warp) (n : Nat) (l : Nat) (b : Bool) : (setP w n l b).arrived = w.arrived := by unfold setP; split <;> rfl
@[simp] theorem setP_raised (w : Warp) (n : Nat) (l : Nat) (b : Bool) : (setP w n l b).raised = w.raised := by unfold setP; split <;> rfl
@[simp] theorem setP_stamp (w : Warp) (n : Nat) (l : Nat) (b : Bool) : (setP w n l b).stamp = w.stamp := by unfold setP; split <;> rfl
@[simp] theorem setP_passed (w : Warp) (n : Nat) (l : Nat) (b : Bool) : (setP w n l b).passed = w.passed := by unfold setP; split <;> rfl
@[simp] theorem setP_yieldLeft (w : Warp) (n : Nat) (l : Nat) (b : Bool) : (setP w n l b).yieldLeft = w.yieldLeft := by unfold setP; split <;> rfl
@[simp] theorem setP_lat (w : Warp) (n : Nat) (l : Nat) (b : Bool) : (setP w n l b).lat = w.lat := by unfold setP; split <;> rfl
@[simp] theorem setP_drained (w : Warp) (n : Nat) (l : Nat) (b : Bool) : (setP w n l b).drained = w.drained := by unfold setP; split <;> rfl
@[simp] theorem setP_reenter (w : Warp) (n : Nat) (l : Nat) (b : Bool) : (setP w n l b).reenter = w.reenter := by unfold setP; split <;> rfl
@[simp] theorem setP_lostSpill (w : Warp) (n : Nat) (l : Nat) (b : Bool) : (setP w n l b).lostSpill = w.lostSpill := by unfold setP; split <;> rfl
@[simp] theorem setP_rebuilt (w : Warp) (n : Nat) (l : Nat) (b : Bool) : (setP w n l b).rebuilt = w.rebuilt := by unfold setP; split <;> rfl
@[simp] theorem setP_gaeOut (w : Warp) (n : Nat) (l : Nat) (b : Bool) : (setP w n l b).gaeOut = w.gaeOut := by unfold setP; split <;> rfl

@[simp] theorem putSpill_pc (w : Warp) (a : Nat) (l : Nat) (x : Word) : (putSpill w a l x).pc = w.pc := rfl
@[simp] theorem putSpill_active (w : Warp) (a : Nat) (l : Nat) (x : Word) : (putSpill w a l x).active = w.active := rfl
@[simp] theorem putSpill_launch (w : Warp) (a : Nat) (l : Nat) (x : Word) : (putSpill w a l x).launch = w.launch := rfl
@[simp] theorem putSpill_regs (w : Warp) (a : Nat) (l : Nat) (x : Word) : (putSpill w a l x).regs = w.regs := rfl
@[simp] theorem putSpill_kregs (w : Warp) (a : Nat) (l : Nat) (x : Word) : (putSpill w a l x).kregs = w.kregs := rfl
@[simp] theorem putSpill_preds (w : Warp) (a : Nat) (l : Nat) (x : Word) : (putSpill w a l x).preds = w.preds := rfl
@[simp] theorem putSpill_stack (w : Warp) (a : Nat) (l : Nat) (x : Word) : (putSpill w a l x).stack = w.stack := rfl
@[simp] theorem putSpill_fpmode (w : Warp) (a : Nat) (l : Nat) (x : Word) : (putSpill w a l x).fpmode = w.fpmode := rfl
@[simp] theorem putSpill_kbc (w : Warp) (a : Nat) (l : Nat) (x : Word) : (putSpill w a l x).kbc = w.kbc := rfl
@[simp] theorem putSpill_gctx (w : Warp) (a : Nat) (l : Nat) (x : Word) : (putSpill w a l x).gctx = w.gctx := rfl
@[simp] theorem putSpill_handler (w : Warp) (a : Nat) (l : Nat) (x : Word) : (putSpill w a l x).handler = w.handler := rfl
@[simp] theorem putSpill_trapCause (w : Warp) (a : Nat) (l : Nat) (x : Word) : (putSpill w a l x).trapCause = w.trapCause := rfl
@[simp] theorem putSpill_issued (w : Warp) (a : Nat) (l : Nat) (x : Word) : (putSpill w a l x).issued = w.issued := rfl
@[simp] theorem putSpill_iters (w : Warp) (a : Nat) (l : Nat) (x : Word) : (putSpill w a l x).iters = w.iters := rfl
@[simp] theorem putSpill_mmas (w : Warp) (a : Nat) (l : Nat) (x : Word) : (putSpill w a l x).mmas = w.mmas := rfl
@[simp] theorem putSpill_blocked (w : Warp) (a : Nat) (l : Nat) (x : Word) : (putSpill w a l x).blocked = w.blocked := rfl
@[simp] theorem putSpill_blockedAt (w : Warp) (a : Nat) (l : Nat) (x : Word) : (putSpill w a l x).blockedAt = w.blockedAt := rfl
@[simp] theorem putSpill_acq (w : Warp) (a : Nat) (l : Nat) (x : Word) : (putSpill w a l x).acq = w.acq := rfl
@[simp] theorem putSpill_arrived (w : Warp) (a : Nat) (l : Nat) (x : Word) : (putSpill w a l x).arrived = w.arrived := rfl
@[simp] theorem putSpill_raised (w : Warp) (a : Nat) (l : Nat) (x : Word) : (putSpill w a l x).raised = w.raised := rfl
@[simp] theorem putSpill_stamp (w : Warp) (a : Nat) (l : Nat) (x : Word) : (putSpill w a l x).stamp = w.stamp := rfl
@[simp] theorem putSpill_passed (w : Warp) (a : Nat) (l : Nat) (x : Word) : (putSpill w a l x).passed = w.passed := rfl
@[simp] theorem putSpill_yieldLeft (w : Warp) (a : Nat) (l : Nat) (x : Word) : (putSpill w a l x).yieldLeft = w.yieldLeft := rfl
@[simp] theorem putSpill_lat (w : Warp) (a : Nat) (l : Nat) (x : Word) : (putSpill w a l x).lat = w.lat := rfl
@[simp] theorem putSpill_drained (w : Warp) (a : Nat) (l : Nat) (x : Word) : (putSpill w a l x).drained = w.drained := rfl
@[simp] theorem putSpill_reenter (w : Warp) (a : Nat) (l : Nat) (x : Word) : (putSpill w a l x).reenter = w.reenter := rfl
@[simp] theorem putSpill_lostRegs (w : Warp) (a : Nat) (l : Nat) (x : Word) : (putSpill w a l x).lostRegs = w.lostRegs := rfl
@[simp] theorem putSpill_rebuilt (w : Warp) (a : Nat) (l : Nat) (x : Word) : (putSpill w a l x).rebuilt = w.rebuilt := rfl
@[simp] theorem putSpill_gaeOut (w : Warp) (a : Nat) (l : Nat) (x : Word) : (putSpill w a l x).gaeOut = w.gaeOut := rfl

@[simp] theorem retire_active (w : Warp)  : (retire w).active = w.active := rfl
@[simp] theorem retire_launch (w : Warp)  : (retire w).launch = w.launch := rfl
@[simp] theorem retire_regs (w : Warp)  : (retire w).regs = w.regs := rfl
@[simp] theorem retire_kregs (w : Warp)  : (retire w).kregs = w.kregs := rfl
@[simp] theorem retire_preds (w : Warp)  : (retire w).preds = w.preds := rfl
@[simp] theorem retire_stack (w : Warp)  : (retire w).stack = w.stack := rfl
@[simp] theorem retire_fpmode (w : Warp)  : (retire w).fpmode = w.fpmode := rfl
@[simp] theorem retire_kbc (w : Warp)  : (retire w).kbc = w.kbc := rfl
@[simp] theorem retire_gctx (w : Warp)  : (retire w).gctx = w.gctx := rfl
@[simp] theorem retire_handler (w : Warp)  : (retire w).handler = w.handler := rfl
@[simp] theorem retire_trapCause (w : Warp)  : (retire w).trapCause = w.trapCause := rfl
@[simp] theorem retire_spill (w : Warp)  : (retire w).spill = w.spill := rfl
@[simp] theorem retire_iters (w : Warp)  : (retire w).iters = w.iters := rfl
@[simp] theorem retire_mmas (w : Warp)  : (retire w).mmas = w.mmas := rfl
@[simp] theorem retire_blocked (w : Warp)  : (retire w).blocked = w.blocked := rfl
@[simp] theorem retire_blockedAt (w : Warp)  : (retire w).blockedAt = w.blockedAt := rfl
@[simp] theorem retire_acq (w : Warp)  : (retire w).acq = w.acq := rfl
@[simp] theorem retire_arrived (w : Warp)  : (retire w).arrived = w.arrived := rfl
@[simp] theorem retire_raised (w : Warp)  : (retire w).raised = w.raised := rfl
@[simp] theorem retire_stamp (w : Warp)  : (retire w).stamp = w.stamp := rfl
@[simp] theorem retire_passed (w : Warp)  : (retire w).passed = w.passed := rfl
@[simp] theorem retire_yieldLeft (w : Warp)  : (retire w).yieldLeft = w.yieldLeft := rfl
@[simp] theorem retire_lat (w : Warp)  : (retire w).lat = w.lat := rfl
@[simp] theorem retire_drained (w : Warp)  : (retire w).drained = w.drained := rfl
@[simp] theorem retire_reenter (w : Warp)  : (retire w).reenter = w.reenter := rfl
@[simp] theorem retire_lostRegs (w : Warp)  : (retire w).lostRegs = w.lostRegs := rfl
@[simp] theorem retire_lostSpill (w : Warp)  : (retire w).lostSpill = w.lostSpill := rfl
@[simp] theorem retire_rebuilt (w : Warp)  : (retire w).rebuilt = w.rebuilt := rfl
@[simp] theorem retire_gaeOut (w : Warp)  : (retire w).gaeOut = w.gaeOut := rfl

@[simp] theorem retireJump_pc (w : Warp)  : (retireJump w).pc = w.pc := rfl
@[simp] theorem retireJump_active (w : Warp)  : (retireJump w).active = w.active := rfl
@[simp] theorem retireJump_launch (w : Warp)  : (retireJump w).launch = w.launch := rfl
@[simp] theorem retireJump_regs (w : Warp)  : (retireJump w).regs = w.regs := rfl
@[simp] theorem retireJump_kregs (w : Warp)  : (retireJump w).kregs = w.kregs := rfl
@[simp] theorem retireJump_preds (w : Warp)  : (retireJump w).preds = w.preds := rfl
@[simp] theorem retireJump_stack (w : Warp)  : (retireJump w).stack = w.stack := rfl
@[simp] theorem retireJump_fpmode (w : Warp)  : (retireJump w).fpmode = w.fpmode := rfl
@[simp] theorem retireJump_kbc (w : Warp)  : (retireJump w).kbc = w.kbc := rfl
@[simp] theorem retireJump_gctx (w : Warp)  : (retireJump w).gctx = w.gctx := rfl
@[simp] theorem retireJump_handler (w : Warp)  : (retireJump w).handler = w.handler := rfl
@[simp] theorem retireJump_trapCause (w : Warp)  : (retireJump w).trapCause = w.trapCause := rfl
@[simp] theorem retireJump_spill (w : Warp)  : (retireJump w).spill = w.spill := rfl
@[simp] theorem retireJump_iters (w : Warp)  : (retireJump w).iters = w.iters := rfl
@[simp] theorem retireJump_mmas (w : Warp)  : (retireJump w).mmas = w.mmas := rfl
@[simp] theorem retireJump_blocked (w : Warp)  : (retireJump w).blocked = w.blocked := rfl
@[simp] theorem retireJump_blockedAt (w : Warp)  : (retireJump w).blockedAt = w.blockedAt := rfl
@[simp] theorem retireJump_acq (w : Warp)  : (retireJump w).acq = w.acq := rfl
@[simp] theorem retireJump_arrived (w : Warp)  : (retireJump w).arrived = w.arrived := rfl
@[simp] theorem retireJump_raised (w : Warp)  : (retireJump w).raised = w.raised := rfl
@[simp] theorem retireJump_stamp (w : Warp)  : (retireJump w).stamp = w.stamp := rfl
@[simp] theorem retireJump_passed (w : Warp)  : (retireJump w).passed = w.passed := rfl
@[simp] theorem retireJump_yieldLeft (w : Warp)  : (retireJump w).yieldLeft = w.yieldLeft := rfl
@[simp] theorem retireJump_lat (w : Warp)  : (retireJump w).lat = w.lat := rfl
@[simp] theorem retireJump_drained (w : Warp)  : (retireJump w).drained = w.drained := rfl
@[simp] theorem retireJump_reenter (w : Warp)  : (retireJump w).reenter = w.reenter := rfl
@[simp] theorem retireJump_lostRegs (w : Warp)  : (retireJump w).lostRegs = w.lostRegs := rfl
@[simp] theorem retireJump_lostSpill (w : Warp)  : (retireJump w).lostSpill = w.lostSpill := rfl
@[simp] theorem retireJump_rebuilt (w : Warp)  : (retireJump w).rebuilt = w.rebuilt := rfl
@[simp] theorem retireJump_gaeOut (w : Warp)  : (retireJump w).gaeOut = w.gaeOut := rfl

@[simp] theorem dstWord_pc (w : Warp) (o : Opnd) (j : Nat) (l : Nat) (x : Word) : (dstWord w o j l x).pc = w.pc := by
  cases o <;> simp only [dstWord] <;> (try split) <;> simp
@[simp] theorem dstWord_active (w : Warp) (o : Opnd) (j : Nat) (l : Nat) (x : Word) : (dstWord w o j l x).active = w.active := by
  cases o <;> simp only [dstWord] <;> (try split) <;> simp
@[simp] theorem dstWord_launch (w : Warp) (o : Opnd) (j : Nat) (l : Nat) (x : Word) : (dstWord w o j l x).launch = w.launch := by
  cases o <;> simp only [dstWord] <;> (try split) <;> simp
@[simp] theorem dstWord_stack (w : Warp) (o : Opnd) (j : Nat) (l : Nat) (x : Word) : (dstWord w o j l x).stack = w.stack := by
  cases o <;> simp only [dstWord] <;> (try split) <;> simp
@[simp] theorem dstWord_fpmode (w : Warp) (o : Opnd) (j : Nat) (l : Nat) (x : Word) : (dstWord w o j l x).fpmode = w.fpmode := by
  cases o <;> simp only [dstWord] <;> (try split) <;> simp
@[simp] theorem dstWord_kbc (w : Warp) (o : Opnd) (j : Nat) (l : Nat) (x : Word) : (dstWord w o j l x).kbc = w.kbc := by
  cases o <;> simp only [dstWord] <;> (try split) <;> simp
@[simp] theorem dstWord_gctx (w : Warp) (o : Opnd) (j : Nat) (l : Nat) (x : Word) : (dstWord w o j l x).gctx = w.gctx := by
  cases o <;> simp only [dstWord] <;> (try split) <;> simp
@[simp] theorem dstWord_handler (w : Warp) (o : Opnd) (j : Nat) (l : Nat) (x : Word) : (dstWord w o j l x).handler = w.handler := by
  cases o <;> simp only [dstWord] <;> (try split) <;> simp
@[simp] theorem dstWord_trapCause (w : Warp) (o : Opnd) (j : Nat) (l : Nat) (x : Word) : (dstWord w o j l x).trapCause = w.trapCause := by
  cases o <;> simp only [dstWord] <;> (try split) <;> simp
@[simp] theorem dstWord_spill (w : Warp) (o : Opnd) (j : Nat) (l : Nat) (x : Word) : (dstWord w o j l x).spill = w.spill := by
  cases o <;> simp only [dstWord] <;> (try split) <;> simp
@[simp] theorem dstWord_issued (w : Warp) (o : Opnd) (j : Nat) (l : Nat) (x : Word) : (dstWord w o j l x).issued = w.issued := by
  cases o <;> simp only [dstWord] <;> (try split) <;> simp
@[simp] theorem dstWord_iters (w : Warp) (o : Opnd) (j : Nat) (l : Nat) (x : Word) : (dstWord w o j l x).iters = w.iters := by
  cases o <;> simp only [dstWord] <;> (try split) <;> simp
@[simp] theorem dstWord_mmas (w : Warp) (o : Opnd) (j : Nat) (l : Nat) (x : Word) : (dstWord w o j l x).mmas = w.mmas := by
  cases o <;> simp only [dstWord] <;> (try split) <;> simp
@[simp] theorem dstWord_blocked (w : Warp) (o : Opnd) (j : Nat) (l : Nat) (x : Word) : (dstWord w o j l x).blocked = w.blocked := by
  cases o <;> simp only [dstWord] <;> (try split) <;> simp
@[simp] theorem dstWord_blockedAt (w : Warp) (o : Opnd) (j : Nat) (l : Nat) (x : Word) : (dstWord w o j l x).blockedAt = w.blockedAt := by
  cases o <;> simp only [dstWord] <;> (try split) <;> simp
@[simp] theorem dstWord_acq (w : Warp) (o : Opnd) (j : Nat) (l : Nat) (x : Word) : (dstWord w o j l x).acq = w.acq := by
  cases o <;> simp only [dstWord] <;> (try split) <;> simp
@[simp] theorem dstWord_arrived (w : Warp) (o : Opnd) (j : Nat) (l : Nat) (x : Word) : (dstWord w o j l x).arrived = w.arrived := by
  cases o <;> simp only [dstWord] <;> (try split) <;> simp
@[simp] theorem dstWord_raised (w : Warp) (o : Opnd) (j : Nat) (l : Nat) (x : Word) : (dstWord w o j l x).raised = w.raised := by
  cases o <;> simp only [dstWord] <;> (try split) <;> simp
@[simp] theorem dstWord_stamp (w : Warp) (o : Opnd) (j : Nat) (l : Nat) (x : Word) : (dstWord w o j l x).stamp = w.stamp := by
  cases o <;> simp only [dstWord] <;> (try split) <;> simp
@[simp] theorem dstWord_passed (w : Warp) (o : Opnd) (j : Nat) (l : Nat) (x : Word) : (dstWord w o j l x).passed = w.passed := by
  cases o <;> simp only [dstWord] <;> (try split) <;> simp
@[simp] theorem dstWord_yieldLeft (w : Warp) (o : Opnd) (j : Nat) (l : Nat) (x : Word) : (dstWord w o j l x).yieldLeft = w.yieldLeft := by
  cases o <;> simp only [dstWord] <;> (try split) <;> simp
@[simp] theorem dstWord_lat (w : Warp) (o : Opnd) (j : Nat) (l : Nat) (x : Word) : (dstWord w o j l x).lat = w.lat := by
  cases o <;> simp only [dstWord] <;> (try split) <;> simp
@[simp] theorem dstWord_drained (w : Warp) (o : Opnd) (j : Nat) (l : Nat) (x : Word) : (dstWord w o j l x).drained = w.drained := by
  cases o <;> simp only [dstWord] <;> (try split) <;> simp
@[simp] theorem dstWord_reenter (w : Warp) (o : Opnd) (j : Nat) (l : Nat) (x : Word) : (dstWord w o j l x).reenter = w.reenter := by
  cases o <;> simp only [dstWord] <;> (try split) <;> simp
@[simp] theorem dstWord_lostSpill (w : Warp) (o : Opnd) (j : Nat) (l : Nat) (x : Word) : (dstWord w o j l x).lostSpill = w.lostSpill := by
  cases o <;> simp only [dstWord] <;> (try split) <;> simp
@[simp] theorem dstWord_rebuilt (w : Warp) (o : Opnd) (j : Nat) (l : Nat) (x : Word) : (dstWord w o j l x).rebuilt = w.rebuilt := by
  cases o <;> simp only [dstWord] <;> (try split) <;> simp
@[simp] theorem dstWord_gaeOut (w : Warp) (o : Opnd) (j : Nat) (l : Nat) (x : Word) : (dstWord w o j l x).gaeOut = w.gaeOut := by
  cases o <;> simp only [dstWord] <;> (try split) <;> simp

end Sys2Proof.Machine
end

