-- ==== Sys2Proof/Laws/Registers.lean ====
section
/-! SUPPORT. Laws of registers, predicates and destinations: a read after a write, and what the write of an instruction's result to the
lanes of its mask leaves in every register and predicate. -/

namespace Sys2Proof.Machine

/-! One write. -/

theorem getV_setV (w : Warp) {r l r' l' : Nat} (x : Word) (h : l < 32) (h' : l' < 32) :
    getV (setV w r l x) r' l' = if r' = r ∧ l' = l then x else getV w r' l' := by
  simp only [getV, setV, Store.get_set]
  by_cases hk : 32 * r' + l' = 32 * r + l
  · rw [if_pos hk, if_pos (by omega)]
  · rw [if_neg hk, if_neg (fun e => hk (by rw [e.1, e.2]))]

@[simp] theorem getK_setV (w : Warp) (r l : Nat) (x : Word) (n : Nat) : getK (setV w r l x) n = getK w n := rfl
@[simp] theorem predMask_setV (w : Warp) (r l : Nat) (x : Word) (p : Nat) : predMask (setV w r l x) p = predMask w p := rfl

@[simp] theorem getK_setK (w : Warp) (n : Nat) (x : Word) (m : Nat) : getK (setK w n x) m = if m = n then x else getK w m := by
  simp [getK, setK]
@[simp] theorem getV_setK (w : Warp) (n : Nat) (x : Word) (r l : Nat) : getV (setK w n x) r l = getV w r l := rfl
@[simp] theorem predMask_setK (w : Warp) (n : Nat) (x : Word) (p : Nat) : predMask (setK w n x) p = predMask w p := rfl

@[simp] theorem getV_setP (w : Warp) (p l : Nat) (b : Bool) (r l' : Nat) : getV (setP w p l b) r l' = getV w r l' := by
  unfold setP getV; split <;> rfl
@[simp] theorem getK_setP (w : Warp) (p l : Nat) (b : Bool) (n : Nat) : getK (setP w p l b) n = getK w n := by
  unfold setP getK; split <;> rfl

theorem inMask_laneMask {l j : Nat} (h : l < 32) : inMask (laneMask l) j = decide (j = l) := by
  simp only [inMask, laneMask, BitVec.getLsbD_shiftLeft, BitVec.getLsbD_one]
  by_cases h1 : j = l
  · subst h1; simp [h]
  · by_cases h2 : j < l
    · simp [h1, h2]
    · have h3 : j - l ≠ 0 := by omega
      simp [h1, h3]

/-- A write of a predicate's lane; `p7` discards it. -/
theorem inMask_setP (w : Warp) {p l q j : Nat} (b : Bool) (h : l < 32) (hj : j < 32) :
    inMask (predMask (setP w p l b) q) j = if q = p ∧ j = l ∧ p ≠ 7 then b else inMask (predMask w q) j := by
  have hm := inMask_laneMask (j := j) h
  simp only [inMask] at hm
  unfold setP
  by_cases h7 : p = 7
  · simp [h7]
  · simp only [h7, if_false]
    by_cases hq : q = p
    · subst hq
      simp only [predMask, h7, if_false, Store.get_set, if_true]
      cases b
      · simp only [inMask, Bool.false_eq_true, if_false, BitVec.getLsbD_and, BitVec.getLsbD_not, hm, hj, decide_true, Bool.true_and]
        by_cases hl : j = l <;> simp [hl, h7]
      · simp only [inMask, if_true, BitVec.getLsbD_or, hm]
        by_cases hl : j = l <;> simp [hl, h7]
    · simp [predMask, hq]

/-! A destination's word. -/

/-- Word `j` of a destination of several registers, as a register read sees it. -/
theorem getV_dstWord (w : Warp) (o : Opnd) (j : Nat) {l r l' : Nat} (x : Word) (h : l < 32) (h' : l' < 32) :
    getV (dstWord w o j l x) r l' =
      match o with
      | .v n => if r = n.toNat + j ∧ l' = l then x else getV w r l'
      | _ => getV w r l' := by
  cases o with
  | v n => exact getV_setV w x h h'
  | k n => rfl
  | p n =>
    simp only [dstWord]
    split
    · simp
    · rfl
  | vz => rfl
  | bad c => rfl

theorem inMask_dstWord (w : Warp) (o : Opnd) (j : Nat) {l q l' : Nat} (x : Word) (h : l < 32) (h' : l' < 32) :
    inMask (predMask (dstWord w o j l x) q) l' =
      match o with
      | .p n => if j = 0 ∧ q = n.toNat ∧ l' = l ∧ n.toNat ≠ 7 then decide (x ≠ 0) else inMask (predMask w q) l'
      | _ => inMask (predMask w q) l' := by
  cases o with
  | v n => rfl
  | k n => rfl
  | p n =>
    simp only [dstWord]
    by_cases hj : j = 0
    · simp only [hj, if_true, true_and]
      exact inMask_setP w _ h h'
    · simp [hj]
  | vz => rfl
  | bad c => rfl

theorem getK_dstWord (w : Warp) (o : Opnd) (j l : Nat) (x : Word) (m : Nat) :
    getK (dstWord w o j l x) m =
      match o with
      | .k n => if m = n.toNat + j then x else getK w m
      | _ => getK w m := by
  cases o with
  | v n => rfl
  | k n => simp [dstWord]
  | p n =>
    simp only [dstWord]
    split
    · simp
    · rfl
  | vz => rfl
  | bad c => rfl

/-! The lanes of a mask. -/

theorem mem_maskLanes {m : Word} {l : Nat} : l ∈ maskLanes m ↔ l < 32 ∧ inMask m l = true := by
  simp [maskLanes, laneList, inMask]

theorem maskLanes_nodup (m : Word) : (maskLanes m).Nodup := List.Nodup.filter _ List.nodup_range

/-- A fold over lanes keeps what every one of its steps keeps. -/
theorem foldl_keeps {σ β γ : Type} (φ : σ → γ) (f : σ → β → σ) (h : ∀ s x, φ (f s x) = φ s) :
    ∀ (l : List β) (s : σ), φ (l.foldl f s) = φ s := by
  intro l
  induction l with
  | nil => intro s; rfl
  | cons x t ih => intro s; rw [List.foldl_cons, ih, h]

theorem foldl_keeps_mem {σ β γ : Type} (φ : σ → γ) (f : σ → β → σ) (l : List β) (s : σ) (h : ∀ s, ∀ x ∈ l, φ (f s x) = φ s) :
    φ (l.foldl f s) = φ s := by
  induction l generalizing s with
  | nil => rfl
  | cons x t ih =>
    rw [List.foldl_cons, ih _ (fun s y hy => h s y (List.mem_cons_of_mem _ hy)), h s x List.mem_cons_self]

theorem eachLane_keeps {σ γ : Type} (φ : σ → γ) (m : Word) (f : σ → Nat → σ) (h : ∀ s l, φ (f s l) = φ s) (s : σ) :
    φ (eachLane m f s) = φ s := foldl_keeps φ f h _ s

/-- A fold over distinct lanes whose step at lane `l` gives the observation `φ` at `l` the value `v`, and leaves it at other lanes. -/
theorem foldl_lane {σ γ : Type} (φ : σ → γ) (f : σ → Nat → σ) (j : Nat) (v : γ) (hj : ∀ s, φ (f s j) = v)
    (h : ∀ s l, l < 32 → l ≠ j → φ (f s l) = φ s) :
    ∀ (l : List Nat) (s : σ), (∀ x ∈ l, x < 32) → l.Nodup → φ (l.foldl f s) = if j ∈ l then v else φ s := by
  intro l
  induction l with
  | nil => intro s _ _; simp
  | cons x t ih =>
    intro s hl hn
    rw [List.foldl_cons, ih _ (fun y hy => hl y (List.mem_cons_of_mem _ hy)) (List.nodup_cons.mp hn).2]
    by_cases hx : j = x
    · subst hx
      have ht : j ∉ t := (List.nodup_cons.mp hn).1
      simp [ht, hj]
    · have h1 := h s x (hl x List.mem_cons_self) (Ne.symm hx)
      by_cases ht : j ∈ t <;> simp [ht, hx, h1]

theorem eachLane_lane {σ γ : Type} (φ : σ → γ) (m : Word) (f : σ → Nat → σ) (j : Nat) (hj32 : j < 32) (v : γ)
    (hj : ∀ s, φ (f s j) = v) (h : ∀ s l, l < 32 → l ≠ j → φ (f s l) = φ s) (s : σ) :
    φ (eachLane m f s) = if inMask m j = true then v else φ s := by
  rw [eachLane, foldl_lane φ f j v hj h _ s (fun x hx => (mem_maskLanes.mp hx).1) (maskLanes_nodup m)]
  simp [mem_maskLanes, hj32]

/-! The write of a result to the lanes of a mask. -/

/-- What a result of `n` registers leaves in thread register `r` of lane `l`. -/
theorem getV_writeLanes (c : Ctx) (n : Nat) (d : Opnd) (f : Nat → DWord) {r l : Nat} (hl : l < 32) :
    getV (writeLanes c n d f) r l =
      match d with
      | .v q =>
        if inMask c.g l = true ∧ r = q.toNat then lowWord (f l)
        else if inMask c.g l = true ∧ n = 2 ∧ r = q.toNat + 1 then highWord (f l)
        else getV c.w r l
      | _ => getV c.w r l := by
  unfold writeLanes
  cases d with
  | v q =>
    by_cases h1 : r = q.toNat
    · rw [eachLane_lane (fun w => getV w r l) c.g _ l hl (lowWord (f l))]
      · simp [h1]
      · intro w
        simp only [dstN, dst64, dst32]
        split <;> simp [getV_dstWord, hl, h1]
      · intro w x hx hne
        simp only [dstN, dst64, dst32]
        split <;> simp [getV_dstWord, hl, hx, Ne.symm hne]
    · by_cases h2 : n = 2 ∧ r = q.toNat + 1
      · rw [eachLane_lane (fun w => getV w r l) c.g _ l hl (highWord (f l))]
        · simp [h2.1, h2.2]
        · intro w
          simp [dstN, dst64, getV_dstWord, hl, h2.1, h2.2]
        · intro w x hx hne
          simp [dstN, dst64, getV_dstWord, hl, hx, h2.1, Ne.symm hne]
      · have h3 : ∀ s x, x < 32 → getV (dstN s n (.v q) x (f x)) r l = getV s r l := by
          intro s x hx
          simp only [dstN, dst64, dst32]
          split
          · simp_all [getV_dstWord]
          · simp [getV_dstWord, hl, hx, h1]
        rw [eachLane, foldl_keeps_mem (fun w => getV w r l) _ _ _ (fun s x hx => h3 s x (mem_maskLanes.mp hx).1)]
        exact (by simp only []; rw [if_neg (fun h => h1 h.2), if_neg (fun h => h2 h.2)])
  | k q => exact eachLane_keeps (fun w => getV w r l) _ _ (fun s x => by simp only [dstN, dst64, dst32]; split <;> rfl) _
  | p q =>
    exact eachLane_keeps (fun w => getV w r l) _ _ (fun s x => by simp only [dstN, dst64, dst32, dstWord]; split <;> simp) _
  | vz => exact eachLane_keeps (fun w => getV w r l) _ _ (fun s x => by simp only [dstN, dst64, dst32]; split <;> rfl) _
  | bad q => exact eachLane_keeps (fun w => getV w r l) _ _ (fun s x => by simp only [dstN, dst64, dst32]; split <;> rfl) _

/-- What a result leaves in a predicate: only a destination `p0` to `p6` is written, in the lanes of the mask. -/
theorem inMask_writeLanes (c : Ctx) (n : Nat) (d : Opnd) (f : Nat → DWord) {p l : Nat} (hl : l < 32) :
    inMask (predMask (writeLanes c n d f) p) l =
      match d with
      | .p q => if inMask c.g l = true ∧ p = q.toNat ∧ p ≠ 7 then decide (lowWord (f l) ≠ 0) else inMask (predMask c.w p) l
      | _ => inMask (predMask c.w p) l := by
  unfold writeLanes
  cases d with
  | p q =>
    by_cases h1 : p = q.toNat ∧ p ≠ 7
    · obtain ⟨h1, h7⟩ := h1
      subst h1
      rw [eachLane_lane (fun w => inMask (predMask w q.toNat) l) c.g _ l hl (decide (lowWord (f l) ≠ 0))]
      · simp [h7]
      · intro w
        simp only [dstN, dst64, dst32]
        split <;> simp [inMask_dstWord, hl, h7]
      · intro w x hx hne
        simp only [dstN, dst64, dst32]
        split <;> simp [inMask_dstWord, hl, hx, Ne.symm hne]
    · have h3 : ∀ s x, x < 32 → inMask (predMask (dstN s n (.p q) x (f x)) p) l = inMask (predMask s p) l := by
        intro s x hx
        simp only [dstN, dst64, dst32]
        split <;> (simp only [inMask_dstWord _ _ _ _ hx hl]; grind)
      rw [eachLane, foldl_keeps_mem (fun w => inMask (predMask w p) l) _ _ _ (fun s x hx => h3 s x (mem_maskLanes.mp hx).1)]
      exact (by simp only []; rw [if_neg (fun h => h1 h.2)])
  | v q => exact eachLane_keeps (fun w => inMask (predMask w p) l) _ _ (fun s x => by simp only [dstN, dst64, dst32]; split <;> rfl) _
  | k q => exact eachLane_keeps (fun w => inMask (predMask w p) l) _ _ (fun s x => by simp only [dstN, dst64, dst32]; split <;> rfl) _
  | vz => exact eachLane_keeps (fun w => inMask (predMask w p) l) _ _ (fun s x => by simp only [dstN, dst64, dst32]; split <;> rfl) _
  | bad q => exact eachLane_keeps (fun w => inMask (predMask w p) l) _ _ (fun s x => by simp only [dstN, dst64, dst32]; split <;> rfl) _

/-- A result leaves what no write of its destination changes. -/
theorem writeLanes_keeps {γ : Type} (φ : Warp → γ) (c : Ctx) (n : Nat) (d : Opnd) (f : Nat → DWord)
    (h : ∀ w j l x, φ (dstWord w d j l x) = φ w) : φ (writeLanes c n d f) = φ c.w :=
  eachLane_keeps φ _ _ (fun s l => by simp only [dstN, dst64, dst32]; split <;> simp only [h]) _

theorem getK_writeLanes (c : Ctx) (n : Nat) (d : Opnd) (f : Nat → DWord) (hd : ∀ q, d ≠ .k q) (m : Nat) :
    getK (writeLanes c n d f) m = getK c.w m :=
  writeLanes_keeps (fun w => getK w m) c n d f (fun w j l x => by
    rw [getK_dstWord]
    cases d with
    | k q => exact absurd rfl (hd q)
    | _ => rfl)

@[simp] theorem writeLanes_pc (c : Ctx) (n : Nat) (d : Opnd) (f : Nat → DWord) : (writeLanes c n d f).pc = c.w.pc :=
  writeLanes_keeps (fun w => w.pc) c n d f (fun w j l x => dstWord_pc w d j l x)
@[simp] theorem writeLanes_active (c : Ctx) (n : Nat) (d : Opnd) (f : Nat → DWord) : (writeLanes c n d f).active = c.w.active :=
  writeLanes_keeps (fun w => w.active) c n d f (fun w j l x => dstWord_active w d j l x)
@[simp] theorem writeLanes_launch (c : Ctx) (n : Nat) (d : Opnd) (f : Nat → DWord) : (writeLanes c n d f).launch = c.w.launch :=
  writeLanes_keeps (fun w => w.launch) c n d f (fun w j l x => dstWord_launch w d j l x)
@[simp] theorem writeLanes_stack (c : Ctx) (n : Nat) (d : Opnd) (f : Nat → DWord) : (writeLanes c n d f).stack = c.w.stack :=
  writeLanes_keeps (fun w => w.stack) c n d f (fun w j l x => dstWord_stack w d j l x)
@[simp] theorem writeLanes_fpmode (c : Ctx) (n : Nat) (d : Opnd) (f : Nat → DWord) : (writeLanes c n d f).fpmode = c.w.fpmode :=
  writeLanes_keeps (fun w => w.fpmode) c n d f (fun w j l x => dstWord_fpmode w d j l x)
@[simp] theorem writeLanes_kbc (c : Ctx) (n : Nat) (d : Opnd) (f : Nat → DWord) : (writeLanes c n d f).kbc = c.w.kbc :=
  writeLanes_keeps (fun w => w.kbc) c n d f (fun w j l x => dstWord_kbc w d j l x)
@[simp] theorem writeLanes_gctx (c : Ctx) (n : Nat) (d : Opnd) (f : Nat → DWord) : (writeLanes c n d f).gctx = c.w.gctx :=
  writeLanes_keeps (fun w => w.gctx) c n d f (fun w j l x => dstWord_gctx w d j l x)
@[simp] theorem writeLanes_handler (c : Ctx) (n : Nat) (d : Opnd) (f : Nat → DWord) : (writeLanes c n d f).handler = c.w.handler :=
  writeLanes_keeps (fun w => w.handler) c n d f (fun w j l x => dstWord_handler w d j l x)
@[simp] theorem writeLanes_trapCause (c : Ctx) (n : Nat) (d : Opnd) (f : Nat → DWord) : (writeLanes c n d f).trapCause = c.w.trapCause :=
  writeLanes_keeps (fun w => w.trapCause) c n d f (fun w j l x => dstWord_trapCause w d j l x)
@[simp] theorem writeLanes_spill (c : Ctx) (n : Nat) (d : Opnd) (f : Nat → DWord) : (writeLanes c n d f).spill = c.w.spill :=
  writeLanes_keeps (fun w => w.spill) c n d f (fun w j l x => dstWord_spill w d j l x)
@[simp] theorem writeLanes_issued (c : Ctx) (n : Nat) (d : Opnd) (f : Nat → DWord) : (writeLanes c n d f).issued = c.w.issued :=
  writeLanes_keeps (fun w => w.issued) c n d f (fun w j l x => dstWord_issued w d j l x)
@[simp] theorem writeLanes_iters (c : Ctx) (n : Nat) (d : Opnd) (f : Nat → DWord) : (writeLanes c n d f).iters = c.w.iters :=
  writeLanes_keeps (fun w => w.iters) c n d f (fun w j l x => dstWord_iters w d j l x)
@[simp] theorem writeLanes_mmas (c : Ctx) (n : Nat) (d : Opnd) (f : Nat → DWord) : (writeLanes c n d f).mmas = c.w.mmas :=
  writeLanes_keeps (fun w => w.mmas) c n d f (fun w j l x => dstWord_mmas w d j l x)
@[simp] theorem writeLanes_blocked (c : Ctx) (n : Nat) (d : Opnd) (f : Nat → DWord) : (writeLanes c n d f).blocked = c.w.blocked :=
  writeLanes_keeps (fun w => w.blocked) c n d f (fun w j l x => dstWord_blocked w d j l x)
@[simp] theorem writeLanes_blockedAt (c : Ctx) (n : Nat) (d : Opnd) (f : Nat → DWord) : (writeLanes c n d f).blockedAt = c.w.blockedAt :=
  writeLanes_keeps (fun w => w.blockedAt) c n d f (fun w j l x => dstWord_blockedAt w d j l x)
@[simp] theorem writeLanes_acq (c : Ctx) (n : Nat) (d : Opnd) (f : Nat → DWord) : (writeLanes c n d f).acq = c.w.acq :=
  writeLanes_keeps (fun w => w.acq) c n d f (fun w j l x => dstWord_acq w d j l x)
@[simp] theorem writeLanes_arrived (c : Ctx) (n : Nat) (d : Opnd) (f : Nat → DWord) : (writeLanes c n d f).arrived = c.w.arrived :=
  writeLanes_keeps (fun w => w.arrived) c n d f (fun w j l x => dstWord_arrived w d j l x)
@[simp] theorem writeLanes_stamp (c : Ctx) (n : Nat) (d : Opnd) (f : Nat → DWord) : (writeLanes c n d f).stamp = c.w.stamp :=
  writeLanes_keeps (fun w => w.stamp) c n d f (fun w j l x => dstWord_stamp w d j l x)
@[simp] theorem writeLanes_passed (c : Ctx) (n : Nat) (d : Opnd) (f : Nat → DWord) : (writeLanes c n d f).passed = c.w.passed :=
  writeLanes_keeps (fun w => w.passed) c n d f (fun w j l x => dstWord_passed w d j l x)
@[simp] theorem writeLanes_yieldLeft (c : Ctx) (n : Nat) (d : Opnd) (f : Nat → DWord) : (writeLanes c n d f).yieldLeft = c.w.yieldLeft :=
  writeLanes_keeps (fun w => w.yieldLeft) c n d f (fun w j l x => dstWord_yieldLeft w d j l x)
@[simp] theorem writeLanes_lat (c : Ctx) (n : Nat) (d : Opnd) (f : Nat → DWord) : (writeLanes c n d f).lat = c.w.lat :=
  writeLanes_keeps (fun w => w.lat) c n d f (fun w j l x => dstWord_lat w d j l x)
@[simp] theorem writeLanes_drained (c : Ctx) (n : Nat) (d : Opnd) (f : Nat → DWord) : (writeLanes c n d f).drained = c.w.drained :=
  writeLanes_keeps (fun w => w.drained) c n d f (fun w j l x => dstWord_drained w d j l x)
@[simp] theorem writeLanes_lostSpill (c : Ctx) (n : Nat) (d : Opnd) (f : Nat → DWord) : (writeLanes c n d f).lostSpill = c.w.lostSpill :=
  writeLanes_keeps (fun w => w.lostSpill) c n d f (fun w j l x => dstWord_lostSpill w d j l x)
@[simp] theorem writeLanes_rebuilt (c : Ctx) (n : Nat) (d : Opnd) (f : Nat → DWord) : (writeLanes c n d f).rebuilt = c.w.rebuilt :=
  writeLanes_keeps (fun w => w.rebuilt) c n d f (fun w j l x => dstWord_rebuilt w d j l x)
@[simp] theorem writeLanes_gaeOut (c : Ctx) (n : Nat) (d : Opnd) (f : Nat → DWord) : (writeLanes c n d f).gaeOut = c.w.gaeOut :=
  writeLanes_keeps (fun w => w.gaeOut) c n d f (fun w j l x => dstWord_gaeOut w d j l x)

end Sys2Proof.Machine
end

