-- ==== Sys2Proof/Laws/Ops.lean ====
section
/-! SUPPORT. The current warp, and what running an instruction's body can do: the two rules by which every meaning of a warp instruction is
read, and the places of a task's warps. -/

namespace Sys2Proof.Machine

theorem setNth_get {α : Type} (y : α) : ∀ (l : List α) (i : Nat), i < l.length → (setNth l i y)[i]? = some y
  | [], _, h => absurd h (by simp)
  | _ :: t, 0, _ => by simp [setNth]
  | x :: t, i + 1, h => by
    have h' : i < t.length := by simpa using h
    simpa [setNth] using setNth_get y t i h'

theorem setNth_get_ne {α : Type} (y : α) : ∀ (l : List α) {i j : Nat}, j ≠ i → (setNth l i y)[j]? = l[j]?
  | [], _, _, _ => by simp [setNth]
  | _ :: _, 0, 0, h => absurd rfl h
  | _ :: _, 0, j + 1, _ => by simp [setNth]
  | _ :: _, i + 1, 0, _ => by simp [setNth]
  | _ :: t, i + 1, j + 1, h => by simpa [setNth] using setNth_get_ne y t (fun e => h (by omega))

@[simp] theorem setNth_length {α : Type} (y : α) : ∀ (l : List α) (i : Nat), (setNth l i y).length = l.length
  | [], _ => rfl
  | _ :: _, 0 => rfl
  | _ :: t, i + 1 => by simp [setNth, setNth_length y t i]

theorem modNth_eq_setNth {α : Type} (f : α → α) : ∀ (l : List α) (i : Nat) (x : α), l[i]? = some x → modNth l i f = setNth l i (f x)
  | [], _, _, h => by simp at h
  | _ :: _, 0, _, h => by simp at h; simp [modNth, setNth, h]
  | _ :: t, i + 1, x, h => by simpa [modNth, setNth] using modNth_eq_setNth f t i x (by simpa using h)

theorem setNth_twice {α : Type} (y z : α) : ∀ (l : List α) (i : Nat), setNth (setNth l i y) i z = setNth l i z
  | [], _ => rfl
  | _ :: _, 0 => rfl
  | _ :: t, i + 1 => by simp [setNth, setNth_twice y z t i]

theorem getTask_setTask (s : State) (k k' : Nat) (t : Task) :
    getTask (setTask s k t) k' = if k' = k then some t else getTask s k' := by
  simp only [getTask, setTask, Store.find_put]

/-- What a write of a warp leaves in the tables of tasks. -/
theorem getTask_setWarp {s : State} {k i k' : Nat} {t : Task} (w : Warp) (h : getTask s k = some t) :
    getTask (setWarp s k i w) k' = if k' = k then some { t with warps := setNth t.warps i w } else getTask s k' := by
  simp only [setWarp, h, getTask_setTask]

/-- A warp is read as it was written, and no other warp of any task changes. -/
theorem getWarp_setWarp {s : State} {k i : Nat} {t : Task} {w₀ : Warp} (w : Warp) (h : getTask s k = some t)
    (hw : getWarp t i = some w₀) :
    ∃ t', getTask (setWarp s k i w) k = some t' ∧ getWarp t' i = some w ∧ (∀ j, j ≠ i → getWarp t' j = getWarp t j) ∧
      t' = { t with warps := t'.warps } := by
  have hi : i < t.warps.length := by
    have := hw
    simp only [getWarp] at this
    exact (List.getElem?_eq_some_iff.mp this).1
  refine ⟨{ t with warps := setNth t.warps i w }, by rw [getTask_setWarp w h]; simp, ?_, ?_, rfl⟩
  · exact setNth_get w t.warps i hi
  · intro j hj
    exact setNth_get_ne w t.warps hj

/-- The parts of the current warp's context. -/
theorem curCtx_parts {s : State} {i : Instr} {c : Ctx} (h : curCtx s i = some c) :
    s.cur = some ⟨c.k, c.i⟩ ∧ getTask s c.k = some c.t ∧ getWarp c.t c.i = some c.w ∧ taskKernel s c.t = some c.kern ∧
      c.t.core = some c.core ∧
      c.g = (match guardOf i with
        | some g => guardMask c.w g
        | none => c.w.active) := by
  unfold curCtx at h
  split at h
  · cases h
  · rename_i cw hc
    split at h
    · cases h
    · rename_i t ht
      split at h
      · rename_i w kn core hw hk hcore
        cases h
        exact ⟨hc, ht, hw, hk, hcore, rfl⟩
      · cases h

/-- What a body's answer does to the state. -/
def applyRes (s : State) (k i : Nat) : Res → State
  | .warp w => setWarp s k i (retire w)
  | .jump w => setWarp s k i (retireJump w)
  | .done s1 => modWarp s1 k i retire
  | .state s1 => s1
  | .fault f s1 => takeFault s1 k i f

/-- An instruction that passes its checks does what its body answers. -/
theorem warpInstr_passes {i : Instr} {s : State} {c : Ctx} (body : Ctx → Res) (h : curCtx s i = some c)
    (hp : preCheck s i c = none) : warpInstr i s body = .next (applyRes s c.k c.i (body c)) := by
  simp only [warpInstr, h, hp, applyRes]
  split <;> simp_all

/-- An instruction that fails a check takes the fault of the first one. -/
theorem warpInstr_fails {i : Instr} {s : State} {c : Ctx} (body : Ctx → Res) {f : FaultInfo} (h : curCtx s i = some c)
    (hp : preCheck s i c = some f) : warpInstr i s body = .next (takeFault s c.k c.i f) := by
  simp only [warpInstr, h, hp]

/-- Everything that running a warp instruction can answer. -/
theorem warpInstr_cases {i : Instr} {s t : State} {body : Ctx → Res} (h : warpInstr i s body = .next t) :
    ∃ c, curCtx s i = some c ∧
      ((∃ f, preCheck s i c = some f ∧ t = takeFault s c.k c.i f) ∨
       (preCheck s i c = none ∧ t = applyRes s c.k c.i (body c))) := by
  cases hc : curCtx s i with
  | none => simp [warpInstr, hc] at h
  | some c =>
    refine ⟨c, rfl, ?_⟩
    cases hp : preCheck s i c with
    | some f =>
      rw [warpInstr_fails body hc hp] at h
      exact .inl ⟨f, rfl, by injection h with h; exact h.symm⟩
    | none =>
      rw [warpInstr_passes body hc hp] at h
      exact .inr ⟨rfl, by injection h with h; exact h.symm⟩

/-- The list of checks has no violation exactly where it is empty. -/
theorem firstViol_none {l : List (Nat × Nat)} : firstViol l = none ↔ l = [] := by
  cases l with
  | nil => simp [firstViol]
  | cons x t =>
    simp only [firstViol]
    split <;> simp
    split <;> simp

/-- The checks pass exactly where each of them does. -/
theorem preCheck_none {s : State} {i : Instr} {c : Ctx} : preCheck s i c = none ↔
    violations c.kern.encv i = [] ∧ privFault i c = none ∧ unitFault s i c = none ∧ regFault i c = none ∧ convFault i c = none ∧
      lostFault i c = none := by
  unfold preCheck
  cases h : firstViol (violations c.kern.encv i) with
  | some x =>
    have : violations c.kern.encv i ≠ [] := fun e => by rw [e] at h; simp [firstViol] at h
    simp [this]
  | none => simp [firstViol_none.mp h, Option.or_eq_none_iff]

/-- The register check passes exactly where every operand lies below the kernel's registers (18 R442). -/
theorem regFault_none {i : Instr} {c : Ctx} : regFault i c = none ↔ ∀ u ∈ operandUses i, operandEnd u ≤ 8 * c.kern.regs := by
  unfold regFault
  cases h : (operandUses i).find? (fun u => decide (8 * c.kern.regs < operandEnd u)) with
  | none => simpa using List.find?_eq_none.mp h
  | some u =>
    have hm := List.mem_of_find?_eq_some h
    have hp := List.find?_some h
    simp only [reduceCtorEq, false_iff, not_forall]
    exact ⟨u, hm, by simpa using hp⟩

/-- A word that passes its checks names no uniform register as an ordinary destination (06 R155). -/
theorem dst_not_uniform {ver pos n : Nat} {i : Instr} {o : Opnd} (h : violations ver i = [])
    (hu : (⟨pos, .dst n, o⟩ : OpUse) ∈ operandUses i)
    (hi : violations ver i = guardViol i ++ versionViol ver i ++ ((operandUses i).flatMap operandViol ++ opmViol i)) (q : BitVec 6) :
    o ≠ .k q := by
  rintro rfl
  rw [hi] at h
  simp only [List.append_eq_nil_iff, List.flatMap_eq_nil_iff] at h
  have := h.2.1 _ hu
  simp [operandViol] at this

end Sys2Proof.Machine
end

