-- ==== Sys2Proof/Laws/Access.lean ====
section
/-! SUPPORT. What posting a record, a translation, its service and stage 5 of an access leave unchanged: everything but memory, the queues
and rings, and the TLBs, and memory keeps its canonical form. -/

namespace Sys2Proof

open Machine

open Claims

theorem Claims.AccessFrame.refl (s : State) : AccessFrame s s := ⟨rfl, fun _ => rfl, id, fun _ => id⟩

theorem Claims.AccessFrame.trans {s t u : State} (h : AccessFrame s t) (k : AccessFrame t u) : AccessFrame s u where
  rest := by
    have h1 := k.rest
    rw [h.rest] at h1
    exact h1
  cores n := by rw [k.cores n, h.cores n]
  memory hm := k.memory (h.memory hm)
  poison n hn := h.poison n (k.poison n hn)

/-- A change of memory alone. -/
theorem Claims.AccessFrame.ofMem (s : State) (m : List Host.Cell) (h : Memory.wf s.mem = true → Memory.wf m = true) :
    AccessFrame s { s with mem := m } := ⟨rfl, fun _ => rfl, h, fun _ => id⟩

theorem accessFrame_ite {s t u : State} (p : Prop) [Decidable p] (h : AccessFrame s t) (k : AccessFrame s u) :
    AccessFrame s (if p then t else u) := by
  split
  · exact h
  · exact k

theorem accessFrame_setVd (s : State) (n : Nat) (v : Vd) : AccessFrame s (setVd s n v) := ⟨rfl, fun _ => rfl, id, fun _ => id⟩
theorem accessFrame_setPart (s : State) (n : Nat) (v : Part) : AccessFrame s (setPart s n v) := ⟨rfl, fun _ => rfl, id, fun _ => id⟩

theorem getCore_setCore (s : State) (n m : Nat) (c : Core) : getCore (setCore s n c) m = if m = n then c else getCore s m := by
  simp only [getCore, setCore, Store.get_eq, Store.find_put]
  split <;> rfl

theorem accessFrame_tlb (s : State) (n : Nat) (a b : List TlbEntry) :
    AccessFrame s (setCore s n { getCore s n with tlb := a, copyTlb := b }) where
  rest := rfl
  cores m := by
    rw [getCore_setCore]
    split
    · rename_i h; subst h; rfl
    · rfl
  memory := id
  poison _ := id

theorem appendEntry_wf (mem : List Host.Cell) (q : EventQueue) (ws : List DWord) (h : Memory.wf mem = true) :
    Memory.wf (appendEntry mem q ws).1 = true := wrList_wf _ _ _ h

theorem accessFrame_postVd (s : State) (vd : Nat) (b : Bool) (r : Rec) : AccessFrame s (postVd s vd b r) := by
  unfold postVd
  simp only []
  split
  · split <;> exact accessFrame_setVd _ _ _
  · exact (AccessFrame.ofMem s _ (appendEntry_wf _ _ _)).trans (accessFrame_setVd _ _ _)

theorem accessFrame_postPart (s : State) (p : Nat) (b : Bool) (r : Rec) : AccessFrame s (postPart s p b r) := by
  unfold postPart
  split
  · exact .refl s
  · split
    · split <;> exact accessFrame_setPart _ _ _
    · simp only []
      exact (AccessFrame.ofMem s _ (appendEntry_wf _ _ _)).trans (accessFrame_setPart _ _ _)

theorem accessFrame_wr64 (s : State) (pa : Nat) (x : DWord) : AccessFrame s (wr64 s pa x) := ⟨rfl, fun _ => rfl, wr64_wf s pa x, fun _ => id⟩

theorem accessFrame_l2 (s : State) (x : List (Nat × List L2Line)) : AccessFrame s { s with l2 := x } := ⟨rfl, fun _ => rfl, id, fun _ => id⟩

theorem accessFrame_touchSector (s : State) (pa : Nat) (w : Bool) : AccessFrame s (touchSector s pa w) := by
  unfold touchSector
  split
  · exact accessFrame_l2 _ _
  · exact .refl s

/-- A fold of steps each of which changes only what an access may. -/
theorem accessFrame_foldl {β : Type} (f : State → β → State) (h : ∀ s x, AccessFrame s (f s x)) :
    ∀ (l : List β) (s : State), AccessFrame s (l.foldl f s)
  | [], s => .refl s
  | x :: t, s => (h s x).trans (accessFrame_foldl f h t _)

theorem accessFrame_demandRange (s : State) (pn r : Nat) : AccessFrame s (demandRange s pn r) := by
  unfold demandRange
  split
  · exact .refl s
  · exact accessFrame_setPart _ _ _

theorem accessFrame_dirtyAppend (s : State) (vd ipa lvl : Nat) : AccessFrame s (dirtyAppend s vd ipa lvl) := by
  unfold dirtyAppend
  simp only []
  have h := AccessFrame.ofMem s (wrBytes s.mem (hostPa ((getVd s vd).dlbase.toNat + 8 * ((getVd s vd).dltail.toNat % dlSize (getVd s vd)))) 8
    (w64 (bitsOf ipa 47 16 * 2 ^ 16 + (3 - lvl))).toNat) (wrBytes_wf _ _ _ _)
  refine accessFrame_ite _ ?_ ?_
  · exact (h.trans (accessFrame_setVd _ _ _)).trans (accessFrame_postPart _ _ _ _)
  · exact h.trans (accessFrame_setVd _ _ _)

theorem accessFrame_markLeaves (s : State) (vd : Nat) (l1 l2 : Leaf) (ipa : Nat) (w : Bool) :
    AccessFrame s (markLeaves s vd l1 l2 ipa w) := by
  unfold markLeaves
  simp only []
  have m (s : State) (p q : Nat) (b : Bool) (x : DWord) : AccessFrame s (wr64 (touchSector s p b) q x) :=
    (accessFrame_touchSector _ _ _).trans (accessFrame_wr64 _ _ _)
  split
  · exact ((m _ _ _ _ _).trans (m _ _ _ _ _)).trans (accessFrame_dirtyAppend _ _ _ _)
  · exact (m _ _ _ _ _).trans (m _ _ _ _ _)

theorem accessFrame_dtlb (s : State) (x : List (Nat × List TlbEntry)) : AccessFrame s { s with dtlb := x } := ⟨rfl, fun _ => rfl, id, fun _ => id⟩

theorem accessFrame_tlbFill (s : State) (sel : TlbSel) (die : Nat) (e : TlbEntry) : AccessFrame s (tlbFill s sel die e) := by
  unfold tlbFill
  cases sel with
  | die c => exact (accessFrame_tlb s c _ _).trans (accessFrame_dtlb _ _)
  | copy c => exact (accessFrame_tlb s c _ _).trans (accessFrame_dtlb _ _)
  | none => exact accessFrame_dtlb _ _

theorem accessFrame_walkEnd (s : State) (pn : Nat) (e : WalkErr) : AccessFrame s (walkEnd s pn e).2 := by
  cases e with
  | wait r => exact accessFrame_demandRange _ _ _
  | _ => exact .refl s

theorem accessFrame_walkFill (s : State) (sel : TlbSel) (vd die va : Nat) (n : Needs) (p : Bool) :
    AccessFrame s (walkFill s sel vd die va n p).2 := by
  unfold walkFill
  split
  · exact accessFrame_walkEnd _ _ _
  · split
    · split
      · exact accessFrame_demandRange _ _ _
      · split
        · exact ((accessFrame_foldl _ (fun _ _ => accessFrame_touchSector _ _ _) _ _).trans (accessFrame_markLeaves _ _ _ _ _ _)).trans
            (accessFrame_tlbFill _ _ _ _)
        · exact .refl s
    · exact .refl s

/-- A translation changes page-table bits, the dirty log, the TLBs and what it demands of a restore alone. -/
theorem accessFrame_translate (s : State) (sel : TlbSel) (vd die va : Nat) (n : Needs) (p : Bool) :
    AccessFrame s (Machine.translate s sel vd die va n p).2 := by
  unfold Machine.translate
  split
  · split
    · exact accessFrame_walkFill _ _ _ _ _ _ _
    · split
      · simp only []
        split
        · exact accessFrame_demandRange _ _ _
        · exact .refl s
      · exact accessFrame_walkFill _ _ _ _ _ _ _
  · exact accessFrame_walkFill _ _ _ _ _ _ _

theorem accessFrame_setHostRing (s : State) (p d : Nat) (r : FrameRing) : AccessFrame s (setHostRing s p d r) := by
  unfold setHostRing
  split
  · exact accessFrame_setPart _ _ _
  · exact .refl s

theorem accessFrame_zero (s : State) (l : List Nat) : AccessFrame s (zeroFrame s l) :=
  ⟨rfl, fun _ => rfl, filter_wf _ _, fun n => Store.get_of_filter (fun k => !l.any (fun b => decide (b / 16 ≤ k ∧ k < b / 16 + 64))) s.poison n⟩

theorem accessFrame_serveHost (s : State) (vd die ipa : Nat) : AccessFrame s (serveHost s vd die ipa) := by
  unfold serveHost
  simp only []
  split
  · exact accessFrame_setHostRing _ _ _ _
  · rename_i oa _
    refine (accessFrame_zero s (framePieces s (partOf vd) 0 die oa.toNat)).trans ?_
    split
    · split
      · exact ((accessFrame_touchSector _ _ _).trans (accessFrame_wr64 _ _ _)).trans (accessFrame_setHostRing _ _ _ _)
      · exact accessFrame_setHostRing _ _ _ _
    · exact accessFrame_setHostRing _ _ _ _

theorem accessFrame_serveTenant (s : State) (vd die ipa : Nat) : AccessFrame s (serveTenant s vd die ipa).1 := by
  unfold serveTenant
  simp only []
  split
  · exact accessFrame_setVd _ _ _
  · split
    · exact (accessFrame_setVd _ _ _).trans (accessFrame_walkEnd _ _ _)
    · rename_i oa _ _ l2 _
      split
      · exact accessFrame_setVd _ _ _
      · split
        · exact accessFrame_setVd _ _ _
        · refine ((accessFrame_zero s (framePieces s (partOf vd) (teLoc l2.entry) (teDie l2.entry) (l2.oa + oa.toNat % l2.size))).trans
            (accessFrame_markLeaves _ vd l2 l2 oa.toNat true)).trans ?_
          split
          · split
            · exact ((accessFrame_touchSector _ _ _).trans (accessFrame_wr64 _ _ _)).trans (accessFrame_setVd _ _ _)
            · exact accessFrame_setVd _ _ _
          · exact accessFrame_setVd _ _ _

theorem accessFrame_joinWalk (s : State) (vd tag bay range : Nat) : AccessFrame s (joinWalk s vd tag bay range) := accessFrame_setVd _ _ _

theorem accessFrame_pageRequest (s : State) (bay vd die va : Nat) (n : Needs) (x : XRes) (lanes : Word) (u : Nat) (t : DWord) :
    AccessFrame s (pageRequest s bay vd die va n x lanes u t).2 := by
  unfold pageRequest
  simp only []
  split
  · exact .refl s
  · split
    · exact accessFrame_joinWalk _ _ _ _ _
    · split
      · exact .refl s
      · exact (accessFrame_setVd _ _ _).trans (accessFrame_postVd _ _ _ _)

/-- A look with its service changes only what R461 and R462 write. -/
theorem accessFrame_lookFor (sel : TlbSel) (vd die va : Nat) (n : Needs) : ∀ (fuel : Nat) (s : State),
    AccessFrame s (lookFor sel vd die va n fuel s).2
  | 0, s => accessFrame_translate _ _ _ _ _ _ _
  | k + 1, s => by
    have ih := accessFrame_lookFor sel vd die va n k
    have ht := accessFrame_translate s sel vd die va n false
    unfold lookFor
    generalize Machine.translate s sel vd die va n false = r at ht ⊢
    obtain ⟨x, s1⟩ := r
    simp only at ht
    split
    · rename_i h; cases h; exact ht
    · rename_i h; cases h
      refine ht.trans ?_
      split
      · exact (accessFrame_serveHost _ _ _ _).trans (ih _)
      · rename_i ipa _ _
        have hs := accessFrame_serveTenant s1 vd die ipa
        generalize serveTenant s1 vd die ipa = r2 at hs ⊢
        obtain ⟨s2, f⟩ := r2
        refine AccessFrame.trans hs ?_
        cases f with
        | none => exact ih _
        | some fr =>
          simp only []
          split
          · exact (accessFrame_serveHost _ _ _ _).trans (ih _)
          · exact .refl _
      · exact .refl _

/-- A translation with its service changes only what R461 and R462 write, and what performing it marks. -/
theorem accessFrame_resolve (sel : TlbSel) (vd die va : Nat) (n : Needs) (fuel : Nat) (s : State) :
    AccessFrame s (resolve sel vd die va n fuel s).2 := by
  have h := accessFrame_lookFor sel vd die va n fuel s
  unfold resolve
  split
  · rename_i e
    rw [e] at h
    exact h.trans (accessFrame_translate _ _ _ _ _ _ _)
  · exact h

theorem accessFrame_translateAll (core vd die : Nat) (n : Needs) (p : Bool) : ∀ (l : List Acc) (s : State),
    AccessFrame s (translateAll core vd die n p l s).2
  | [], s => .refl s
  | a :: t, s => (accessFrame_translate s (.die core) vd die a.addr.toNat n p).trans (accessFrame_translateAll core vd die n p t _)

theorem accessFrame_resolveAll (core vd die : Nat) (n : Needs) : ∀ (l : List (Acc × XRes)) (s : State),
    AccessFrame s (resolveAll core vd die n l s).2
  | [], s => .refl s
  | a :: t, s =>
    (accessFrame_lookFor (.die core) vd die a.1.addr.toNat n serviceFuel s).trans (accessFrame_resolveAll core vd die n t _)

theorem accessFrame_requestAll (core vd die : Nat) (n : Needs) (task : DWord) (lanes : Word) (l : List (Acc × XRes)) (s : State) :
    AccessFrame s (requestAll core vd die n task lanes l s).2 := by
  unfold requestAll
  suffices h : ∀ (l : List (Acc × XRes)) (a : List Nat × State), AccessFrame s a.2 → AccessFrame s (l.foldl (fun (tags, s) e =>
      if serviceFor s vd die e.2 = .request then
        match pageRequest s (bayOfCore core) vd die e.1.addr.toNat n e.2 lanes 0 task with
        | (some tag, s1) => (if elemOf tag tags then tags else tags ++ [tag], s1)
        | (none, s1) => (tags, s1)
      else (tags, s)) a).2 from h l ([], s) (.refl s)
  intro l
  induction l with
  | nil => exact fun a h => h
  | cons e t ih =>
    intro a h
    refine ih _ ?_
    obtain ⟨tags, s0⟩ := a
    simp only at h ⊢
    have hp := accessFrame_pageRequest s0 (bayOfCore core) vd die e.1.addr.toNat n e.2 lanes 0 task
    split
    · generalize pageRequest s0 (bayOfCore core) vd die e.1.addr.toNat n e.2 lanes 0 task = r at hp ⊢
      obtain ⟨x, s1⟩ := r
      cases x <;> exact h.trans hp
    · exact h

theorem accessFrame_touchL2 (s : State) (pa n : Nat) (w : Bool) : AccessFrame s (touchL2 s pa n w) :=
  accessFrame_foldl _ (fun _ _ => accessFrame_touchSector _ _ _) _ _

theorem accessFrame_performAll (core vd die : Nat) (n : Needs) (accs : List Acc) (s : State) :
    AccessFrame s (performAll core vd die n accs s).2 := by
  have h := accessFrame_translateAll core vd die n true accs s
  unfold performAll
  generalize translateAll core vd die n true accs s = r at h ⊢
  obtain ⟨l, s1⟩ := r
  simp only at h ⊢
  split
  · exact h
  · refine h.trans ?_
    simp only []
    split
    · exact .refl _
    · refine accessFrame_foldl _ (fun t e => ?_) _ _
      split
      · exact accessFrame_touchL2 _ _ _ _
      · exact .refl _

theorem accessFrame_dieAccess (core vd die : Nat) (n : Needs) (task : DWord) (accs : List Acc) : ∀ (fuel : Nat) (s : State),
    AccessFrame s (dieAccess core vd die n task accs fuel s).2 := by
  intro fuel
  induction fuel with
  | zero =>
    intro s
    unfold dieAccess
    have h1 := accessFrame_translateAll core vd die n false accs s
    generalize translateAll core vd die n false accs s = r at h1 ⊢
    obtain ⟨l, s1⟩ := r
    simp only at h1 ⊢
    split
    · split
      · have h2 := fun q => accessFrame_resolveAll core vd die n q s1
        split
        · rename_i heq; simp at heq
        · split
          · exact h1.trans ((h2 _).trans (accessFrame_requestAll _ _ _ _ _ _ _ _))
          · exact h1.trans (h2 _)
      · exact h1
    · exact h1.trans (accessFrame_performAll _ _ _ _ _ _)
  | succ k ih =>
    intro s
    unfold dieAccess
    have h1 := accessFrame_translateAll core vd die n false accs s
    generalize translateAll core vd die n false accs s = r at h1 ⊢
    obtain ⟨l, s1⟩ := r
    simp only at h1 ⊢
    split
    · split
      · have h2 := fun q => accessFrame_resolveAll core vd die n q s1
        split
        · rename_i heq
          cases heq
          exact h1.trans ((h2 _).trans (ih _))
        · split
          · exact h1.trans ((h2 _).trans (accessFrame_requestAll _ _ _ _ _ _ _ _))
          · exact h1.trans (h2 _)
      · exact h1
    · exact h1.trans (accessFrame_performAll _ _ _ _ _ _)

/-- Stage 5 of an access changes only what translations and their service change. -/
theorem accessFrame_checkAccess (s : State) (c : Ctx) (sp : Space) (align kind : Nat) (n : Needs) (accs : List Acc) :
    AccessFrame s (checkAccess s c sp align kind n accs).2 := by
  unfold checkAccess
  split
  · exact .refl s
  · split
    · exact accessFrame_dieAccess _ _ _ _ _ _ _ _
    · exact .refl s

end Sys2Proof
end

