-- ==== Sys2Proof/Laws/Words.lean ====
section
/-! SUPPORT. The opcode field of the words that the encoder writes (06 R153 to R161). -/

namespace Sys2Proof.Laws

open Sys2Proof Sys2Proof.Machine

/-- A field above the last part of a concatenation lies in what comes before it. -/
theorem extract_high {w v : Nat} (x : BitVec w) (y : BitVec v) (s n : Nat) (h : v ≤ s) :
    (x ++ y).extractLsb' s n = x.extractLsb' (s - v) n := by
  apply BitVec.eq_of_getLsbD_eq; intro i hi
  have h1 : ¬ s + i < v := by omega
  have h2 : s + i - v = s - v + i := by omega
  simp [BitVec.getLsbD_append, hi, h1, h2]

/-- A field that is the last part of a concatenation. -/
theorem extract_low {w v : Nat} (x : BitVec w) (y : BitVec v) : (x ++ y).extractLsb' 0 v = y := by
  apply BitVec.eq_of_getLsbD_eq; intro i hi
  simp [BitVec.getLsbD_append, hi]

theorem extract_all {n : Nat} (x : BitVec n) (s : Nat) (h : s = 0) : x.extractLsb' s n = x := by
  subst h; simp

/-- The opcode stands in bits 63 to 54. -/
@[simp] theorem putR_opcode (op : BitVec 10) (g : Guard) (d a b c : Opnd) (opm : BitVec 12) : (putR op g d a b c opm).extractLsb' 54 10 = op := by
  unfold putR
  repeat refine (extract_high _ _ _ _ (by decide)).trans ?_
  exact extract_all _ _ rfl

/-- The form stands in bits 1 and 0. -/
@[simp] theorem putR_form (op : BitVec 10) (g : Guard) (d a b c : Opnd) (opm : BitVec 12) : (putR op g d a b c opm).extractLsb' 0 2 = 0 := by
  unfold putR; exact extract_low _ _

/-- The opcode stands in bits 63 to 54. -/
@[simp] theorem putMem_opcode (op : BitVec 10) (f : RMem) : (putMem op f).extractLsb' 54 10 = op := by
  unfold putMem
  repeat refine (extract_high _ _ _ _ (by decide)).trans ?_
  exact extract_all _ _ rfl

/-- The form stands in bits 1 and 0. -/
@[simp] theorem putMem_form (op : BitVec 10) (f : RMem) : (putMem op f).extractLsb' 0 2 = 0 := by
  unfold putMem; exact extract_low _ _

/-- The opcode stands in bits 63 to 54. -/
@[simp] theorem putI_opcode (op : BitVec 10) (f : IForm) : (putI op f).extractLsb' 54 10 = op := by
  unfold putI
  repeat refine (extract_high _ _ _ _ (by decide)).trans ?_
  exact extract_all _ _ rfl

/-- The form stands in bits 1 and 0. -/
@[simp] theorem putI_form (op : BitVec 10) (f : IForm) : (putI op f).extractLsb' 0 2 = 1 := by
  unfold putI; exact extract_low _ _

/-- The opcode stands in bits 63 to 54. -/
@[simp] theorem putB_opcode (op : BitVec 10) (f : BForm) : (putB op f).extractLsb' 54 10 = op := by
  unfold putB
  repeat refine (extract_high _ _ _ _ (by decide)).trans ?_
  exact extract_all _ _ rfl

/-- The form stands in bits 1 and 0. -/
@[simp] theorem putB_form (op : BitVec 10) (f : BForm) : (putB op f).extractLsb' 0 2 = 2 := by
  unfold putB; exact extract_low _ _

/-- The opcode stands in bits 63 to 54. -/
@[simp] theorem putT_opcode (op : BitVec 10) (f : TForm) : (putT op f).extractLsb' 54 10 = op := by
  unfold putT
  repeat refine (extract_high _ _ _ _ (by decide)).trans ?_
  exact extract_all _ _ rfl

/-- The form stands in bits 1 and 0. -/
@[simp] theorem putT_form (op : BitVec 10) (f : TForm) : (putT op f).extractLsb' 0 2 = 3 := by
  unfold putT; exact extract_low _ _

/-- The opcode stands in bits 63 to 54. -/
@[simp] theorem putHdr_opcode (h : BlockHdr) : (putHdr h).extractLsb' 54 10 = 0x3FF := by
  unfold putHdr
  repeat refine (extract_high _ _ _ _ (by decide)).trans ?_
  exact extract_all _ _ rfl

/-- The form stands in bits 1 and 0. -/
@[simp] theorem putHdr_form (h : BlockHdr) : (putHdr h).extractLsb' 0 2 = 3 := by
  unfold putHdr; exact extract_low _ _

@[simp] theorem putRaw_opcode (op : BitVec 10) (f : RRaw) : (putRaw op f).extractLsb' 54 10 = op := putR_opcode ..
@[simp] theorem putRaw_form (op : BitVec 10) (f : RRaw) : (putRaw op f).extractLsb' 0 2 = 0 := putR_form ..

@[simp] theorem putArith_opcode (op : BitVec 10) (f : RArith) : (putArith op f).extractLsb' 54 10 = op := putR_opcode ..
@[simp] theorem putArith_form (op : BitVec 10) (f : RArith) : (putArith op f).extractLsb' 0 2 = 0 := putR_form ..

@[simp] theorem putAtom_opcode (op : BitVec 10) (f : RAtom) : (putAtom op f).extractLsb' 54 10 = op := putR_opcode ..
@[simp] theorem putAtom_form (op : BitVec 10) (f : RAtom) : (putAtom op f).extractLsb' 0 2 = 0 := putR_form ..

@[simp] theorem putSync_opcode (op : BitVec 10) (f : RSync) : (putSync op f).extractLsb' 54 10 = op := putR_opcode ..
@[simp] theorem putSync_form (op : BitVec 10) (f : RSync) : (putSync op f).extractLsb' 0 2 = 0 := putR_form ..

@[simp] theorem putCopy_opcode (op : BitVec 10) (f : RCopy) : (putCopy op f).extractLsb' 54 10 = op := putR_opcode ..
@[simp] theorem putCopy_form (op : BitVec 10) (f : RCopy) : (putCopy op f).extractLsb' 0 2 = 0 := putR_form ..

@[simp] theorem putMma_opcode (op : BitVec 10) (f : RMma) : (putMma op f).extractLsb' 54 10 = op := putR_opcode ..
@[simp] theorem putMma_form (op : BitVec 10) (f : RMma) : (putMma op f).extractLsb' 0 2 = 0 := putR_form ..

@[simp] theorem putLdm_opcode (op : BitVec 10) (f : RLdm) : (putLdm op f).extractLsb' 54 10 = op := putR_opcode ..
@[simp] theorem putLdm_form (op : BitVec 10) (f : RLdm) : (putLdm op f).extractLsb' 0 2 = 0 := putR_form ..

@[simp] theorem putTmv_opcode (op : BitVec 10) (f : RTmv) : (putTmv op f).extractLsb' 54 10 = op := putR_opcode ..
@[simp] theorem putTmv_form (op : BitVec 10) (f : RTmv) : (putTmv op f).extractLsb' 0 2 = 0 := putR_form ..

@[simp] theorem putNarrow_opcode (op : BitVec 10) (f : RNarrow) : (putNarrow op f).extractLsb' 54 10 = op := putR_opcode ..
@[simp] theorem putNarrow_form (op : BitVec 10) (f : RNarrow) : (putNarrow op f).extractLsb' 0 2 = 0 := putR_form ..

end Sys2Proof.Laws
end

