-- ==== Sys2Proof/Laws/PerInstr.lean ====
section
/-! SUPPORT. For every instruction: its word names an opcode that the manual lists; a step of the device has no word. -/

namespace Sys2Proof.Laws

open Sys2Proof Sys2Proof.Machine

/-- The word of a well-formed instruction names a listed opcode (06 R166). -/
def Opcode.Statement (i : Instr) : Prop :=
  ∀ (ver : Nat) (w : DWord), encode i = some w → WellFormed ver i → opListed (w.extractLsb' 54 10).toNat = true

/-- The lemma of an instruction that has a word. -/
theorem Opcode.of_word {i : Instr} {w : DWord} {op : BitVec 10} (hi : encode i = some w) (ho : w.extractLsb' 54 10 = op)
    (hl : opListed op.toNat = true) : Opcode.Statement i := by
  intro ver x h _
  rw [hi] at h
  cases h
  rw [ho, hl]

/-- The lemma of a step of the device. -/
theorem Opcode.of_event {i : Instr} (hi : encode i = none) : Opcode.Statement i := by
  intro ver x h _
  rw [hi] at h
  cases h

theorem Opcode.add (f) : Opcode.Statement (.add f) := Opcode.of_word (op := 0x000) rfl (putArith_opcode ..) (by decide)
theorem Opcode.addImm (f) : Opcode.Statement (.addImm f) := Opcode.of_word (op := 0x000) rfl (putI_opcode ..) (by decide)
theorem Opcode.sub (f) : Opcode.Statement (.sub f) := Opcode.of_word (op := 0x001) rfl (putArith_opcode ..) (by decide)
theorem Opcode.subImm (f) : Opcode.Statement (.subImm f) := Opcode.of_word (op := 0x001) rfl (putI_opcode ..) (by decide)
theorem Opcode.addc (f) : Opcode.Statement (.addc f) := Opcode.of_word (op := 0x002) rfl (putArith_opcode ..) (by decide)
theorem Opcode.subb (f) : Opcode.Statement (.subb f) := Opcode.of_word (op := 0x003) rfl (putArith_opcode ..) (by decide)
theorem Opcode.mul (f) : Opcode.Statement (.mul f) := Opcode.of_word (op := 0x004) rfl (putArith_opcode ..) (by decide)
theorem Opcode.mulImm (f) : Opcode.Statement (.mulImm f) := Opcode.of_word (op := 0x004) rfl (putI_opcode ..) (by decide)
theorem Opcode.mulh (f) : Opcode.Statement (.mulh f) := Opcode.of_word (op := 0x005) rfl (putArith_opcode ..) (by decide)
theorem Opcode.mad (f) : Opcode.Statement (.mad f) := Opcode.of_word (op := 0x006) rfl (putArith_opcode ..) (by decide)
theorem Opcode.madw (f) : Opcode.Statement (.madw f) := Opcode.of_word (op := 0x007) rfl (putArith_opcode ..) (by decide)
theorem Opcode.div (f) : Opcode.Statement (.div f) := Opcode.of_word (op := 0x008) rfl (putArith_opcode ..) (by decide)
theorem Opcode.rem (f) : Opcode.Statement (.rem f) := Opcode.of_word (op := 0x009) rfl (putArith_opcode ..) (by decide)
theorem Opcode.min (f) : Opcode.Statement (.min f) := Opcode.of_word (op := 0x00A) rfl (putArith_opcode ..) (by decide)
theorem Opcode.minImm (f) : Opcode.Statement (.minImm f) := Opcode.of_word (op := 0x00A) rfl (putI_opcode ..) (by decide)
theorem Opcode.max (f) : Opcode.Statement (.max f) := Opcode.of_word (op := 0x00B) rfl (putArith_opcode ..) (by decide)
theorem Opcode.maxImm (f) : Opcode.Statement (.maxImm f) := Opcode.of_word (op := 0x00B) rfl (putI_opcode ..) (by decide)
theorem Opcode.abs (f) : Opcode.Statement (.abs f) := Opcode.of_word (op := 0x00C) rfl (putArith_opcode ..) (by decide)
theorem Opcode.neg (f) : Opcode.Statement (.neg f) := Opcode.of_word (op := 0x00D) rfl (putArith_opcode ..) (by decide)
theorem Opcode.sad (f) : Opcode.Statement (.sad f) := Opcode.of_word (op := 0x00E) rfl (putArith_opcode ..) (by decide)
theorem Opcode.and (f) : Opcode.Statement (.and f) := Opcode.of_word (op := 0x040) rfl (putArith_opcode ..) (by decide)
theorem Opcode.andImm (f) : Opcode.Statement (.andImm f) := Opcode.of_word (op := 0x040) rfl (putI_opcode ..) (by decide)
theorem Opcode.or (f) : Opcode.Statement (.or f) := Opcode.of_word (op := 0x041) rfl (putArith_opcode ..) (by decide)
theorem Opcode.orImm (f) : Opcode.Statement (.orImm f) := Opcode.of_word (op := 0x041) rfl (putI_opcode ..) (by decide)
theorem Opcode.xor (f) : Opcode.Statement (.xor f) := Opcode.of_word (op := 0x042) rfl (putArith_opcode ..) (by decide)
theorem Opcode.xorImm (f) : Opcode.Statement (.xorImm f) := Opcode.of_word (op := 0x042) rfl (putI_opcode ..) (by decide)
theorem Opcode.not (f) : Opcode.Statement (.not f) := Opcode.of_word (op := 0x043) rfl (putArith_opcode ..) (by decide)
theorem Opcode.andn (f) : Opcode.Statement (.andn f) := Opcode.of_word (op := 0x044) rfl (putArith_opcode ..) (by decide)
theorem Opcode.andnImm (f) : Opcode.Statement (.andnImm f) := Opcode.of_word (op := 0x044) rfl (putI_opcode ..) (by decide)
theorem Opcode.blut (f) : Opcode.Statement (.blut f) := Opcode.of_word (op := 0x045) rfl (putRaw_opcode ..) (by decide)
theorem Opcode.shl (f) : Opcode.Statement (.shl f) := Opcode.of_word (op := 0x046) rfl (putArith_opcode ..) (by decide)
theorem Opcode.shlImm (f) : Opcode.Statement (.shlImm f) := Opcode.of_word (op := 0x046) rfl (putI_opcode ..) (by decide)
theorem Opcode.shr (f) : Opcode.Statement (.shr f) := Opcode.of_word (op := 0x047) rfl (putArith_opcode ..) (by decide)
theorem Opcode.shrImm (f) : Opcode.Statement (.shrImm f) := Opcode.of_word (op := 0x047) rfl (putI_opcode ..) (by decide)
theorem Opcode.sra (f) : Opcode.Statement (.sra f) := Opcode.of_word (op := 0x048) rfl (putArith_opcode ..) (by decide)
theorem Opcode.sraImm (f) : Opcode.Statement (.sraImm f) := Opcode.of_word (op := 0x048) rfl (putI_opcode ..) (by decide)
theorem Opcode.rot (f) : Opcode.Statement (.rot f) := Opcode.of_word (op := 0x049) rfl (putArith_opcode ..) (by decide)
theorem Opcode.rotImm (f) : Opcode.Statement (.rotImm f) := Opcode.of_word (op := 0x049) rfl (putI_opcode ..) (by decide)
theorem Opcode.fshl (f) : Opcode.Statement (.fshl f) := Opcode.of_word (op := 0x04A) rfl (putArith_opcode ..) (by decide)
theorem Opcode.bfx (f) : Opcode.Statement (.bfx f) := Opcode.of_word (op := 0x04B) rfl (putArith_opcode ..) (by decide)
theorem Opcode.bfi (f) : Opcode.Statement (.bfi f) := Opcode.of_word (op := 0x04C) rfl (putArith_opcode ..) (by decide)
theorem Opcode.popc (f) : Opcode.Statement (.popc f) := Opcode.of_word (op := 0x04D) rfl (putArith_opcode ..) (by decide)
theorem Opcode.clz (f) : Opcode.Statement (.clz f) := Opcode.of_word (op := 0x04E) rfl (putArith_opcode ..) (by decide)
theorem Opcode.ctz (f) : Opcode.Statement (.ctz f) := Opcode.of_word (op := 0x04F) rfl (putArith_opcode ..) (by decide)
theorem Opcode.brev (f) : Opcode.Statement (.brev f) := Opcode.of_word (op := 0x050) rfl (putArith_opcode ..) (by decide)
theorem Opcode.bpick (f) : Opcode.Statement (.bpick f) := Opcode.of_word (op := 0x051) rfl (putRaw_opcode ..) (by decide)
theorem Opcode.setp (f) : Opcode.Statement (.setp f) := Opcode.of_word (op := 0x080) rfl (putArith_opcode ..) (by decide)
theorem Opcode.sel (f) : Opcode.Statement (.sel f) := Opcode.of_word (op := 0x081) rfl (putArith_opcode ..) (by decide)
theorem Opcode.plop (f) : Opcode.Statement (.plop f) := Opcode.of_word (op := 0x082) rfl (putRaw_opcode ..) (by decide)
theorem Opcode.mov (f) : Opcode.Statement (.mov f) := Opcode.of_word (op := 0x083) rfl (putArith_opcode ..) (by decide)
theorem Opcode.movi (f) : Opcode.Statement (.movi f) := Opcode.of_word (op := 0x084) rfl (putI_opcode ..) (by decide)
theorem Opcode.movk (f) : Opcode.Statement (.movk f) := Opcode.of_word (op := 0x085) rfl (putArith_opcode ..) (by decide)
theorem Opcode.movkImm (f) : Opcode.Statement (.movkImm f) := Opcode.of_word (op := 0x085) rfl (putI_opcode ..) (by decide)
theorem Opcode.cvti (f) : Opcode.Statement (.cvti f) := Opcode.of_word (op := 0x086) rfl (putArith_opcode ..) (by decide)
theorem Opcode.lea (f) : Opcode.Statement (.lea f) := Opcode.of_word (op := 0x087) rfl (putArith_opcode ..) (by decide)
theorem Opcode.srd (f) : Opcode.Statement (.srd f) := Opcode.of_word (op := 0x088) rfl (putRaw_opcode ..) (by decide)
theorem Opcode.clk (f) : Opcode.Statement (.clk f) := Opcode.of_word (op := 0x089) rfl (putArith_opcode ..) (by decide)
theorem Opcode.bra (f) : Opcode.Statement (.bra f) := Opcode.of_word (op := 0x0C0) rfl (putB_opcode ..) (by decide)
theorem Opcode.brx (f) : Opcode.Statement (.brx f) := Opcode.of_word (op := 0x0C1) rfl (putRaw_opcode ..) (by decide)
theorem Opcode.call (f) : Opcode.Statement (.call f) := Opcode.of_word (op := 0x0C2) rfl (putB_opcode ..) (by decide)
theorem Opcode.ret (f) : Opcode.Statement (.ret f) := Opcode.of_word (op := 0x0C3) rfl (putRaw_opcode ..) (by decide)
theorem Opcode.exit (f) : Opcode.Statement (.exit f) := Opcode.of_word (op := 0x0C4) rfl (putRaw_opcode ..) (by decide)
theorem Opcode.nop (f) : Opcode.Statement (.nop f) := Opcode.of_word (op := 0x0C5) rfl (putRaw_opcode ..) (by decide)
theorem Opcode.yield (f) : Opcode.Statement (.yield f) := Opcode.of_word (op := 0x0C6) rfl (putRaw_opcode ..) (by decide)
theorem Opcode.vote (f) : Opcode.Statement (.vote f) := Opcode.of_word (op := 0x100) rfl (putArith_opcode ..) (by decide)
theorem Opcode.lxch (f) : Opcode.Statement (.lxch f) := Opcode.of_word (op := 0x101) rfl (putArith_opcode ..) (by decide)
theorem Opcode.match (f) : Opcode.Statement (.match f) := Opcode.of_word (op := 0x102) rfl (putArith_opcode ..) (by decide)
theorem Opcode.segred (f) : Opcode.Statement (.segred f) := Opcode.of_word (op := 0x103) rfl (putArith_opcode ..) (by decide)
theorem Opcode.scan (f) : Opcode.Statement (.scan f) := Opcode.of_word (op := 0x104) rfl (putArith_opcode ..) (by decide)
theorem Opcode.actm (f) : Opcode.Statement (.actm f) := Opcode.of_word (op := 0x105) rfl (putArith_opcode ..) (by decide)
theorem Opcode.elect (f) : Opcode.Statement (.elect f) := Opcode.of_word (op := 0x106) rfl (putArith_opcode ..) (by decide)
theorem Opcode.fadd (f) : Opcode.Statement (.fadd f) := Opcode.of_word (op := 0x140) rfl (putArith_opcode ..) (by decide)
theorem Opcode.faddImm (f) : Opcode.Statement (.faddImm f) := Opcode.of_word (op := 0x140) rfl (putI_opcode ..) (by decide)
theorem Opcode.fsub (f) : Opcode.Statement (.fsub f) := Opcode.of_word (op := 0x141) rfl (putArith_opcode ..) (by decide)
theorem Opcode.fmul (f) : Opcode.Statement (.fmul f) := Opcode.of_word (op := 0x142) rfl (putArith_opcode ..) (by decide)
theorem Opcode.fmulImm (f) : Opcode.Statement (.fmulImm f) := Opcode.of_word (op := 0x142) rfl (putI_opcode ..) (by decide)
theorem Opcode.ffma (f) : Opcode.Statement (.ffma f) := Opcode.of_word (op := 0x143) rfl (putArith_opcode ..) (by decide)
theorem Opcode.fmin (f) : Opcode.Statement (.fmin f) := Opcode.of_word (op := 0x144) rfl (putArith_opcode ..) (by decide)
theorem Opcode.fminImm (f) : Opcode.Statement (.fminImm f) := Opcode.of_word (op := 0x144) rfl (putI_opcode ..) (by decide)
theorem Opcode.fmax (f) : Opcode.Statement (.fmax f) := Opcode.of_word (op := 0x145) rfl (putArith_opcode ..) (by decide)
theorem Opcode.fmaxImm (f) : Opcode.Statement (.fmaxImm f) := Opcode.of_word (op := 0x145) rfl (putI_opcode ..) (by decide)
theorem Opcode.fsetp (f) : Opcode.Statement (.fsetp f) := Opcode.of_word (op := 0x146) rfl (putArith_opcode ..) (by decide)
theorem Opcode.fsel (f) : Opcode.Statement (.fsel f) := Opcode.of_word (op := 0x147) rfl (putArith_opcode ..) (by decide)
theorem Opcode.frcp (f) : Opcode.Statement (.frcp f) := Opcode.of_word (op := 0x148) rfl (putArith_opcode ..) (by decide)
theorem Opcode.frsq (f) : Opcode.Statement (.frsq f) := Opcode.of_word (op := 0x149) rfl (putArith_opcode ..) (by decide)
theorem Opcode.fsqrt (f) : Opcode.Statement (.fsqrt f) := Opcode.of_word (op := 0x14A) rfl (putArith_opcode ..) (by decide)
theorem Opcode.fdiv (f) : Opcode.Statement (.fdiv f) := Opcode.of_word (op := 0x14B) rfl (putArith_opcode ..) (by decide)
theorem Opcode.frnd (f) : Opcode.Statement (.frnd f) := Opcode.of_word (op := 0x14C) rfl (putArith_opcode ..) (by decide)
theorem Opcode.fclass (f) : Opcode.Statement (.fclass f) := Opcode.of_word (op := 0x14D) rfl (putArith_opcode ..) (by decide)
theorem Opcode.fscale (f) : Opcode.Statement (.fscale f) := Opcode.of_word (op := 0x14E) rfl (putArith_opcode ..) (by decide)
theorem Opcode.frexp (f) : Opcode.Statement (.frexp f) := Opcode.of_word (op := 0x14F) rfl (putArith_opcode ..) (by decide)
theorem Opcode.pkadd (f) : Opcode.Statement (.pkadd f) := Opcode.of_word (op := 0x150) rfl (putArith_opcode ..) (by decide)
theorem Opcode.pkmul (f) : Opcode.Statement (.pkmul f) := Opcode.of_word (op := 0x151) rfl (putArith_opcode ..) (by decide)
theorem Opcode.pkfma (f) : Opcode.Statement (.pkfma f) := Opcode.of_word (op := 0x152) rfl (putArith_opcode ..) (by decide)
theorem Opcode.fchkTest (f) : Opcode.Statement (.fchkTest f) := Opcode.of_word (op := 0x153) rfl (putArith_opcode ..) (by decide)
theorem Opcode.fchkTrap (f) : Opcode.Statement (.fchkTrap f) := Opcode.of_word (op := 0x153) rfl (putArith_opcode ..) (by decide)
theorem Opcode.fpmode (f) : Opcode.Statement (.fpmode f) := Opcode.of_word (op := 0x154) rfl (putArith_opcode ..) (by decide)
theorem Opcode.fpmodeImm (f) : Opcode.Statement (.fpmodeImm f) := Opcode.of_word (op := 0x154) rfl (putI_opcode ..) (by decide)
theorem Opcode.fpmodeGet (f) : Opcode.Statement (.fpmodeGet f) := Opcode.of_word (op := 0x154) rfl (putArith_opcode ..) (by decide)
theorem Opcode.dadd (f) : Opcode.Statement (.dadd f) := Opcode.of_word (op := 0x180) rfl (putArith_opcode ..) (by decide)
theorem Opcode.dmul (f) : Opcode.Statement (.dmul f) := Opcode.of_word (op := 0x181) rfl (putArith_opcode ..) (by decide)
theorem Opcode.dfma (f) : Opcode.Statement (.dfma f) := Opcode.of_word (op := 0x182) rfl (putArith_opcode ..) (by decide)
theorem Opcode.dsetp (f) : Opcode.Statement (.dsetp f) := Opcode.of_word (op := 0x183) rfl (putArith_opcode ..) (by decide)
theorem Opcode.fex2 (f) : Opcode.Statement (.fex2 f) := Opcode.of_word (op := 0x188) rfl (putArith_opcode ..) (by decide)
theorem Opcode.flg2 (f) : Opcode.Statement (.flg2 f) := Opcode.of_word (op := 0x189) rfl (putArith_opcode ..) (by decide)
theorem Opcode.fsin (f) : Opcode.Statement (.fsin f) := Opcode.of_word (op := 0x18A) rfl (putArith_opcode ..) (by decide)
theorem Opcode.fcos (f) : Opcode.Statement (.fcos f) := Opcode.of_word (op := 0x18B) rfl (putArith_opcode ..) (by decide)
theorem Opcode.tmv (f) : Opcode.Statement (.tmv f) := Opcode.of_word (op := 0x190) rfl (putTmv_opcode ..) (by decide)
theorem Opcode.cvt (f) : Opcode.Statement (.cvt f) := Opcode.of_word (op := 0x1C0) rfl (putArith_opcode ..) (by decide)
theorem Opcode.cvtn (f) : Opcode.Statement (.cvtn f) := Opcode.of_word (op := 0x1C1) rfl (putNarrow_opcode ..) (by decide)
theorem Opcode.cvtw (f) : Opcode.Statement (.cvtw f) := Opcode.of_word (op := 0x1C2) rfl (putNarrow_opcode ..) (by decide)
theorem Opcode.pack (f) : Opcode.Statement (.pack f) := Opcode.of_word (op := 0x1C3) rfl (putArith_opcode ..) (by decide)
theorem Opcode.unpack (f) : Opcode.Statement (.unpack f) := Opcode.of_word (op := 0x1C4) rfl (putArith_opcode ..) (by decide)
theorem Opcode.ld (f) : Opcode.Statement (.ld f) := Opcode.of_word (op := 0x200) rfl (putMem_opcode ..) (by decide)
theorem Opcode.st (f) : Opcode.Statement (.st f) := Opcode.of_word (op := 0x201) rfl (putMem_opcode ..) (by decide)
theorem Opcode.ldk (f) : Opcode.Statement (.ldk f) := Opcode.of_word (op := 0x202) rfl (putMem_opcode ..) (by decide)
theorem Opcode.atomAdd (f) : Opcode.Statement (.atomAdd f) := Opcode.of_word (op := 0x240) rfl (putAtom_opcode ..) (by decide)
theorem Opcode.atomMin (f) : Opcode.Statement (.atomMin f) := Opcode.of_word (op := 0x241) rfl (putAtom_opcode ..) (by decide)
theorem Opcode.atomMax (f) : Opcode.Statement (.atomMax f) := Opcode.of_word (op := 0x242) rfl (putAtom_opcode ..) (by decide)
theorem Opcode.atomAnd (f) : Opcode.Statement (.atomAnd f) := Opcode.of_word (op := 0x243) rfl (putAtom_opcode ..) (by decide)
theorem Opcode.atomOr (f) : Opcode.Statement (.atomOr f) := Opcode.of_word (op := 0x244) rfl (putAtom_opcode ..) (by decide)
theorem Opcode.atomXor (f) : Opcode.Statement (.atomXor f) := Opcode.of_word (op := 0x245) rfl (putAtom_opcode ..) (by decide)
theorem Opcode.atomExch (f) : Opcode.Statement (.atomExch f) := Opcode.of_word (op := 0x246) rfl (putAtom_opcode ..) (by decide)
theorem Opcode.atomCas (f) : Opcode.Statement (.atomCas f) := Opcode.of_word (op := 0x247) rfl (putAtom_opcode ..) (by decide)
theorem Opcode.atomFadd (f) : Opcode.Statement (.atomFadd f) := Opcode.of_word (op := 0x248) rfl (putAtom_opcode ..) (by decide)
theorem Opcode.atomFmin (f) : Opcode.Statement (.atomFmin f) := Opcode.of_word (op := 0x249) rfl (putAtom_opcode ..) (by decide)
theorem Opcode.atomFmax (f) : Opcode.Statement (.atomFmax f) := Opcode.of_word (op := 0x24A) rfl (putAtom_opcode ..) (by decide)
theorem Opcode.redAdd (f) : Opcode.Statement (.redAdd f) := Opcode.of_word (op := 0x250) rfl (putAtom_opcode ..) (by decide)
theorem Opcode.redMin (f) : Opcode.Statement (.redMin f) := Opcode.of_word (op := 0x251) rfl (putAtom_opcode ..) (by decide)
theorem Opcode.redMax (f) : Opcode.Statement (.redMax f) := Opcode.of_word (op := 0x252) rfl (putAtom_opcode ..) (by decide)
theorem Opcode.redAnd (f) : Opcode.Statement (.redAnd f) := Opcode.of_word (op := 0x253) rfl (putAtom_opcode ..) (by decide)
theorem Opcode.redOr (f) : Opcode.Statement (.redOr f) := Opcode.of_word (op := 0x254) rfl (putAtom_opcode ..) (by decide)
theorem Opcode.redXor (f) : Opcode.Statement (.redXor f) := Opcode.of_word (op := 0x255) rfl (putAtom_opcode ..) (by decide)
theorem Opcode.redFadd (f) : Opcode.Statement (.redFadd f) := Opcode.of_word (op := 0x258) rfl (putAtom_opcode ..) (by decide)
theorem Opcode.redFmin (f) : Opcode.Statement (.redFmin f) := Opcode.of_word (op := 0x259) rfl (putAtom_opcode ..) (by decide)
theorem Opcode.redFmax (f) : Opcode.Statement (.redFmax f) := Opcode.of_word (op := 0x25A) rfl (putAtom_opcode ..) (by decide)
theorem Opcode.fence (f) : Opcode.Statement (.fence f) := Opcode.of_word (op := 0x280) rfl (putAtom_opcode ..) (by decide)
theorem Opcode.fnew (f) : Opcode.Statement (.fnew f) := Opcode.of_word (op := 0x281) rfl (putSync_opcode ..) (by decide)
theorem Opcode.fput (f) : Opcode.Statement (.fput f) := Opcode.of_word (op := 0x282) rfl (putSync_opcode ..) (by decide)
theorem Opcode.fget (f) : Opcode.Statement (.fget f) := Opcode.of_word (op := 0x283) rfl (putSync_opcode ..) (by decide)
theorem Opcode.ftry (f) : Opcode.Statement (.ftry f) := Opcode.of_word (op := 0x284) rfl (putSync_opcode ..) (by decide)
theorem Opcode.lkacq (f) : Opcode.Statement (.lkacq f) := Opcode.of_word (op := 0x285) rfl (putSync_opcode ..) (by decide)
theorem Opcode.lkrel (f) : Opcode.Statement (.lkrel f) := Opcode.of_word (op := 0x286) rfl (putSync_opcode ..) (by decide)
theorem Opcode.spawn (f) : Opcode.Statement (.spawn f) := Opcode.of_word (op := 0x287) rfl (putSync_opcode ..) (by decide)
theorem Opcode.tend (f) : Opcode.Statement (.tend f) := Opcode.of_word (op := 0x288) rfl (putRaw_opcode ..) (by decide)
theorem Opcode.barInit (f) : Opcode.Statement (.barInit f) := Opcode.of_word (op := 0x289) rfl (putRaw_opcode ..) (by decide)
theorem Opcode.barArr (f) : Opcode.Statement (.barArr f) := Opcode.of_word (op := 0x28A) rfl (putRaw_opcode ..) (by decide)
theorem Opcode.barWait (f) : Opcode.Statement (.barWait f) := Opcode.of_word (op := 0x28B) rfl (putRaw_opcode ..) (by decide)
theorem Opcode.barSync (f) : Opcode.Statement (.barSync f) := Opcode.of_word (op := 0x28C) rfl (putRaw_opcode ..) (by decide)
theorem Opcode.copy (f) : Opcode.Statement (.copy f) := Opcode.of_word (op := 0x2C0) rfl (putCopy_opcode ..) (by decide)
theorem Opcode.copy2 (f) : Opcode.Statement (.copy2 f) := Opcode.of_word (op := 0x2C1) rfl (putCopy_opcode ..) (by decide)
theorem Opcode.copy3 (f) : Opcode.Statement (.copy3 f) := Opcode.of_word (op := 0x2C2) rfl (putCopy_opcode ..) (by decide)
theorem Opcode.gather (f) : Opcode.Statement (.gather f) := Opcode.of_word (op := 0x2C3) rfl (putCopy_opcode ..) (by decide)
theorem Opcode.scatter (f) : Opcode.Statement (.scatter f) := Opcode.of_word (op := 0x2C4) rfl (putCopy_opcode ..) (by decide)
theorem Opcode.prefetch (f) : Opcode.Statement (.prefetch f) := Opcode.of_word (op := 0x2C5) rfl (putRaw_opcode ..) (by decide)
theorem Opcode.cwb (f) : Opcode.Statement (.cwb f) := Opcode.of_word (op := 0x2C6) rfl (putRaw_opcode ..) (by decide)
theorem Opcode.cinv (f) : Opcode.Statement (.cinv f) := Opcode.of_word (op := 0x2C7) rfl (putRaw_opcode ..) (by decide)
theorem Opcode.mma (f) : Opcode.Statement (.mma f) := Opcode.of_word (op := 0x300) rfl (putMma_opcode ..) (by decide)
theorem Opcode.mmas (f) : Opcode.Statement (.mmas f) := Opcode.of_word (op := 0x301) rfl (putMma_opcode ..) (by decide)
theorem Opcode.ldm (f) : Opcode.Statement (.ldm f) := Opcode.of_word (op := 0x302) rfl (putLdm_opcode ..) (by decide)
theorem Opcode.stm (f) : Opcode.Statement (.stm f) := Opcode.of_word (op := 0x303) rfl (putLdm_opcode ..) (by decide)
theorem Opcode.trn (f) : Opcode.Statement (.trn f) := Opcode.of_word (op := 0x304) rfl (putArith_opcode ..) (by decide)
theorem Opcode.gaset (f) : Opcode.Statement (.gaset f) := Opcode.of_word (op := 0x340) rfl (putRaw_opcode ..) (by decide)
theorem Opcode.garow (f) : Opcode.Statement (.garow f) := Opcode.of_word (op := 0x341) rfl (putRaw_opcode ..) (by decide)
theorem Opcode.garun (f) : Opcode.Statement (.garun f) := Opcode.of_word (op := 0x342) rfl (putCopy_opcode ..) (by decide)
theorem Opcode.gaq (f) : Opcode.Statement (.gaq f) := Opcode.of_word (op := 0x343) rfl (putArith_opcode ..) (by decide)
theorem Opcode.trap (f) : Opcode.Statement (.trap f) := Opcode.of_word (op := 0x380) rfl (putI_opcode ..) (by decide)
theorem Opcode.bkpt (f) : Opcode.Statement (.bkpt f) := Opcode.of_word (op := 0x381) rfl (putRaw_opcode ..) (by decide)
theorem Opcode.eret (f) : Opcode.Statement (.eret f) := Opcode.of_word (op := 0x382) rfl (putRaw_opcode ..) (by decide)
theorem Opcode.srwRead (f) : Opcode.Statement (.srwRead f) := Opcode.of_word (op := 0x383) rfl (putRaw_opcode ..) (by decide)
theorem Opcode.srwWrite (f) : Opcode.Statement (.srwWrite f) := Opcode.of_word (op := 0x383) rfl (putRaw_opcode ..) (by decide)
theorem Opcode.capt (f) : Opcode.Statement (.capt f) := Opcode.of_word (op := 0x384) rfl (putI_opcode ..) (by decide)
theorem Opcode.jigld (f) : Opcode.Statement (.jigld f) := Opcode.of_word (op := 0x385) rfl (putRaw_opcode ..) (by decide)
theorem Opcode.jigst (f) : Opcode.Statement (.jigst f) := Opcode.of_word (op := 0x386) rfl (putRaw_opcode ..) (by decide)
theorem Opcode.drain (f) : Opcode.Statement (.drain f) := Opcode.of_word (op := 0x387) rfl (putArith_opcode ..) (by decide)
theorem Opcode.drainFree (f) : Opcode.Statement (.drainFree f) := Opcode.of_word (op := 0x387) rfl (putArith_opcode ..) (by decide)
theorem Opcode.live (f) : Opcode.Statement (.live f) := Opcode.of_word (op := 0x388) rfl (putRaw_opcode ..) (by decide)
theorem Opcode.capq (f) : Opcode.Statement (.capq f) := Opcode.of_word (op := 0x389) rfl (putRaw_opcode ..) (by decide)
theorem Opcode.pmcr (f) : Opcode.Statement (.pmcr f) := Opcode.of_word (op := 0x38A) rfl (putRaw_opcode ..) (by decide)
theorem Opcode.pmcrClr (f) : Opcode.Statement (.pmcrClr f) := Opcode.of_word (op := 0x38A) rfl (putRaw_opcode ..) (by decide)
theorem Opcode.steer (f) : Opcode.Statement (.steer f) := Opcode.of_word (op := 0x3C0) rfl (putT_opcode ..) (by decide)
theorem Opcode.merge (f) : Opcode.Statement (.merge f) := Opcode.of_word (op := 0x3C1) rfl (putT_opcode ..) (by decide)
theorem Opcode.wadv (f) : Opcode.Statement (.wadv f) := Opcode.of_word (op := 0x3C2) rfl (putT_opcode ..) (by decide)
theorem Opcode.fan (f) : Opcode.Statement (.fan f) := Opcode.of_word (op := 0x3C3) rfl (putT_opcode ..) (by decide)
theorem Opcode.tagpsh (f) : Opcode.Statement (.tagpsh f) := Opcode.of_word (op := 0x3C4) rfl (putT_opcode ..) (by decide)
theorem Opcode.tagpop (f) : Opcode.Statement (.tagpop f) := Opcode.of_word (op := 0x3C5) rfl (putT_opcode ..) (by decide)
theorem Opcode.bexit (f) : Opcode.Statement (.bexit f) := Opcode.of_word (op := 0x3C6) rfl (putT_opcode ..) (by decide)
theorem Opcode.inj (f) : Opcode.Statement (.inj f) := Opcode.of_word (op := 0x3C7) rfl (putT_opcode ..) (by decide)
theorem Opcode.unassignedWordFetch (a0) (a1) : Opcode.Statement (.unassignedWordFetch a0 a1) := Opcode.of_event rfl
theorem Opcode.contextFiring (t : TForm) : Opcode.Statement (.contextFiring t) := by
  intro ver w h hw
  have hw' : putT t.op t = w := Option.some.inj h
  subst hw'
  have h1 : firingViol t = [] := (List.append_eq_nil_iff.mp hw.1).2
  by_contra hn
  simp only [putT_opcode] at hn
  simp [firingViol, hn] at h1
theorem Opcode.tokenArrival (a0) (a1) : Opcode.Statement (.tokenArrival a0 a1) := Opcode.of_event rfl
theorem Opcode.orderQueueLoadIssue (a0) : Opcode.Statement (.orderQueueLoadIssue a0) := Opcode.of_event rfl
theorem Opcode.iterationCommit (a0) : Opcode.Statement (.iterationCommit a0) := Opcode.of_event rfl
theorem Opcode.wadvAdmit (a0) (a1) : Opcode.Statement (.wadvAdmit a0 a1) := Opcode.of_event rfl
theorem Opcode.drainComplete (a0) : Opcode.Statement (.drainComplete a0) := Opcode.of_event rfl
theorem Opcode.latticeWatchdog (a0) : Opcode.Statement (.latticeWatchdog a0) := Opcode.of_event rfl
theorem Opcode.placerDone (a0) (a1) : Opcode.Statement (.placerDone a0 a1) := Opcode.of_event rfl
theorem Opcode.blockEntry (f) : Opcode.Statement (.blockEntry f) := Opcode.of_word (op := 0x3FF) rfl (putHdr_opcode ..) (by decide)
theorem Opcode.jigldComplete (a0) : Opcode.Statement (.jigldComplete a0) := Opcode.of_event rfl
theorem Opcode.adoptAnswer (a0) (a1) : Opcode.Statement (.adoptAnswer a0 a1) := Opcode.of_event rfl
theorem Opcode.tailWrite (a0) (a1) : Opcode.Statement (.tailWrite a0 a1) := Opcode.of_event rfl
theorem Opcode.launchAccept (a0) : Opcode.Statement (.launchAccept a0) := Opcode.of_event rfl
theorem Opcode.taskPlacement (a0) (a1) : Opcode.Statement (.taskPlacement a0 a1) := Opcode.of_event rfl
theorem Opcode.dispatchHeadTimeout (a0) (a1) : Opcode.Statement (.dispatchHeadTimeout a0 a1) := Opcode.of_event rfl
theorem Opcode.zalnaLaunchPacket (a0) (a1) (a2) (a3) (a4) (a5) : Opcode.Statement (.zalnaLaunchPacket a0 a1 a2 a3 a4 a5) := Opcode.of_event rfl
theorem Opcode.timeSliceEnd (a0) : Opcode.Statement (.timeSliceEnd a0) := Opcode.of_event rfl
theorem Opcode.hostPreemptRequest (a0) : Opcode.Statement (.hostPreemptRequest a0) := Opcode.of_event rfl
theorem Opcode.vdSwitchRestore (a0) : Opcode.Statement (.vdSwitchRestore a0) := Opcode.of_event rfl
theorem Opcode.copyChunk (a0) (a1) : Opcode.Statement (.copyChunk a0 a1) := Opcode.of_event rfl
theorem Opcode.gaeRow (a0) : Opcode.Statement (.gaeRow a0) := Opcode.of_event rfl
theorem Opcode.engctlResume (a0) (a1) (a2) (a3) : Opcode.Statement (.engctlResume a0 a1 a2 a3) := Opcode.of_event rfl
theorem Opcode.engctlAbort (a0) (a1) (a2) (a3) : Opcode.Statement (.engctlAbort a0 a1 a2 a3) := Opcode.of_event rfl
theorem Opcode.tableWalk (a0) (a1) (a2) (a3) : Opcode.Statement (.tableWalk a0 a1 a2 a3) := Opcode.of_event rfl
theorem Opcode.pageFaultService (a0) (a1) (a2) (a3) : Opcode.Statement (.pageFaultService a0 a1 a2 a3) := Opcode.of_event rfl
theorem Opcode.presp (a0) (a1) : Opcode.Statement (.presp a0 a1) := Opcode.of_event rfl
theorem Opcode.priResponse (a0) (a1) (a2) (a3) (a4) (a5) : Opcode.Statement (.priResponse a0 a1 a2 a3 a4 a5) := Opcode.of_event rfl
theorem Opcode.invalidateStart (a0) (a1) (a2) : Opcode.Statement (.invalidateStart a0 a1 a2) := Opcode.of_event rfl
theorem Opcode.invalidationComplete (a0) : Opcode.Statement (.invalidationComplete a0) := Opcode.of_event rfl
theorem Opcode.dlheadWrite (a0) (a1) : Opcode.Statement (.dlheadWrite a0 a1) := Opcode.of_event rfl
theorem Opcode.dirtyLogFull (a0) : Opcode.Statement (.dirtyLogFull a0) := Opcode.of_event rfl
theorem Opcode.parkGrowthHw (a0) (a1) (a2) : Opcode.Statement (.parkGrowthHw a0 a1 a2) := Opcode.of_event rfl
theorem Opcode.pkgrowGrant (a0) (a1) : Opcode.Statement (.pkgrowGrant a0 a1) := Opcode.of_event rfl
theorem Opcode.pkgrowRefuse (a0) (a1) : Opcode.Statement (.pkgrowRefuse a0 a1) := Opcode.of_event rfl
theorem Opcode.eventQueueRoom (a0) : Opcode.Statement (.eventQueueRoom a0) := Opcode.of_event rfl
theorem Opcode.vdCreate (a0) (a1) : Opcode.Statement (.vdCreate a0 a1) := Opcode.of_event rfl
theorem Opcode.vdDisable (a0) (a1) : Opcode.Statement (.vdDisable a0 a1) := Opcode.of_event rfl
theorem Opcode.vdreset (a0) : Opcode.Statement (.vdreset a0) := Opcode.of_event rfl
theorem Opcode.functionLevelReset (a0) : Opcode.Statement (.functionLevelReset a0) := Opcode.of_event rfl
theorem Opcode.wake (a0) : Opcode.Statement (.wake a0) := Opcode.of_event rfl
theorem Opcode.cxlMemWrite (a0) (a1) (a2) : Opcode.Statement (.cxlMemWrite a0 a1 a2) := Opcode.of_event rfl
theorem Opcode.cxlMemRead (a0) (a1) (a2) : Opcode.Statement (.cxlMemRead a0 a1 a2) := Opcode.of_event rfl
theorem Opcode.clamp (a0) : Opcode.Statement (.clamp a0) := Opcode.of_event rfl
theorem Opcode.clampackConfirm (a0) (a1) : Opcode.Statement (.clampackConfirm a0 a1) := Opcode.of_event rfl
theorem Opcode.clampackDecline (a0) (a1) : Opcode.Statement (.clampackDecline a0 a1) := Opcode.of_event rfl
theorem Opcode.wakeComplete (a0) (a1) (a2) : Opcode.Statement (.wakeComplete a0 a1 a2) := Opcode.of_event rfl
theorem Opcode.w2Restore (a0) (a1) : Opcode.Statement (.w2Restore a0 a1) := Opcode.of_event rfl
theorem Opcode.triageFence (a0) (a1) : Opcode.Statement (.triageFence a0 a1) := Opcode.of_event rfl
theorem Opcode.triageRetire (a0) (a1) : Opcode.Statement (.triageRetire a0 a1) := Opcode.of_event rfl
theorem Opcode.pcreate (a0) (a1) (a2) (a3) : Opcode.Statement (.pcreate a0 a1 a2 a3) := Opcode.of_event rfl
theorem Opcode.pdestroy (a0) : Opcode.Statement (.pdestroy a0) := Opcode.of_event rfl
theorem Opcode.capmove (a0) (a1) (a2) : Opcode.Statement (.capmove a0 a1 a2) := Opcode.of_event rfl
theorem Opcode.capmoveConfirm (a0) : Opcode.Statement (.capmoveConfirm a0) := Opcode.of_event rfl
theorem Opcode.capmoveTimeout : Opcode.Statement (.capmoveTimeout) := Opcode.of_event rfl
theorem Opcode.attest (a0) (a1) : Opcode.Statement (.attest a0 a1) := Opcode.of_event rfl
theorem Opcode.fwstage (a0) (a1) (a2) : Opcode.Statement (.fwstage a0 a1 a2) := Opcode.of_event rfl
theorem Opcode.errlog (a0) (a1) (a2) : Opcode.Statement (.errlog a0 a1 a2) := Opcode.of_event rfl
theorem Opcode.pvoteWrite (a0) (a1) : Opcode.Statement (.pvoteWrite a0 a1) := Opcode.of_event rfl
theorem Opcode.powerLimitStep : Opcode.Statement (.powerLimitStep) := Opcode.of_event rfl
theorem Opcode.powerLimitRelax : Opcode.Statement (.powerLimitRelax) := Opcode.of_event rfl
theorem Opcode.thermalStage (a0) (a1) (a2) : Opcode.Statement (.thermalStage a0 a1 a2) := Opcode.of_event rfl
theorem Opcode.railDroop (a0) (a1) : Opcode.Statement (.railDroop a0 a1) := Opcode.of_event rfl
theorem Opcode.railShut (a0) (a1) : Opcode.Statement (.railShut a0 a1) := Opcode.of_event rfl
theorem Opcode.railRestart (a0) (a1) (a2) : Opcode.Statement (.railRestart a0 a1 a2) := Opcode.of_event rfl
theorem Opcode.dieLost (a0) : Opcode.Statement (.dieLost a0) := Opcode.of_event rfl
theorem Opcode.flitCrcError (a0) (a1) : Opcode.Statement (.flitCrcError a0 a1) := Opcode.of_event rfl
theorem Opcode.boundaryLaneError (a0) (a1) (a2) : Opcode.Statement (.boundaryLaneError a0 a1 a2) := Opcode.of_event rfl
theorem Opcode.zalnaLaneError (a0) (a1) (a2) : Opcode.Statement (.zalnaLaneError a0 a1 a2) := Opcode.of_event rfl
theorem Opcode.channelFault (a0) (a1) (a2) : Opcode.Statement (.channelFault a0 a1 a2) := Opcode.of_event rfl
theorem Opcode.farChannelLost (a0) : Opcode.Statement (.farChannelLost a0) := Opcode.of_event rfl
theorem Opcode.dataErrorDetected (a0) (a1) (a2) : Opcode.Statement (.dataErrorDetected a0 a1 a2) := Opcode.of_event rfl
theorem Opcode.patrolRead (a0) (a1) (a2) : Opcode.Statement (.patrolRead a0 a1 a2) := Opcode.of_event rfl
theorem Opcode.powerOnReset : Opcode.Statement (.powerOnReset) := Opcode.of_event rfl
theorem Opcode.fwHealthTimeout : Opcode.Statement (.fwHealthTimeout) := Opcode.of_event rfl
theorem Opcode.registerWrite (a0) (a1) (a2) : Opcode.Statement (.registerWrite a0 a1 a2) := Opcode.of_event rfl
theorem Opcode.railVoltageRecovered (a0) (a1) : Opcode.Statement (.railVoltageRecovered a0 a1) := Opcode.of_event rfl
theorem Opcode.fwHealthyReport : Opcode.Statement (.fwHealthyReport) := Opcode.of_event rfl

end Sys2Proof.Laws
end

