-- ==== Sys2Proof/Laws/Results.lean ====
section
/-! SUPPORT. The results of an instruction that writes one destination: from the equation of its meaning to what claims say of it. -/

namespace Sys2Proof.Machine

open Sys2Proof.Claims

/-- The key of the mark of a lost value that writing a destination's word clears, if it clears any (17 R433). -/
def lostKey (o : Opnd) (j l : Nat) : Option Nat :=
  match o with
  | .v n => some (32 * (n.toNat + j) + l)
  | .k n => some (lostK (n.toNat + j))
  | .p n => if j = 0 ∧ n ≠ 7 then some (lostP n.toNat l) else none
  | _ => none

/-- A mark of a lost value after a destination's word is written. -/
theorem lost_dstWord (w : Warp) (o : Opnd) (j l : Nat) (x : Word) {m : Nat} (h : lostKey o j l ≠ some m) :
    Store.get false (dstWord w o j l x).lostRegs m = Store.get false w.lostRegs m := by
  cases o with
  | v n => simp [lostKey] at h; simp [dstWord, setV, Store.get_set, Ne.symm h]
  | k n => simp [lostKey] at h; simp [dstWord, setK, Store.get_set, Ne.symm h]
  | p n =>
    simp only [dstWord]
    split
    · rename_i hj
      simp only [setP]
      split
      · rfl
      · rename_i h7
        have h7' : n ≠ 7 := fun e => h7 (by rw [e]; rfl)
        subst hj
        simp only [lostKey, h7', ne_eq, not_false_eq_true, and_self, if_true, Option.some.injEq] at h
        simp [Store.get_set, Ne.symm h]
    · rfl
  | vz => rfl
  | bad c => rfl

/-- A mark of a lost value after a result is written, where no word of it stands at the mark's key. -/
theorem lost_writeLanes (c : Ctx) (n : Nat) (d : Opnd) (f : Nat → DWord) {m : Nat}
    (h : ∀ x j, x < 32 → inMask c.g x = true → j < (if n = 2 then 2 else 1) → lostKey d j x ≠ some m) :
    Store.get false (writeLanes c n d f).lostRegs m = Store.get false c.w.lostRegs m := by
  unfold writeLanes eachLane
  refine foldl_keeps_mem (fun w : Warp => Store.get false w.lostRegs m) _ _ _ (fun w x hx => ?_)
  obtain ⟨hx32, hxm⟩ := mem_maskLanes.mp hx
  have key := fun j => h x j hx32 hxm
  simp only [dstN, dst64, dst32]
  split
  · rename_i h2
    rw [lost_dstWord _ _ _ _ _ (key 1 (by simp [h2])), lost_dstWord _ _ _ _ _ (key 0 (by simp [h2]))]
  · rename_i h2
    rw [lost_dstWord _ _ _ _ _ (key 0 (by simp [h2]))]

/-- Registers that a result does not write keep their marks. -/
theorem lostV_writeLanes (c : Ctx) (n : Nat) (d : Opnd) (f : Nat → DWord) {r l : Nat} (hr : r < 256) (hl : l < 32)
    (hw : writesReg c.g d (if n = 2 then 2 else 1) r l = false) :
    Store.get false (writeLanes c n d f).lostRegs (32 * r + l) = Store.get false c.w.lostRegs (32 * r + l) := by
  refine lost_writeLanes c n d f (fun x j hx hm hj => ?_)
  cases d with
  | v q =>
    simp only [writesReg, Bool.and_eq_false_iff, decide_eq_false_iff_not] at hw
    simp only [lostKey, ne_eq, Option.some.injEq]
    intro e
    obtain ⟨e1, rfl⟩ : q.toNat + j = r ∧ x = l := by omega
    rcases hw with hw | hw
    · simp [hm] at hw
    · exact hw ⟨by omega, by omega⟩
  | k q => simp only [lostKey, lostK, ne_eq, Option.some.injEq]; omega
  | p q =>
    simp only [lostKey, lostP]
    split <;> simp
    omega
  | vz => simp [lostKey]
  | bad q => simp [lostKey]

/-- Predicates that a result does not write keep their marks. -/
theorem lostP_writeLanes (c : Ctx) (n : Nat) (d : Opnd) (f : Nat → DWord) {p l : Nat} (hp : p < 8) (hl : l < 32) (hn : n = 1 ∨ n = 2)
    (hw : writesPred c.g d p l = false) :
    Store.get false (writeLanes c n d f).lostRegs (lostP p l) = Store.get false c.w.lostRegs (lostP p l) := by
  refine lost_writeLanes c n d f (fun x j hx hm hj => ?_)
  have hj2 : j < 2 := by rcases hn with rfl | rfl <;> simp at hj <;> omega
  cases d with
  | v q => have := q.isLt; simp only [lostKey, lostP, ne_eq, Option.some.injEq]; omega
  | k q => have := q.isLt; simp only [lostKey, lostK, lostP, ne_eq, Option.some.injEq]; omega
  | p q =>
    simp only [writesPred, Bool.and_eq_false_iff, decide_eq_false_iff_not] at hw
    simp only [lostKey, lostP]
    split
    · rename_i h7
      simp only [ne_eq, Option.some.injEq]
      intro e
      obtain ⟨e1, rfl⟩ : q.toNat = p ∧ x = l := by omega
      rcases hw with hw | hw
      · simp [hm] at hw
      · exact hw ⟨e1.symm, fun e7 => h7.2 (BitVec.eq_of_toNat_eq (by simp [e1, e7]))⟩
    · simp
  | vz => simp [lostKey]
  | bad q => simp [lostKey]

/-- A result that goes to no uniform register leaves their marks. -/
theorem lostK_writeLanes (c : Ctx) (n : Nat) (d : Opnd) (f : Nat → DWord) {m : Nat} (hm : m < 64) (hn : n = 1 ∨ n = 2)
    (hd : ∀ q, d ≠ .k q) : Store.get false (writeLanes c n d f).lostRegs (lostK m) = Store.get false c.w.lostRegs (lostK m) := by
  refine lost_writeLanes c n d f (fun x j hx _ hj => ?_)
  have hj2 : j < 2 := by rcases hn with rfl | rfl <;> simp at hj <;> omega
  cases d with
  | v q => have := q.isLt; simp only [lostKey, lostK, ne_eq, Option.some.injEq]; omega
  | k q => exact absurd rfl (hd q)
  | p q => simp only [lostKey, lostK, lostP]; split <;> simp; omega
  | vz => simp [lostKey]
  | bad q => simp [lostKey]

/-- What writing a result of one or two registers leaves in the thread registers. -/
theorem regResult_writeLanes (c : Ctx) {n : Nat} (hn : n = 1 ∨ n = 2) (d : Opnd) (f x : Nat → DWord)
    (hx : ∀ l, l < 32 → inMask c.g l = true → f l = x l) :
    RegResult c.w (retire (writeLanes c n d f)) c.g d n (wordsOf x) where
  regs := by
    rintro q j l rfl hj hl hm
    have hv : getV (retire (writeLanes c n (.v q) f)) (q.toNat + j) l = getV (writeLanes c n (.v q) f) (q.toNat + j) l := rfl
    rw [hv, getV_writeLanes _ _ _ _ hl]
    rcases hn with rfl | rfl
    · obtain rfl : j = 0 := by omega
      simp [hm, wordsOf, hx l hl hm]
    · rcases (by omega : j = 0 ∨ j = 1) with rfl | rfl <;> simp [hm, wordsOf, hx l hl hm]
  others := by
    intro r l hr hl hw
    have e : (if n = 2 then 2 else 1) = n := by rcases hn with rfl | rfl <;> rfl
    refine ⟨?_, lostV_writeLanes c n d f hr hl (by rw [e]; exact hw)⟩
    have hv : getV (retire (writeLanes c n d f)) r l = getV (writeLanes c n d f) r l := rfl
    rw [hv, getV_writeLanes _ _ _ _ hl]
    cases d with
    | v q =>
      simp only [writesReg, Bool.and_eq_false_iff, decide_eq_false_iff_not] at hw
      rcases hw with hw | hw
      · simp [hw]
      · simp only []
        rw [if_neg (by omega), if_neg (by omega)]
    | k q => rfl
    | p q => rfl
    | vz => rfl
    | bad q => rfl

/-- What writing a result leaves in the predicates. -/
theorem predResult_writeLanes (c : Ctx) {n : Nat} (hn : n = 1 ∨ n = 2) (d : Opnd) (hd : ∀ q, d ≠ .k q) (f x : Nat → DWord)
    (hx : ∀ l, l < 32 → inMask c.g l = true → f l = x l) :
    PredResult c.w (retire (writeLanes c n d f)) c.g d (wordsOf x) where
  preds := by
    rintro q l rfl h7 hl hm
    have hv : predMask (retire (writeLanes c n (.p q) f)) q.toNat = predMask (writeLanes c n (.p q) f) q.toNat := rfl
    have h7' : q.toNat ≠ 7 := fun e => h7 (BitVec.eq_of_toNat_eq e)
    rw [hv, inMask_writeLanes _ _ _ _ hl]
    simp [hm, h7', wordsOf, hx l hl hm]
  others := by
    intro p l hp hl hw
    refine ⟨?_, lostP_writeLanes c n d f hp hl hn hw⟩
    have hv : predMask (retire (writeLanes c n d f)) p = predMask (writeLanes c n d f) p := rfl
    rw [hv, inMask_writeLanes _ _ _ _ hl]
    cases d with
    | p q =>
      simp only [writesPred, Bool.and_eq_false_iff, decide_eq_false_iff_not] at hw
      rcases hw with hw | hw
      · simp [hw]
      · simp only []
        rw [if_neg (fun h => hw h.2)]
    | k q => rfl
    | v q => rfl
    | vz => rfl
    | bad q => rfl
  uniform := fun m hm => lostK_writeLanes c n d f hm hn hd

/-- Writing a result changes registers and predicates alone. -/
theorem onlyRegs_writeLanes (c : Ctx) (n : Nat) (d : Opnd) (f : Nat → DWord) (hd : ∀ q, d ≠ .k q) :
    OnlyRegs c.w (retire (writeLanes c n d f)) := by
  have key : writeLanes c n d f = { c.w with
      regs := (writeLanes c n d f).regs, preds := (writeLanes c n d f).preds, lostRegs := (writeLanes c n d f).lostRegs } := by
    have h : ({ writeLanes c n d f with regs := [], preds := [], lostRegs := [] } : Warp)
        = { c.w with regs := [], preds := [], lostRegs := [] } := by
      refine writeLanes_keeps (fun w => ({ w with regs := [], preds := [], lostRegs := [] } : Warp)) c n d f (fun w j l x => ?_)
      cases d with
      | k q => exact absurd rfl (hd q)
      | v q => rfl
      | p q =>
        simp only [dstWord]
        split
        · simp only [setP]; split <;> rfl
        · rfl
      | vz => rfl
      | bad q => rfl
    have h2 : writeLanes c n d f = { ({ writeLanes c n d f with regs := [], preds := [], lostRegs := [] } : Warp) with
        regs := (writeLanes c n d f).regs, preds := (writeLanes c n d f).preds, lostRegs := (writeLanes c n d f).lostRegs } := rfl
    rw [h] at h2
    exact h2
  unfold OnlyRegs
  conv_lhs => rw [retire, key]
  rfl

/-- An instruction whose meaning writes one destination of one or two registers computes the value that it writes. -/
theorem computes_of_warp {s : State} {i : Instr} {c : Ctx} {d : Opnd} {n : Nat} {f : Ctx → Nat → DWord} {x : Nat → DWord}
    (he : exec i s = warpInstr i s (fun c => .warp (writeLanes c n d (f c)))) (hr : Runs s i c) (hn : n = 1 ∨ n = 2)
    (hd : ∀ q, d ≠ .k q) (hx : ∀ l, l < 32 → inMask c.g l = true → f c l = x l) : Computes s i c d n x := by
  refine ⟨retire (writeLanes c n d (f c)), ?_, regResult_writeLanes c hn d _ x hx, predResult_writeLanes c hn d hd _ x hx,
    onlyRegs_writeLanes c n d _ hd⟩
  rw [he, warpInstr_passes _ hr.1 hr.2]
  rfl

end Sys2Proof.Machine
end

