-- ==== Sys2Proof/Tests/Slice0.lean ====
section
/-! SUPPORT. The model's own tests: words of the text and what each family does on small states, one step each; a witness for the hypotheses of
every statement; and an ill-formed word or term for each check of well-formedness. -/
namespace Sys2Proof.Tests

set_option Elab.async false

open Sys2Proof Sys2Proof.Machine Sys2Proof.Claims

/-! Helpers. -/

/-- The warp after the step that runs a word, from reset with a word loaded and its warp changed by `f`. -/
def after (f : Warp → Warp) (w : Nat) : Option Warp :=
  match step (modWarp (State.reset.withFetchWord 64 w) loadedKey 0 f) with
  | .next t => (getTask t loadedKey).bind (fun x => getWarp x 0)
  | _ => none

/-- A thread register of a lane. -/
def reg (o : Option Warp) (r l : Nat) : Option Word := o.map (fun w => getV w r l)

/-- A warp current on core 0, changed by `f`. -/
def stage (f : Warp → Warp) : State :=
  { modWarp (loadTask State.reset) loadedKey 0 f with cur := some { task := loadedKey, warp := 0 } }

/-- Whether the current warp is about to run an instruction that passes its checks. -/
def runsOk (s : State) (i : Instr) : Bool :=
  match curCtx s i with
  | some c => decide (preCheck s i c = none)
  | none => false

def wordRuns (s : State) (w : Nat) : Bool :=
  match decodeTableWord 64 w with
  | some i => runsOk s i
  | none => false

/-- Whether the context of a loaded word is the one that its cell fires, and the step answers a next state. -/
def fires (w : Nat) : Bool :=
  let s := State.reset.withFetchWord 64 w
  decide (s.agenda = [.fire 0 0 0]) && coreRuns s 0 &&
    (cellPick s 0 0).any (fun f => decide (f.node = nodeOf 0 0 ∧ f.t = getT (BitVec.ofNat 64 w)) && latticeRuns s (keyVd f.k)) &&
    match step s with
    | .next _ => true
    | _ => false

theorem runs_of_runsOk {s : State} {i : Instr} (h : runsOk s i = true) : ∃ c, Runs s i c := by
  unfold runsOk at h
  split at h
  · exact ⟨_, ‹_›, of_decide_eq_true h⟩
  · cases h

/-- Whether the current warp is about to run an instruction that passes its checks, and its context has a property. -/
def runsWith (s : State) (i : Instr) (p : Ctx → Bool) : Bool :=
  match curCtx s i with
  | some c => decide (preCheck s i c = none) && p c
  | none => false

theorem runs_of_runsWith {s : State} {i : Instr} {p : Ctx → Bool} (h : runsWith s i p = true) : ∃ c, Runs s i c ∧ p c = true := by
  unfold runsWith at h
  split at h
  · obtain ⟨h1, h2⟩ := Bool.and_eq_true_iff.mp h
    exact ⟨_, ⟨‹_›, of_decide_eq_true h1⟩, h2⟩
  · cases h

/-- Guards, and forms with a guard and few operands. -/
def g7 : Guard := ⟨false, 7⟩
def g0 : Guard := ⟨false, 0⟩

/-- An operand field that is not used. -/
def un : Opnd := .v 0
def arith (d a b c : Opnd) (sub : BitVec 4) : RArith := ⟨g7, d, a, b, c, .dflt, .rn, false, false, sub⟩
def raw (d a b c : Opnd) (opm : BitVec 12) : RRaw := ⟨g7, d, a, b, c, opm⟩
def sync (d a b c : Opnd) (sp : Space) (var : BitVec 6) : RSync := ⟨g7, d, a, b, c, 0, sp, var⟩

/-- A warp with registers set in lane 0, and one with `p0` true in its low lanes. -/
def withRegs (l : List (Nat × Word)) (w : Warp) : Warp := l.foldl (fun w e => setV w e.1 0 e.2) w
def lowHalf (w : Warp) : Warp := { w with preds := [(0, 0xFFFF)] }

/-- The staged state with its task changed. -/
def stageT (f : Task → Task) : State :=
  let s := stage id
  match getTask s loadedKey with
  | some t => setTask s loadedKey (f t)
  | none => s

/-- Whether a step answers a next state with a property. -/
def nextWith (o : Host.Outcome State Fault Refusal) (p : State → Bool) : Bool :=
  match o with
  | .next t => p t
  | _ => false

/-- The warp after the instruction. -/
def warpAfter (s : State) (i : Instr) : Option Warp :=
  match exec i s with
  | .next t => warpOf t loadedKey 0
  | _ => none

/-! One word of each instruction, which the warp is about to run. -/

def wordsInt : List Nat := [
    0x1c0003fc010000, 0x1c0000000c0005, 0x5c002080020000, 0x5c4020000c0005, 0x9c400040400000, 0xdc800000400000,
    0x11c2043fc010000, 0x11ffc20000c0005, 0x15d07fc80024000, 0x19c000041048000, 0x1dc202023fc8000, 0x21c204080000000,
    0x25c4023fc010000, 0x29d042080004000, 0x29ffc40000c0005, 0x2dc400080000000, 0x2dc0040000c0005, 0x31ffc2000024000,
    0x35c000000000000, 0x39c804080800000]

theorem test_runs_Int : wordsInt.all (wordRuns (stage id)) = true := by decide +kernel

def wordsLogic : List Nat := [
    0x101c208000000000, 0x101c4020000c0005, 0x105ffc2080004000, 0x105c2020000c0005, 0x109c202000000000, 0x109d0420000c0005,
    0x10dc004000000000, 0x111c002080000000, 0x111c0020000c0005, 0x115c0083fc218000, 0x119c810420030000, 0x119c8104000c0005,
    0x11dc204080000000, 0x11dc2104000c0005, 0x121c400040000000, 0x121d0504000c0005, 0x125ffc23fc034000, 0x125c0104000c0005,
    0x129c002020030000, 0x12dc404020010000, 0x131c410400220000, 0x135ffc0000004000, 0x139ffc2000024000, 0x13dc004000000000,
    0x141c802000020000, 0x145c2000800000f0]

theorem test_runs_Logic : wordsLogic.all (wordRuns (stage id)) = true := by decide +kernel

def wordsMove : List Nat := [
    0x201c83fc20220000, 0x205c404000009000, 0x209ffffd04434000, 0x20dc400000000000, 0x211c4000000c0005, 0x215c202000004000,
    0x215c8000000c0005, 0x219c002000020000, 0x21dc000040000014, 0x221c200000000008, 0x225c000000000000]

theorem test_runs_Move : wordsMove.all (wordRuns (stage id)) = true := by decide +kernel

def wordsControl : List Nat := [
    0x301c0000000c0002, 0x305c000020010000, 0x309c0000000c0002, 0x30dc002000020000, 0x311c000000000000, 0x315c000000000000,
    0x319c000000000000]

theorem test_runs_Control : wordsControl.all (wordRuns (stage id)) = true := by decide +kernel

def wordsWarp : List Nat := [
    0x401c000000000000, 0x405c002040420000, 0x409c404000000000, 0x40dc400000000000, 0x411c810440020000, 0x415c000000000000,
    0x419c000000000000]

theorem test_runs_Warp : wordsWarp.all (wordRuns (stage id)) = true := by decide +kernel

def wordsFloat : List Nat := [
    0x501ffc0104014000, 0x501c4020000c0005, 0x505c000000000000, 0x509c03fc80020000, 0x509d0420000c0005, 0x50dd040000804000,
    0x511c010424000000, 0x511c0020000c0005, 0x515ffc8020014000, 0x515c2040000c0005, 0x519c202043fc8000, 0x51dc402003fc8000,
    0x521c008000000000, 0x525c800000000000, 0x529c004000000000, 0x52dffc4040004000, 0x531c400000000000, 0x535c400000000000,
    0x539c2043fc010000, 0x53dffc8000004000, 0x541d044040004000, 0x545c402000020000, 0x549c408040000000, 0x54dc808000000000,
    0x54dc010400020004, 0x551c200000000000, 0x551c000000000004, 0x551ffc00000c0005]

theorem test_runs_Float : wordsFloat.all (wordRuns (stage id)) = true := by decide +kernel

def wordsDouble : List Nat := [
    0x601c83fc00020000, 0x605c000020010000, 0x609c0043fc018000, 0x60dc008020208000, 0x621ffc2000024000, 0x625c004000000000,
    0x629c204000000000, 0x62dc202000000000, 0x641c004043fc8004]

theorem test_runs_Double : wordsDouble.all (wordRuns (stage id)) = true := by decide +kernel

def wordsConvert : List Nat := [
    0x701c000000000018, 0x705c402040000000, 0x709c8003fc010000, 0x70dc23fc20030000, 0x711ffc010401400c]

theorem test_runs_Convert : wordsConvert.all (wordRuns (stage id)) = true := by decide +kernel

def wordsLoad : List Nat := [
    0x801ffc2040404000, 0x805c002000400000, 0x809c202000224000]

theorem test_runs_Load : wordsLoad.all (wordRuns (stage id)) = true := by decide +kernel

def wordsAtomic : List Nat := [
    0x901c83fc80021000, 0x905c202000020000, 0x909c402080000000, 0x90dc43fc00020000, 0x911c03fc80020000, 0x915ffffc00024000,
    0x919c202104010000, 0x91dc43fd04030000, 0x921c83fc80020000, 0x925c402020020000, 0x929c408020010000, 0x941c000040000020,
    0x945c000020000000, 0x949c0003fc010000, 0x94dc03fc40020000, 0x951c000000000000, 0x955c002020000000, 0x961c004040000000,
    0x965c000080000000, 0x969c004104010000]

theorem test_runs_Atomic : wordsAtomic.all (wordRuns (stage id)) = true := by decide +kernel

def wordsSync : List Nat := [
    0xa01c000000000000, 0xa05c000080000000, 0xa09c002000800000, 0xa0dc002000020000, 0xa11c408000000000, 0xa15c004000000000,
    0xa19c008000000000, 0xa1dc400000000000, 0xa21c03fc20030000, 0xa25c0003fc010000, 0xa29ffc8000004000, 0xa2dc03fc20020000,
    0xa31c002000000000]

theorem test_runs_Sync : wordsSync.all (wordRuns (stage id)) = true := by decide +kernel

def wordsCopy : List Nat := [
    0xb01c000020010000, 0xb05c004020000000, 0xb09c0003fc010000, 0xb0dc000000000000, 0xb11c002040020000, 0xb15c002020010000,
    0xb19c000000000000, 0xb1dc002020000000]

theorem test_runs_Copy : wordsCopy.all (wordRuns (stage id)) = true := by decide +kernel

def wordsMatrix : List Nat := [
    0xc01c008020000000, 0xc05c200000000000, 0xc09c000020011000, 0xc0dc002080020000, 0xc11c204040000000]

theorem test_runs_Matrix : wordsMatrix.all (wordRuns (stage id)) = true := by decide +kernel

def wordsBunched : List Nat := [
    0xd01c002020800000, 0xd05c200000000000, 0xd09c03fffc030000, 0xd0dc000000000000]

theorem test_runs_Bunched : wordsBunched.all (wordRuns (stage id)) = true := by decide +kernel

def wordsSystem : List Nat := [
    0xe01c0000000c0005, 0xe05c000000000000, 0xe11c0000000c0005, 0xe15c0003fc010000, 0xe19c43fffc030000, 0xe1dc002000000000,
    0xe1dc008000000004, 0xe21d044000004000, 0xe25c200000000000, 0xe29c200000000000, 0xe29c000000002000]

theorem test_runs_System : wordsSystem.all (wordRuns (stage id)) = true := by decide +kernel

def wordsPrivileged : List Nat := [0xe09c000000000000, 0xe0dc000000000000, 0xe0dc008000002020]

theorem test_runs_privileged : wordsPrivileged.all (wordRuns (stage (fun w => { w with handler := true }))) = true := by decide +kernel

def firingsInt : List Nat := [0x33036068000003, 0x6b036060000003]

theorem test_fires_Int : firingsInt.all fires = true := by decide +kernel

def firingsLogic : List Nat := [0x102b036064000003, 0x104b03606c000003]

theorem test_fires_Logic : firingsLogic.all fires = true := by decide +kernel

def firingsMove : List Nat := [0x200b03606a000003, 0x207303606a000353]

theorem test_fires_Move : firingsMove.all fires = true := by decide +kernel

def firingsFloat : List Nat := [0x500b036066000003, 0x504303606c000003]

theorem test_fires_Float : firingsFloat.all fires = true := by decide +kernel

def firingsDouble : List Nat := [0x6003036062000003, 0x607b036064000003]

theorem test_fires_Double : firingsDouble.all fires = true := by decide +kernel

def firingsConvert : List Nat := [0x703b036068000003, 0x7073036060000003]

theorem test_fires_Convert : firingsConvert.all fires = true := by decide +kernel

def firingsLoad : List Nat := [0x8033036064000003, 0x804b036064000003]

theorem test_fires_Load : firingsLoad.all fires = true := by decide +kernel

def firingsAtomic : List Nat := [0x9433036060000003, 0x944b036060000003]

theorem test_fires_Atomic : firingsAtomic.all fires = true := by decide +kernel

def firingsSync : List Nat := [0xa003036060000003]

theorem test_fires_Sync : firingsSync.all fires = true := by decide +kernel

def firingsMatrix : List Nat := [0xc03b03606c000003]

theorem test_fires_Matrix : firingsMatrix.all fires = true := by decide +kernel

def firingsBunched : List Nat := [0xd043036068000003, 0xd0ab03606c000003]

theorem test_fires_Bunched : firingsBunched.all fires = true := by decide +kernel

def firingsLattice : List Nat := [
    0xf003036068000003, 0xf043036068000003, 0xf0ab036066000003, 0xf0cb036064000003, 0xf113036064000003, 0xf15b036064000003,
    0xf183036064000003, 0xf1c3036062000003]

theorem test_fires_Lattice : firingsLattice.all fires = true := by decide +kernel

/-! Words of the text, and one result of each kind of instruction, worked out by hand from the rule named. -/

/-- 07 R186, the word of 07: `DIV.z32` of 100 by 7. -/
theorem test_div : reg (after (withRegs [(4, 100), (5, 7)]) 0x021C241014000800) 9 0 = some 14 := by decide +kernel
/-- 07 R186: a zero divisor gives the greatest value, at `.z32`. -/
theorem test_div_zero : reg (after (withRegs [(4, 100)]) 0x021C241014000800) 9 0 = some 0xFFFFFFFF := by decide +kernel
/-- 07 R188, the word of 07: table 0x96 is the exclusive or of three bits. -/
theorem test_blut : reg (after (withRegs [(1, 0b1100), (2, 0b1010), (3, 0b1111)]) 0x115C1C04080C0258) 7 0 = some 0b1001 := by decide +kernel
/-- 08 R211, the word of 08: 1.5 × 2 + 1 at FP32. -/
theorem test_ffma : reg (after (withRegs [(2, 0x3FC00000), (3, 0x40000000), (10, 0x3F800000)]) 0x50DC28080C280140) 10 0
    = some 0x40800000 := by decide +kernel
/-- 07 R184: a 32-bit sum wraps. -/
theorem test_add_wraps : (warpAfter (stage (withRegs [(1, 0xFFFFFFFF), (2, 2)])) (.add (arith (.v 3) (.v 1) (.v 2) un 0))).map
    (getV · 3 0) = some 1 := by decide +kernel
/-- 07 R191: a count of 32 shifts every bit out. -/
theorem test_shl_full : (warpAfter (stage (withRegs [(1, 0xFFFFFFFF), (2, 32)])) (.shl (arith (.v 3) (.v 1) (.v 2) un 0))).map
    (getV · 3 0) = some 0 := by decide +kernel
/-- 07 R187: no zero bit leads, and 32 lead in zero. -/
theorem test_clz_zero : (warpAfter (stage id) (.clz (arith (.v 3) (.v 1) un un 0))).map (getV · 3 0) = some 32 := by decide +kernel
/-- 06 R155: a write to `p7` is discarded. -/
theorem test_p7 : (warpAfter (stage id) (.setp (arith (.p 7) (.v 1) (.v 2) (.p 7) 1))).map (·.preds) = some [] := by decide +kernel

/-! Witnesses for the statements about integer instructions: the fields that choose a clause. -/

theorem wit_carry : runsOk (stage id) (.addc (arith (.v 3) (.v 1) (.v 2) (.p 0) 0)) = true ∧
    runsOk (stage id) (.addc (arith (.v 3) (.v 1) (.v 2) (.p 6) 0)) = true ∧
    runsOk (stage id) (.addc (arith (.v 3) (.v 1) (.v 2) (.p 7) 0)) = true ∧
    runsOk (stage id) (.subb (arith (.v 3) (.v 1) (.v 2) (.v 4) 0)) = true := by decide +kernel
theorem wit_fshl : ([0, 1] : List (BitVec 4)).all (fun k => runsOk (stage id) (.fshl (arith (.v 3) (.v 1) (.v 2) (.v 4) k))) = true := by
  decide +kernel
theorem wit_bfx : ([.s32, .z32] : List Ty).all (fun ty =>
    runsOk (stage id) (.bfx { arith (.v 3) (.v 1) (.v 2) un 0 with ty := ty })) = true := by decide +kernel
theorem wit_setp : ([0, 1, 2, 3, 4, 5, 8, 9, 10, 11, 12, 13] : List (BitVec 4)).all (fun k =>
    runsOk (stage id) (.setp (arith (.p 2) (.v 1) (.v 2) (.p 7) k))) = true := by decide +kernel
theorem wit_sel_mov : ([.dflt, .z64] : List Ty).all (fun ty =>
    runsOk (stage id) (.sel { arith (.v 4) (.v 6) (.v 8) (.p 0) 0 with ty := ty })
      && runsOk (stage id) (.mov { arith (.v 4) (.v 6) un un 0 with ty := ty })) = true := by decide +kernel
theorem wit_movk : runsWith (stage id) (.movk (arith (.k 5) (.v 1) un un 0)) (fun c => c.g ≠ 0) = true ∧
    runsWith (stage id) (.movk { arith (.k 5) (.v 1) un un 0 with g := g0 }) (fun c => c.g = 0) = true ∧
    runsWith (stage id) (.movkImm ⟨g7, 63, 0, 7⟩) (fun c => c.g ≠ 0) = true := by decide +kernel
theorem wit_srd : (List.range 14).all (fun n => runsWith (stage id) (.srd (raw (.v 1) un un un (BitVec.ofNat 12 n))) (fun c =>
    (taskJob (stage id) c.t).isSome)) = true := by decide +kernel
theorem wit_clk : ([0, 1] : List (BitVec 4)).all (fun k => runsOk (stage id) (.clk (arith (.v 2) un un un k))) = true := by decide +kernel

/-! Control flow. -/

/-- A warp whose divergence stack holds `n` entries that restore every lane. -/
def deep (n : Nat) (w : Warp) : Warp :=
  { lowHalf w with stack := List.replicate n { join := 0x20000, restore := 0xFFFFFFFF, pendingPc := 0, pending := 0 } }

/-- 02 R60: a divergent branch pushes an entry, and the taken lanes go on at its target. -/
theorem test_bra_diverges : (warpAfter (stage lowHalf) (.bra ⟨g0, 4, 8⟩)).map (fun w => (w.pc, w.active, w.stack)) =
    some (0x10020, 0xFFFF, [{ join := 0x10040, restore := 0xFFFFFFFF, pendingPc := 0x10008, pending := 0xFFFF0000 }]) := by decide +kernel

theorem wit_bra : runsWith (stage (deep 64)) (.bra ⟨g0, 4, 8⟩) (fun c => decide (c.g ≠ c.w.active ∧ c.g ≠ 0 ∧ 64 ≤ c.w.stack.length)) = true ∧
    runsWith (stage (deep 63)) (.bra ⟨g0, 4, 8⟩) (fun c => decide (c.g ≠ c.w.active ∧ c.g ≠ 0 ∧ c.w.stack.length < 64)) = true ∧
    runsWith (stage (deep 64)) (.bra ⟨g7, 0, 0⟩) (fun c => decide (c.g = c.w.active)) = true ∧
    runsWith (stage id) (.bra ⟨g0, -1, 8⟩) (fun c => decide (c.g = 0)) = true ∧
    runsWith (stage lowHalf) (.bra ⟨g0, -1, 1⟩) (fun c => decide (c.g ≠ 0)) = true := by decide +kernel
/-- Targets at both ends of the address space: 0 and 2^56 − 8. -/
theorem wit_brx : runsWith (stage (fun w => deep 63 (withRegs [(2, 0xFFFFFFF8), (3, 0x00FFFFFF)] w))) (.brx { raw un (.v 2) (.k 4) un 0 with g := g7 })
      (fun c => decide (c.w.active ≠ 0 ∧ c.w.stack.length + 1 ≤ 64) && (List.range 32).all (fun l =>
        decide ((src64 c.w (.v 2) l).toNat % 8 = 0 ∧ (src64 c.w (.v 2) l).toNat < 2 ^ 56))) = true ∧
    runsWith (stage (deep 64)) (.brx { raw un (.v 2) (.k 4) un 0 with g := g0 })
      (fun c => decide (c.w.active ≠ 0 ∧ c.g ≠ 0 ∧ 64 < c.w.stack.length + 1) && (List.range 32).all (fun l =>
        decide ((src64 c.w (.v 2) l).toNat % 8 = 0))) = true := by decide +kernel
/-- Targets that trap: a misaligned one, and one at 2^56. -/
theorem wit_bad_target : runsWith (stage (withRegs [(2, 4)])) (.brx { raw un (.v 2) (.k 4) un 0 with g := g7 }) (fun c =>
      decide ((src64 c.w (.v 2) 0).toNat % 8 ≠ 0 ∧ inMask c.g 0 = true)) = true ∧
    runsWith (stage (fun w => { w with kregs := [(3, 0x01000000)] })) (.ret (raw un (.k 2) un un 0)) (fun c =>
      decide (c.g ≠ 0 ∧ (src64 c.w (.k 2) 0).toNat % 8 = 0 ∧ 2 ^ 56 ≤ (src64 c.w (.k 2) 0).toNat)) = true := by decide +kernel
/-- 18 R447: such a target is a fault; a kernel without a handler loses its job. -/
theorem test_bad_target : nextWith (exec (.ret (raw un (.k 2) un un 0)) (stage (fun w => { w with kregs := [(2, 1)] })))
    (fun t => (getTask t loadedKey).isNone) = true := by decide +kernel
theorem wit_call : runsWith (stage (deep 63)) (.call ⟨g0, 4, 0⟩) (fun c => decide (c.g ≠ c.w.active ∧ c.g ≠ 0 ∧ c.w.stack.length < 64)) = true ∧
    runsWith (stage (deep 64)) (.call ⟨g0, -1, 0⟩) (fun c => decide (c.g ≠ c.w.active ∧ c.g ≠ 0 ∧ 64 ≤ c.w.stack.length)) = true ∧
    runsWith (stage id) (.call ⟨g0, 4, 0⟩) (fun c => decide (c.g = 0)) = true := by decide +kernel
theorem wit_ret : runsWith (stage id) (.ret (raw un (.k 2) un un 0)) (fun c => decide (c.g ≠ 0 ∧ (src64 c.w (.k 2) 0).toNat % 8 = 0)) = true ∧
    runsWith (stage (fun w => { w with kregs := [(2, 1)] })) (.ret { raw un (.k 2) un un 0 with g := g0 }) (fun c => decide (c.g = 0)) = true := by decide +kernel
theorem wit_exit : runsWith (stage lowHalf) (.exit { raw un un un un 0 with g := g0 })
      (fun c => decide (c.w.launch &&& ~~~c.g ≠ 0 ∧ c.w.active &&& ~~~c.g ≠ 0)) = true ∧
    runsWith (stage (fun w => { deep 1 w with active := 0xFFFF })) (.exit (raw un un un un 0))
      (fun c => decide (c.w.launch &&& ~~~c.g ≠ 0 ∧ c.w.active &&& ~~~c.g = 0 ∧ c.g ≠ 0)) = true := by decide +kernel
theorem wit_exit_last : runsWith (stage id) (.exit (raw un un un un 0)) (fun c =>
      decide (c.g ≠ 0 ∧ c.w.launch &&& ~~~c.g = 0 ∧ c.t.barriers = [] ∧ c.t.warps.length = 1) && !endHeld (stage id) c.k) = true ∧
    runsWith (stageT (fun t => { t with warps := t.warps ++ t.warps, wslots := [0, 1] })) (.exit (raw un un un un 0)) (fun c =>
      decide (c.g ≠ 0 ∧ c.w.launch &&& ~~~c.g = 0 ∧ c.t.barriers = []) &&
        (getWarp c.t 1).any (fun v => decide (v.launch ≠ 0 ∧ v.blocked = .ready))) = true := by decide +kernel
theorem wit_yield : runsWith (stage id) (.yield { raw un un un un 0 with g := g0 }) (fun c => decide (c.g = 0)) = true := by decide +kernel

/-! Warp operations. -/

/-- 07 R206: `.bfly` by 1 exchanges neighbours. -/
theorem test_lxch : (warpAfter (stage (fun w => { setV (setV w 1 0 5) 1 1 6 with kregs := [(0, 1)] }))
    (.lxch (arith (.v 3) (.v 1) (.k 0) un 3))).map (fun w => (getV w 3 0, getV w 3 1)) = some (6, 5) := by decide +kernel

theorem wit_vote : ([0, 1, 2, 3] : List (BitVec 4)).all (fun k => runsOk (stage id) (.vote (arith (.v 3) (.v 1) un un k))) = true ∧
    ([0, 1] : List (BitVec 4)).all (fun k => runsOk (stage id) (.match (arith (.v 3) (.v 1) un un k))) = true := by decide +kernel
theorem wit_lxch : ([0, 1, 2, 3] : List (BitVec 4)).all (fun k =>
      runsWith (stage id) (.lxch (arith (.v 3) (.v 1) (.v 2) (.v 4) k)) (fun c => (List.range 32).all (fun l => decide (src32 c.w (.v 4) l = 0)))) = true ∧
    runsWith (stage (fun w => setV (setV w 4 0 33) 4 31 3)) (.lxch (arith (.v 3) (.v 1) (.v 2) (.v 4) 0)) (fun c =>
      decide (inMask c.g 0 = true ∧ (src32 c.w (.v 4) 0).toNat ∉ [0, 1, 2, 4, 8, 16, 32] ∧
        inMask c.g 31 = true ∧ (src32 c.w (.v 4) 31).toNat ∉ [0, 1, 2, 4, 8, 16, 32])) = true := by decide +kernel
theorem wit_reduce : ([0, 1, 2, 3, 4, 5] : List (BitVec 4)).all (fun k =>
      runsOk (stage id) (.segred { arith (.v 3) (.v 1) (.v 2) un k with ty := .s32 })
        && runsOk (stage id) (.scan { arith (.v 3) (.v 1) (.v 2) un (k + 8) with ty := .z32 })) = true ∧
    ([0, 1, 2] : List (BitVec 4)).all (fun k => runsOk (stage id) (.segred { arith (.v 3) (.v 1) (.v 2) un k with ty := .f32 })
      && runsOk (stage id) (.scan { arith (.v 3) (.v 1) (.v 2) un (k + 8) with ty := .f32 })) = true := by decide +kernel
theorem wit_segments : ∀ l, l < 32 → IsSegmentStart (fun j => if j = 4 then 1 else 0) l (if l < 4 then 0 else 4) := by
  intro l _
  unfold IsSegmentStart
  split
  · exact ⟨by omega, .inl rfl, fun j _ _ => if_neg (by omega)⟩
  · exact ⟨by omega, .inr (by decide), fun j _ _ => if_neg (by omega)⟩

/-! Floating point. -/

/-- 08 R228, R230: an enabled check raises FP_NONFINITE and writes nothing; with the mode word 0 the NaN is written. A
kernel without a handler loses its job. -/
theorem test_fadd_nan : (warpAfter (stage (withRegs [(1, 0x7FC00000)])) (.fadd (arith (.v 3) (.v 1) (.v 2) un 0))).map (getV · 3 0)
    = some 0x7FFFFFFF := by decide +kernel
theorem test_fadd_check : nextWith (exec (.fadd (arith (.v 3) (.v 1) (.v 2) un 0))
    (stage (fun w => { withRegs [(1, 0x7FC00000)] w with fpmode := 1 }))) (fun t => (getTask t loadedKey).isNone) = true := by decide +kernel

theorem wit_rounding : (fp64 ∈ [fp64, fp32, fp16, bf16] ∧ bf16 ∈ [fp64, fp32, fp16, bf16]) ∧ 0 < 1 := by decide +kernel
/-- A result that is checked and selected: a NaN under NANCHK, and an infinity under INFCHK; and none under the mode word 0. -/
theorem wit_checked : runsWith (stage (fun w => { withRegs [(1, 0x7FC00000)] w with fpmode := 1 })) (.fadd (arith (.v 3) (.v 1) (.v 2) un 0))
      (fun c => decide (c.w.fpmode.getLsbD 0 = true ∧ inMask c.g 0 = true ∧ fp32.decode (getV c.w 1 0).toNat = .nan)) = true ∧
    runsWith (stage (fun w => { withRegs [(1, 0x7F800000)] w with fpmode := 2 })) (.fmul (arith (.v 3) (.v 1) (.v 1) un 0))
      (fun c => decide (c.w.fpmode.getLsbD 1 = true ∧ inMask c.g 0 = true ∧ fp32.decode (getV c.w 1 0).toNat = .inf false)) = true ∧
    runsWith (stage id) (.dadd (arith (.v 4) (.v 0) (.v 2) un 0)) (fun c => decide (c.w.fpmode = 0)) = true := by decide +kernel
theorem wit_frexp : ([0, 1] : List (BitVec 4)).all (fun k => runsOk (stage id) (.frexp (arith (.v 3) (.v 1) un un k))) = true := by
  decide +kernel
theorem wit_fsetp : ((List.range 16).map (BitVec.ofNat 4)).all (fun k =>
    runsOk (stage id) (.fsetp (arith (.p 2) (.v 1) (.v 2) (.p 7) k)) && runsOk (stage id) (.dsetp (arith (.p 2) (.v 2) (.v 4) (.p 7) k))) = true ∧
    ((List.range 6).map (BitVec.ofNat 4)).all (fun k => runsOk (stage id) (.fsel (arith (.v 3) (.v 1) (.v 2) (.v 4) k))) = true := by
  decide +kernel
/-- Each class of a value (08 R219), at its ends. -/
theorem wit_fclass : fp32.decode 0xFF800000 = .inf true ∧ fp32.decode 0x7F800000 = .inf false ∧ fp32.decode 0x7F800001 = .nan ∧
    fp32.decode 0x7FC00000 = .nan ∧ (fp32.expOf 0x80000000 = 0 ∧ fp32.fracOf 0x80000000 = 0) ∧ (fp32.expOf 1 = 0 ∧ fp32.fracOf 1 ≠ 0) ∧
    fp32.expOf 0x00800000 ≠ 0 := by decide +kernel
theorem wit_fchk : runsOk (stage id) (.fchkTrap { arith un (.v 1) un un 1 with sub := 1 }) = true ∧
    runsWith (stage (withRegs [(1, 0x7F800000)])) (.fchkTrap { arith un (.v 1) un un 1 with sub := 1 })
      (fun c => decide (inMask c.g 0 = true ∧ fp32.decode (getV c.w 1 0).toNat = .inf false)) = true := by decide +kernel
theorem wit_fpmode : runsWith (stage (withRegs [(1, 7)])) (.fpmode (arith (.v 3) (.v 1) un un 0)) (fun c => decide (lowLane c.g = some 0 ∧
      (src32 c.w (.v 1) 0).toNat < 8)) = true ∧
    runsWith (stage (withRegs [(1, 8)])) (.fpmode (arith (.v 3) (.v 1) un un 0)) (fun c => decide (c.g ≠ 0 ∧ lowLane c.g = some 0 ∧
      8 ≤ (src32 c.w (.v 1) 0).toNat)) = true ∧
    runsWith (stage id) (.fpmode { arith (.v 3) (.v 1) un un 0 with g := g0 }) (fun c => decide (c.g = 0)) = true ∧
    runsOk (stage id) (.fpmodeImm ⟨g7, 3, 0, 8⟩) = true ∧ runsOk (stage id) (.fpmodeGet (arith (.v 3) un un un 1)) = true := by decide +kernel
/-- `CVT` between formats of both kinds, and `PACK` and `UNPACK` in each variant. -/
theorem wit_convert : ((List.range 16).map (BitVec.ofNat 4)).countP (fun k =>
      runsOk (stage id) (.cvt { arith (.v 4) (.v 2) un un k with ty := .f32 })) ≠ 0 ∧
    ([0, 1, 2, 3] : List (BitVec 4)).all (fun k => runsOk (stage id) (.pack (arith (.v 3) (.v 1) (.v 2) (if k.toNat < 2 then un else .v 4) k))
      && runsOk (stage id) (.unpack (arith (.v 3) (.v 1) (if k.toNat < 2 then un else .v 4) un k))) = true := by decide +kernel

/-! Memory accesses. -/

/-- The staged state with lane 0 alone in `p0`, a 64-bit word of memory, and a constant image of 64 bytes. -/
def lane0Only (w : Warp) : Warp := { w with preds := [(0, 1)] }
def putWord (s : State) (va : Nat) (x : DWord) : State := wr64 s ((leafPa s 0 0 0 va).getD 0) x
def wordAt (s : State) (va : Nat) : DWord := rd64 s ((leafPa s 0 0 0 va).getD 0)
def constKernel : Kernel := { loadedKernel with constAddr := 0x8000, constLen := 64, nbar := 2 }
def stageC (f : Warp → Warp) : State :=
  let s := setJob (stage f) { loadedJob with kernel := constKernel }
  setCore s 0 { getCore s 0 with consts := [{ vd := 0, addr := 0x8000, len := 64, bytes := [(5, 7)], lost := [] }] }

def mem (d a : Opnd) (off : BitVec 16) (ty : Ty) (sp : Space) (scope : BitVec 3) : RMem := ⟨g0, d, a, off, 0, ty, sp, .relaxed, scope, 0⟩
def atom (d a b c : Opnd) (ty : Ty) (sp : Space) : RAtom := ⟨g0, d, a, b, c, ty, sp, .relaxed, 2, 0⟩

/-- Whether an instruction runs, and stage 5 passes for its accesses and gives a property. -/
def accWith (s : State) (i : Instr) (sp : Space) (align : Nat) (needs : Needs) (accs : Ctx → List Acc)
    (p : State → Ctx → List (Acc × Place) → Bool) : Bool :=
  runsWith s i (fun c => match checkAccess s c sp align 0 needs (accs c) with
    | (.ok l, s₁) => p s₁ c l
    | _ => false)
def readable (scope : Nat) (s₁ : State) (c : Ctx) (l : List (Acc × Place)) : Bool := decide (l ≠ [] ∧ lostAccs s₁ c scope l = [])

/-- 09 R238: a signed byte is extended; 03 R78: of the lanes that store to one byte the highest stays. -/
theorem test_ld_signed : (warpAfter (putWord (stage lane0Only) 0 0xFF) (.ld (mem (.v 2) (.v 4) 0 .s8 .die 2))).map (getV · 2 0)
    = some 0xFFFFFFFF := by decide +kernel
theorem test_st_highest : nextWith (exec (.st { mem (.v 2) (.v 4) 8 .z32 .die 2 with g := g7 }) (stage (fun w => setV (setV w 2 3 9) 2 31 5)))
    (fun t => decide (wordAt t 8 = 5)) = true := by decide +kernel
/-- 09 R242: lanes add in turn, and the last finds what the others left. -/
theorem test_atomAdd : (warpAfter (stage (fun w => { w with kregs := [(0, 1)] })) (.atomAdd { atom (.v 2) (.v 4) (.k 0) un .z32 .die with g := g7 })).map
    (fun w => (getV w 2 0, getV w 2 31)) = some (0, 31) := by decide +kernel

/-- Every space at its first bytes, and the last that fit in shared memory and in the constant image; every access width. -/
theorem wit_ld : ([.die, .shared, .spill, .const] : List Space).all (fun sp => accWith (stageC lane0Only) (.ld (mem (.v 2) (.v 4) 0 .z32 sp 0)) sp 4
      needR (fun c => accessesOf c sp (.v 4) 0 .z32) (readable 0)) = true ∧
    accWith (stageC (fun w => lane0Only (withRegs [(4, 65532)] w))) (.ld (mem (.v 2) (.v 4) 0 .z32 .shared 0)) .shared 4 needR
      (fun c => accessesOf c .shared (.v 4) 0 .z32) (readable 0) = true ∧
    accWith (stageC (fun w => lane0Only (withRegs [(4, 60)] w))) (.ld (mem (.v 2) (.v 4) 0 .z32 .const 0)) .const 4 needR
      (fun c => accessesOf c .const (.v 4) 0 .z32) (readable 0) = true ∧
    ([.s8, .z8, .s16, .z16, .z32, .z64, .b128] : List Ty).all (fun ty => accWith (stage lane0Only) (.ld (mem (.v 8) (.v 4) 0 ty .die 2)) .die (widthOf ty)
      needR (fun c => accessesOf c .die (.v 4) 0 ty) (readable 2)) = true := by decide +kernel
theorem wit_places : (curCtx (stageC id) (.nop (raw un un un un 0))).any (fun c => (getTask (stageC id) c.k).isSome && (constImg (stageC id) c).isSome &&
    (warpIn (stageC id) c).isSome) = true := by decide +kernel
theorem wit_st : ([.die, .shared, .spill] : List Space).all (fun sp => accWith (stage id) (.st { mem (.v 2) (.v 4) 0 .z32 sp 0 with g := g7 }) sp 4
    needW (fun c => accessesOf c sp (.v 4) 0 .z32) (readable 2)) = true := by decide +kernel
theorem wit_ldk : accWith (stage id) (.ldk { mem (.k 2) (.k 4) 0 .z32 .die 2 with g := g7 }) .die 4 needR (fun c => (accessesOf c .die (.k 4) 0 .z32).take 1)
      (fun s₁ c l => decide (c.g ≠ 0) && readable 2 s₁ c l) = true ∧
    runsWith (stage id) (.ldk (mem (.k 2) (.k 4) 0 .z32 .die 2)) (fun c => decide (c.g = 0)) = true := by decide +kernel
theorem wit_atomics : ([.die, .shared] : List Space).all (fun sp => (atomics (atom (.v 2) (.v 4) (.v 6) un .z32 sp)).all (fun e =>
      decide (e.2.1 = .cas ∨ e.2.1 = .fadd ∨ e.2.1 = .fmin ∨ e.2.1 = .fmax) ||
      accWith (stage lane0Only) (if e.2.2 then e.1 else match e.1 with
        | .redAdd f => .redAdd { f with d := un }
        | .redMin f => .redMin { f with d := un }
        | .redMax f => .redMax { f with d := un }
        | .redAnd f => .redAnd { f with d := un }
        | .redOr f => .redOr { f with d := un }
        | .redXor f => .redXor { f with d := un }
        | i => i) sp 4 (if e.2.2 then needRW else needW) (fun c => accessesOf c sp (.v 4) 0 .z32) (readable 2))) = true := by decide +kernel
theorem wit_atomics_float : accWith (stage lane0Only) (.atomFadd (atom (.v 2) (.v 4) (.v 6) un .f32 .die)) .die 4 needRW
      (fun c => accessesOf c .die (.v 4) 0 .f32) (readable 2) = true ∧
    accWith (stage lane0Only) (.atomCas (atom (.v 2) (.v 4) (.v 6) (.v 8) .z32 .die)) .die 4 needRW
      (fun c => accessesOf c .die (.v 4) 0 .z32) (readable 2) = true ∧
    accWith (stage lane0Only) (.redFmin (atom un (.v 4) (.v 6) un .f32 .shared)) .shared 4 needW
      (fun c => accessesOf c .shared (.v 4) 0 .f32) (readable 2) = true := by decide +kernel
theorem wit_l1 : ([0, 1, 2, 4] : List (BitVec 3)).all (fun sc => accWith (stage lane0Only) (.ld (mem (.v 2) (.v 4) 0 .z32 .die sc)) .die 4 needR
      (fun c => accessesOf c .die (.v 4) 0 .z32) (fun s₁ c l => readable sc.toNat s₁ c l &&
        nextWith (exec (.ld (mem (.v 2) (.v 4) 0 .z32 .die sc)) (stage lane0Only)) (fun _ => true))) = true ∧
    accWith (stage lane0Only) (.ld { mem (.v 2) (.v 4) 0 .z32 .die 2 with ann := .acq }) .die 4 needR (fun c => accessesOf c .die (.v 4) 0 .z32)
      (fun s₁ c l => decide (c.g ≠ 0) && readable 2 s₁ c l) = true := by decide +kernel

/-- A lane's access at an address. -/
def oneAcc (a : Int) : List Acc := [{ lane := 31, addr := a, n := 4 }]
def stageAcc (sp : Space) (a : Int) : Option (AccRes × State) :=
  (curCtx (stageC id) (.nop (raw un un un un 0))).map (fun c => checkAccess (stageC id) c sp 4 0 needR (oneAcc a))
/-- Shared memory has 65,536 bytes here and the image 64: the last bytes that fit, the first that do not, and a misaligned one. -/
theorem wit_extent : (∀ sp ∈ [(Space.shared, 65532), (.const, 60)], (stageAcc sp.1 sp.2).any (fun r => match r.1 with
      | .ok l => decide (l.map Prod.fst = oneAcc sp.2)
      | _ => false) = true) ∧
    (∀ sp ∈ [(Space.shared, (65536 : Int), 0x06, 3), (.const, 64, 0x06, 3), (.shared, -4, 0x06, 3), (.shared, 2 ^ 32, 0x06, 3), (.die, 2, 0x05, 2),
        (.shared, 65534, 0x05, 2)],
      (stageAcc sp.1 sp.2.1).any (fun r => match r.1 with
        | .fault f => decide (f.cause = sp.2.2.1 ∧ f.detail = sp.2.2.2 ∧ f.lanes = 0x80000000)
        | _ => false) = true) := by decide +kernel
/-- An access that meets a fault, and one that waits for a page: VA 2^30 is not mapped in stage 2, and 2^56 and above in no stage. -/
theorem wit_access_faults : runsWith (stage (fun w => lane0Only (withRegs [(4, 2)] w))) (.ld (mem (.v 2) (.v 4) 0 .z32 .die 2)) (fun c =>
      match (checkAccess (stage (fun w => lane0Only (withRegs [(4, 2)] w))) c .die 4 0 needR (accessesOf c .die (.v 4) 0 .z32)).1 with
      | .fault f => decide (f.cause = 0x05)
      | _ => false) = true ∧
    (let s := putWord (stage (fun w => lane0Only (withRegs [(4, 0x40000000)] w))) 0x130008 0x400000FB
     runsWith s (.ld (mem (.v 2) (.v 4) 0 .z32 .die 2)) (fun c =>
      match (checkAccess s c .die 4 0 needR (accessesOf c .die (.v 4) 0 .z32)).1 with
      | .held b => decide (b ≠ .ready)
      | _ => false)) = true := by decide +kernel

/-! Fences, futures, lock words and barriers. -/

/-- A future or lock word at VA 0 of the staged task's window, with its state, owner and status. -/
def record (st : Nat) (owner : DWord) (status : Nat) (word1 : DWord) (s : State) : State :=
  putWord (putWord s 0 (recWord0 st owner status)) 8 word1

/-- Whether a record instruction of lane 0 runs, stage 5 passes, and its records are readable and have a property. -/
def recWith (s : State) (i : Instr) (f : RSync) (p : State → Ctx → Loc → Bool) : Bool :=
  runsWith s i (fun c => match checkAccess s c f.space 16 3 needRW
      ((lanesOf c.g).map (fun k => { lane := k, addr := addressOf c.w f.space f.a 0 k, n := 16 })) with
    | (.ok [e], s₁) => decide (lostPlace s₁ c 2 16 0 (locPlace (recordOf c e)) = false) && p s₁ c (recordOf c e)
    | _ => false)

def fget : RSync := { sync (.v 2) (.v 4) un un .die 0 with g := g0 }
def fput : RSync := { sync un (.v 4) (.v 6) un .die 0 with g := g0 }

/-- 09 R248: `FGET` of a FULL record gives its value. -/
theorem test_fget : (warpAfter (record 2 0 0 42 (stage lane0Only)) (.fget fget)).map (getV · 2 0) = some 42 := by decide +kernel
/-- 02 R52: `FGET` of an EMPTY record parks. -/
theorem test_fget_parks : nextWith (exec (.fget fget) (record 0 0 0 0 (stage lane0Only))) (fun t => decide (recState (wordAt t 0) = 1) &&
    (getTask t loadedKey).any (fun x => decide (x.st ≠ .running))) = true := by decide +kernel

/-- A copy of the staged warp in an issue entry. -/
def anyCopy : CopyOp :=
  { task := loadedKey, warp := 0, pc := 0, kind := .elems 4 0 false false [], comp := .none, progress := 0, st := .going, seq := 0 }

theorem wit_fence : runsWith (stage id) (.fence { atom un un un un .dflt .die with g := g7, scope := 2 }) (fun c => decide (c.g ≠ 0)) = true ∧
    runsWith (stage id) (.fence { atom un un un un .dflt .die with scope := 4 }) (fun c => decide (c.g = 0)) = true ∧
    (let s := setCore (stage id) 0 { getCore (stage id) 0 with copies := [(0, anyCopy)] }
     runsWith s (.fence { atom un un un un .dflt .die with g := g7, scope := 3 }) (fun c => decide (c.g ≠ 0) && opsOut s c.k c.i)) = true := by
  decide +kernel
theorem wit_fnew : recWith (record 1 0 0 0 (stage lane0Only)) (.fnew { fput with var := 0 }) { fput with var := 0 } (fun s₁ c r =>
      decide (stateOf s₁ r = 1 ∧ ((src64 c.w (.v 6) 0) &&& 0xFFFFFFFFFFFF#64).toNat < 2 ^ 46)) = true ∧
    recWith (stage lane0Only) (.fnew { fput with b := un, var := 1 }) { fput with b := un, var := 1 } (fun s₁ c r =>
      decide (stateOf s₁ r = 0 ∧ c.t.handle.toNat < 2 ^ 46)) = true := by decide +kernel
theorem wit_fput : ([0, 1, 2, 3] : List Nat).all (fun k => recWith (record k 0 0 0 (stage lane0Only)) (.fput fput) fput (fun s₁ _ r =>
    decide (stateOf s₁ r = k) && s₁.jobs.all (fun e => e.2.gateOpen))) = true := by decide +kernel
theorem wit_fget : ([2, 3] : List Nat).all (fun k => recWith (record k 0 0 0 (stage lane0Only)) (.fget fget) fget (fun s₁ _ r =>
    decide (stateOf s₁ r = k))) = true := by decide +kernel
theorem wit_fget_parks : ([0, 1] : List Nat).all (fun k => recWith (record k 0 0 0 (stage lane0Only)) (.fget fget) fget (fun s₁ c r =>
    decide (stateOf s₁ r = k ∧ freePark s₁ c.t.die (taskPart c.k) = some 0))) = true := by decide +kernel
theorem wit_ftry : ([0, 1, 2, 3] : List Nat).all (fun k => recWith (record k 0 0 0 (stage lane0Only)) (.ftry { fget with b := .v 6 }) { fget with b := .v 6 }
    (fun s₁ _ r => decide (stateOf s₁ r = k))) = true := by decide +kernel
theorem wit_lkacq : recWith (stage lane0Only) (.lkacq { fput with b := un }) { fput with b := un } (fun s₁ c r =>
      decide (stateOf s₁ r = 0 ∧ r ∉ c.w.acq)) = true ∧
    recWith (record 3 0 0 0 (stage lane0Only)) (.lkacq { fput with b := un }) { fput with b := un } (fun s₁ c r =>
      decide (stateOf s₁ r = 3 ∧ r ∉ c.w.acq)) = true := by decide +kernel
/-- A held lock word without waiters, one with a waiter, and one that another task owns. -/
theorem wit_lkrel : recWith (record 1 (mkHandle 1 0) 0 0 (stage lane0Only)) (.lkrel { fput with b := un }) { fput with b := un } (fun s₁ c r =>
      decide ((ownerField s₁ r).zeroExtend 64 = c.t.handle ∧ stateOf s₁ r = 1)) = true ∧
    (let parks := [(parkKey 0 0 3, ParkRec.mk loadedKey 0 none (.phys ((leafPa (stage id) 0 0 0 0).getD 0)))]
     let s := { record 2 (mkHandle 1 0) 0 (parkWord 1 3) (stage lane0Only) with parks := parks }
     recWith s (.lkrel { fput with b := un }) { fput with b := un } (fun s₁ c r =>
      decide ((ownerField s₁ r).zeroExtend 64 = c.t.handle ∧ recWaiters s₁ c.t.vd r c.t.die = [3]) &&
        (Store.find s₁.parks (parkKey c.t.die (partOf c.t.vd) 3)).isSome)) = true ∧
    recWith (record 1 (mkHandle 2 0) 0 0 (stage lane0Only)) (.lkrel { fput with b := un }) { fput with b := un } (fun s₁ c r =>
      decide ((ownerField s₁ r).zeroExtend 64 ≠ c.t.handle)) = true := by decide +kernel

/-- The staged task with barriers, under a kernel with two of them. -/
def stageB (bs : List (Nat × Barrier)) (f : Warp → Warp) : State :=
  let s := stageC f
  match getTask s loadedKey with
  | some t => setTask s loadedKey { t with barriers := bs }
  | none => s
def oneBar (mask : Word) (expect : Nat) : List (Nat × Barrier) := [(1, { expect := expect, mask := mask, phase := 0xFFFF })]
def bar1 (d b : Opnd) : RRaw := raw d (.v 1) b un 0
def at1 (n b : Word) (w : Warp) : Warp := withRegs [(1, n), (2, b)] w

/-- 09 R256: the arrival that fills the phase moves it on, and 0xFFFF is followed by 0. -/
theorem test_bar_phase : nextWith (exec (.barArr (bar1 (.v 3) un)) (stageB (oneBar 0 1) (at1 1 0))) (fun t =>
    (getTask t loadedKey).any (fun x => decide (x.barriers = [(1, { expect := 1, mask := 0, phase := 0 })]))) = true := by decide +kernel

theorem wit_bar_common : ([.barInit (bar1 un (.v 2)), .barArr (bar1 (.v 3) un), .barWait (bar1 un (.v 2)), .barSync (bar1 un un)] : List Instr).all (fun i =>
    runsWith (stageB [] (at1 2 1)) i (fun c => decide (c.g ≠ 0 ∧ c.kern.nbar ≤ 2 ∧ (getV c.w 1 0).toNat = 2)) &&
    runsWith (stageB [] (at1 1 1)) i (fun c => decide (c.g ≠ 0 ∧ 1 < c.kern.nbar ∧ Store.find c.t.barriers 1 = none))) = true := by decide +kernel
theorem wit_bar_off : runsWith (stageB [] id) (.barSync { bar1 un un with g := g0 }) (fun c => decide (c.g = 0)) = true := by decide +kernel
theorem wit_barInit : ([0, 1, 32, 33] : List Word).all (fun e => runsWith (stageB [] (at1 1 e)) (.barInit (bar1 un (.v 2))) (fun c =>
      decide (c.g ≠ 0 ∧ barrierNumber c (bar1 un (.v 2)) = 1 ∧ barrierArgument c (bar1 un (.v 2)) = e))) = true ∧
    runsWith (stageB (oneBar 1 2) (at1 1 4)) (.barInit (bar1 un (.v 2))) (fun c => decide (c.g ≠ 0 ∧ Store.find c.t.barriers 1 ≠ none)) = true := by
  decide +kernel
theorem wit_barArr : runsWith (stageB (oneBar 1 2) (at1 1 0)) (.barArr (bar1 (.v 3) un)) (fun c => decide (c.g ≠ 0 ∧ inMask 1 c.i = true)) = true ∧
    runsWith (stageB (oneBar 0 2) (at1 1 0)) (.barArr (bar1 (.v 3) un)) (fun c => decide (c.g ≠ 0 ∧ inMask 0 c.i = false ∧ c.w.blocked = .ready)) = true := by
  decide +kernel
theorem wit_barWait : runsWith (stageB (oneBar 0 2) (at1 1 0)) (.barWait (bar1 un (.v 2))) (fun c =>
    decide ((0xFFFF : BitVec 16) ≠ (barrierArgument c (bar1 un (.v 2))).extractLsb' 0 16)) = true := by decide +kernel
theorem wit_barSync : runsWith (stageB (oneBar 1 2) (at1 1 0)) (.barSync (bar1 un un)) (fun c => decide (c.w.arrived = none ∧ c.w.blocked = .ready)) = true ∧
    runsWith (stageB (oneBar 2 2) (at1 1 0)) (.barSync (bar1 un un)) (fun c =>
      decide (c.w.arrived = none ∧ inMask 2 c.i = false ∧ popCount (2 ||| laneMask c.i) = 2)) = true ∧
    runsWith (stageB (oneBar 0 2) (fun w => { at1 1 0 w with arrived := some (1, 0) })) (.barSync (bar1 un un)) (fun c =>
      decide (c.w.arrived = some (1, 0) ∧ (0xFFFF : BitVec 16) ≠ 0)) = true := by decide +kernel

/-! Spawns and the ends of tasks. -/

theorem wit_spawn_none : runsWith (stage id) (.spawn { sync (.v 2) (.v 4) un un .die 0 with g := g0 }) (fun c => decide (c.g = 0 ∧ c.w.blocked = .ready) &&
    tableRoom (stage id) c.t.die 0 && numberRoom (stage id) c.t.vd 0) = true := by decide +kernel
theorem wit_tend : runsWith (stage id) (.tend (raw un (.v 2) (.v 4) un 0)) (fun c => decide (c.g ≠ 0) && !endHeld (stage id) c.k) = true ∧
    runsWith (stage id) (.tend { raw un (.v 2) (.v 4) un 0 with g := g0 }) (fun c => decide (c.g = 0)) = true := by decide +kernel
theorem wit_done : (let j := { loadedJob with ntask := 2 }
    getJob (setJob (stage id) j) j.vd j.num = some j ∧ 1 < j.ntask ∧ Store.find j.done 0 = none) ∧
    (let j := { loadedJob with ntask := 2, done := [(0, false)] }
    getJob (setJob (stage id) j) j.vd j.num = some j ∧ 1 < j.ntask ∧ ∀ i, i < j.ntask → i = 1 ∨ (Store.find j.done i).isSome = true) := by decide +kernel

/-! Copies. -/

def copyForm (a : Opnd) (xsp fsp : BitVec 2) : RCopy := ⟨g7, un, a, .vz, un, .dflt, xsp, .relaxed, fsp, 0⟩

/-- A descriptor at VA 0 that moves 8 bytes from 0x10000 to 0x20000, and one of two rows that does not overlap. -/
def stageD : State := putWord (putWord (putWord (stage id) 0 0x20000) 8 0x10000) 16 8

theorem wit_copy : ([(Instr.copy (copyForm (.v 4) 0 2)), .copy2 (copyForm (.v 4) 0 2), .copy3 (copyForm (.v 4) 0 2)]).all (fun i =>
    runsWith stageD i (fun c =>
      let f := copyForm (.v 4) 0 2
      let a : Acc := { lane := lane0 c.g, addr := xspAddress f c f.a (lane0 c.g), n := 64 }
      decide (c.g ≠ 0 ∧ formFault c.kern (xspOf f) 64 2 a = none ∧ compForm f c (lane0 c.g) = none ∧ freeCopy stageD c = some 0) &&
        match checkAccess stageD c (xspOf f) 64 2 needR [a] with
        | (.ok [(_, p)], s₁) => decide (lostAccs s₁ c 0 [(a, p)] = []) && (List.range 8).all (fun j =>
            copyFieldOk c.kern.shmem ((List.range 8).map (fun j => BitVec.ofNat 64 (seen s₁ c 0 64 (lane0 c.g) p / 2 ^ (64 * j)))) 0 j)
        | _ => false)) = true := by decide +kernel
/-- No lane, and no free entry. -/
theorem wit_copy_waits : runsWith (stage id) (.copy { copyForm (.v 4) 0 2 with g := g0 }) (fun c => decide (c.g = 0)) = true ∧
    (let s := setCore (stage id) 0 { getCore (stage id) 0 with copies := (List.range 16).map (fun n => (n, anyCopy)) }
     runsWith s (.copy (copyForm (.v 4) 0 2)) (fun c => decide (c.g ≠ 0 ∧ freeCopy s c = none))) = true := by decide +kernel
theorem wit_gather : ([0, 1] : List (BitVec 2)).all (fun xsp =>
    let f : RCopy := { copyForm (.v 4) xsp 2 with d := .v 6, ty := .z32 }
    runsWith (stage id) (.gather f) (fun c => decide (c.g ≠ 0 ∧ compForm f c (lane0 c.g) = none ∧ freeCopy (stage id) c = some 0) &&
      (List.range 32).all (fun l => decide (xspAddress f c f.d l = 0)))
    && runsWith (stage id) (.scatter f) (fun c => decide (c.g ≠ 0 ∧ compForm f c (lane0 c.g) = none) &&
      (List.range 32).all (fun l => decide (xspAddress f c f.a l = 0)))) = true := by decide +kernel
/-- The last byte of a copy of 8 × 2 × 2 bytes, and the first. -/
theorem wit_copy_order : (7 < 8 ∧ 1 ≤ 1 ∧ 1 ≤ 1) ∧ (0 < 8 ∧ 0 ≤ 1 ∧ 0 ≤ 1) := by decide

/-- A copy of two chunks under way: 8,192 bytes from 0x10000 to 0x20000. -/
def bigCopy : CopyOp :=
  { task := loadedKey, warp := 0, pc := 0x10000, kind := .block 0x20000 0x10000 false false 8192 0 0 0 0 0 0, comp := .none, progress := 0,
    st := .going, seq := 0 }
def withCopy (o : CopyOp) (s : State) : State := setCore s 0 { getCore s 0 with copies := [(0, o)] }

theorem wit_chunk : (let s := withCopy bigCopy (stage id)
    decide (Store.find (getCore s 0).copies 0 = some bigCopy ∧ bigCopy.st = .going ∧ bigCopy.progress + 1 < chunkCount bigCopy.kind) &&
      vdRuns s (keyVd bigCopy.task) && opSeated s bigCopy.task (dstShared bigCopy.kind || srcShared bigCopy.kind || compShared bigCopy.comp)) = true := by
  decide +kernel
/-- The places of a copy's moves: the first two bytes of the copy above. -/
theorem wit_chunk_places : (let s := withCopy bigCopy (stage id)
    match (engPlaces { task := loadedKey, core := 0, unit := 6 } false false [(0x20000, 0x10000), (0x20001, 0x10001)] s).1 with
    | .ok l => l.all (fun e => decide (e.1 ≠ .peer ∧ e.2 ≠ .peer))
    | .error _ => false) = true := by decide +kernel
theorem wit_hints : runsWith (stage id) (.prefetch { raw un (.v 4) (.v 6) un 0 with g := g0 }) (fun c => decide (c.g = 0)) = true ∧
    runsWith (stage id) (.cinv (raw un (.v 4) (.v 6) un 0)) (fun c => decide (c.g ≠ 0)) = true ∧
    runsWith (stage id) (.cinv { raw un (.v 4) (.v 6) un 0 with g := g0 }) (fun c => decide (c.g = 0)) = true := by decide +kernel

/-! The matrix array. -/

/-- 05 R140: 2^60 and 1 and −2^60: the one is below the window of 48 bits, and is truncated away. -/
theorem test_mma_window : mmaSum fp32 48 [.fin false 1 60, .fin false 1 0, .fin true 1 60] = 0 := by decide +kernel
theorem test_mma_exact : mmaSum fp32 48 [.fin false 1 47, .fin false 1 0, .fin true 1 47] = 0x3F800000 := by decide +kernel

theorem wit_mma_sum : FVal.nan ∈ [FVal.nan] ∧ (FVal.inf true ∈ [FVal.inf true, .inf false] ∧ FVal.inf false ∈ [FVal.inf true, .inf false]) ∧
    (FVal.nan ∉ [FVal.inf true] ∧ FVal.inf true ∈ [FVal.inf true] ∧ FVal.inf (!true) ∉ [FVal.inf true]) := by decide +kernel
theorem wit_mma_exponent : IsGreatestExponent [.fin false 3 0, .fin true 0 9] 1 := by
  refine ⟨⟨false, 3, 0, by simp, by norm_num, by norm_num, by norm_num⟩, fun neg m e h => ?_⟩
  simp only [List.mem_cons, FVal.fin.injEq, List.not_mem_nil, or_false] at h
  rcases h with ⟨rfl, rfl, rfl⟩ | ⟨rfl, rfl, rfl⟩ <;> norm_num

def mmaForm (fmt : BitVec 4) (dtype : BitVec 2) : RMma := ⟨g7, .v 0, .v 32, .v 64, .v 96, fmt, dtype, false, false, false, 0⟩
/-- A warp whose scale words of A and B name the blocks of their lanes: 0 and 1, or 0 to 3 at FP4. -/
def scales (fp4 : Bool) (w : Warp) : Warp :=
  (List.range 32).foldl (fun w l =>
    let x : Word := if fp4 then (if l < 16 then 0x00010000 else 0x00030002) else if l < 16 then 0 else 1
    setV (setV w 40 l x) 72 l x) w
def noFault (k : BitVec 4) (f : Warp → Warp) : Bool :=
  runsWith (stage f) (.mma (mmaForm k 0)) (fun c => decide (scaleFault false (mmaForm k 0) c.w (mmaRead false (mmaForm k 0) c.w) = none))
/-- Every format of `MMA`; of them the scaled ones meet scale words of the blocks of their lanes. -/
theorem wit_mma : ([0, 1, 6, 7, 8, 9, 11, 12, 13] : List (BitVec 4)).all (fun k => noFault k id) = true ∧
    ([2, 3, 4, 5] : List (BitVec 4)).all (fun k => noFault k (scales false)) = true ∧ noFault 10 (scales true) = true := by decide +kernel
theorem wit_mmas : runsWith (stage id) (.mmas (mmaForm 0 0)) (fun c => decide (scaleFault true (mmaForm 0 0) c.w (mmaRead true (mmaForm 0 0) c.w) = none
      ∧ sparseFault (mmaForm 0 0) (mmaRead true (mmaForm 0 0) c.w) = none)) = true := by decide +kernel
/-- A scale word of another block. -/
theorem wit_scale_fault : runsWith (stage (fun w => { w with kbc := 5 })) (.mma (mmaForm 2 0)) (fun c =>
    (scaleFault false (mmaForm 2 0) c.w (mmaRead false (mmaForm 2 0) c.w)).isSome) = true := by decide +kernel

/-- 10 R283: `TRN` rounds FP32 elements to BF16; lane 0 takes elements of its own string. -/
theorem test_trn : (warpAfter (stage (fun w => setV w 8 0 0x3F800000)) (.trn { arith (.v 0) (.v 8) (.v 16) un 0 with ty := .bf16 })).map
    (fun w => (getV w 0 0).extractLsb' 0 16) = some 0x3F80 := by decide +kernel

theorem wit_trn : ([0, 1] : List (BitVec 4)).all (fun k => runsWith (stage id) (.trn { arith (.v 0) (.v 8) (.v 16) un k with ty := .bf16 }) (fun c =>
      decide (c.w.fpmode = 0))) = true ∧
    runsWith (stage (fun w => { setV w 8 0 0x7FC00000 with fpmode := 7 })) (.trn { arith (.v 0) (.v 8) (.v 16) un 0 with ty := .bf16 }) (fun c =>
      decide (c.w.fpmode.getLsbD 2 = true ∧ c.w.fpmode.getLsbD 0 = true)) = true := by decide +kernel

def tile (tr : BitVec 2) (sp : Space) : RLdm := ⟨g7, .v 0, .k 4, .k 6, un, 0, tr, sp, .relaxed, 2, false⟩
theorem wit_tiles : ([0, 1, 2] : List (BitVec 2)).all (fun tr => ([.die, .shared] : List Space).all (fun sp =>
    let s := stage (fun w => { w with kregs := [(6, 64)] })
    runsWith s (.ldm (tile tr sp)) (fun c => match checkAccess s c sp (tileAlign (tile tr sp)) 0 needR ((allTileAccesses (tile tr sp) c.w).map Prod.fst) with
      | (.ok l, s₁) => decide (lostAccs s₁ c 2 l = [])
      | _ => false) &&
    (tr ≠ 0 || runsWith s (.stm (tile tr sp)) (fun c => match checkAccess s c sp (tileAlign (tile tr sp)) 0 needW ((allTileAccesses (tile tr sp) c.w).map Prod.fst) with
      | (.ok _, _) => true
      | _ => false)))) = true := by decide +kernel

/-! The gather-accumulate engine. -/

def gctx0 : GaeCtx := { a := 0, b := 0, cfg := 0 }
def withGae (w : Warp) : Warp := { lane0Only w with gctx := some gctx0 }

/-- A context in range at its ends (one column, one activation, and one codebook entry), one out of range, and one misaligned. -/
theorem wit_gaset : runsWith (stageC id) (.gaset (raw un (.v 4) (.v 5) (.v 6) 0)) (fun c => decide (c.g ≠ 0 ∧
      (1 : Nat) * 1 * 4 ≤ c.kern.shmem ∧ 4 ≤ c.kern.constLen)) = true ∧
    runsWith (stageC (withRegs [(6, 0x00100000)])) (.gaset (raw un (.v 4) (.v 5) (.v 6) 0)) (fun c => decide (c.g ≠ 0 ∧ c.kern.constLen < 17 * 4)) = true ∧
    runsWith (stageC (withRegs [(4, 1)])) (.gaset (raw un (.v 4) (.v 5) (.v 6) 0)) (fun c => decide (c.g ≠ 0)) = true ∧
    runsWith (stageC id) (.gaset { raw un (.v 4) (.v 5) (.v 6) 0 with g := g0 }) (fun c => decide (c.g = 0)) = true := by decide +kernel
theorem wit_garow : runsWith (stageC withGae) (.garow { raw (.v 8) (.v 4) un un 0 with g := g0 }) (fun c =>
    decide (c.g ≠ 0 ∧ c.w.gctx = some gctx0) &&
      match checkAccess (stageC withGae) c .die 16 0 needR ((lanesOf c.g).map (fun k => { lane := k, addr := addressOf c.w .die (.v 4) 0 k, n := 4 })) with
      | (.ok _, s₁) => decide (freeGae s₁ c.core = some 0)
      | _ => false) = true := by decide +kernel
theorem wit_garun : (let f : RCopy := { copyForm (.v 4) 0 2 with ty := .dflt }
    runsWith (stageC withGae) (.garun f) (fun c =>
      decide (c.g ≠ 0 ∧ c.w.gctx = some gctx0 ∧ compForm f c (lane0 c.g) = none ∧ freeGae (stageC withGae) c.core = some 0) &&
        match checkAccess (stageC withGae) c (xspOf f) 16 2 needR (recordAccs (xspOf f) (xspAddress f c f.a (lane0 c.g)) 16 (lane0 c.g)) with
        | (.ok l, s₁) => decide (lostAccs s₁ c 0 l = [])
        | _ => false)) = true := by decide +kernel
theorem wit_gaq : ([0, 1, 2] : List (BitVec 4)).all (fun k => runsOk (stageC withGae) (.gaq (arith (.v 3) un un un k))) = true := by decide +kernel

/-- A `GAROW` of lanes 0 and 1 whose rows have one bunch without positions: its first row, and its last. -/
def rowOp (n : Nat) : GaeOp :=
  { task := loadedKey, warp := 0, pc := 0x10000, ctx := gctx0, book := [(0, false)], shmem := 65536, kind := .row 8 [(0, 0), (1, 0)],
    comp := .none, next := 0, progress := n, st := .going, seq := 0 }
def withRow (n : Nat) : State :=
  let s := putWord (stageC (fun w => { withGae w with blocked := .gae })) 0 0x80000000E0000000
  setCore s 0 { getCore s 0 with gaeq := [(0, rowOp n)] }
theorem wit_gae_row : ([0, 1] : List Nat).all (fun n => decide (gaeNext (withRow n) 0 = some (0, rowOp n)) &&
    (warpCtx (setCore (withRow n) 0 { getCore (withRow n) 0 with gaeTurn := 1 }) loadedKey 0).any (fun c =>
      decide (c.w.fpmode.getLsbD 2 = false) &&
      match (laneRow c gctx0 [(0, false)] n 0 (setCore (withRow n) 0 { getCore (withRow n) 0 with gaeTurn := 1 })).1 with
      | .ok _ => true
      | .error _ => false)) = true := by decide +kernel

/-! Traps, control registers, hints, queries and drains. -/

/-- The staged task under a kernel with an enabled handler, whose vector table at 0x7000 gives 0x18000 for TRAP, BKPT and DIVERGENCE. -/
def handlerKernel : Kernel := { loadedKernel with trapvec := 0x7001 }
def stageH (f : Warp → Warp) : State :=
  let s := setJob (stage f) { loadedJob with kernel := handlerKernel }
  putWord (putWord (putWord s (0x7000 + 8 * 0x21) 0x18000) (0x7000 + 8 * 0x20) 0x18000) (0x7000 + 8 * 0x06) 0x18000
def handling (w : Warp) : Warp := { w with handler := true }

/-- Whether a fault enters the handler at 0x18000. -/
def entersAt (s : State) (c : Ctx) (f : FaultInfo) : Bool :=
  decide (c.kern.trapvec.getLsbD 0 = true ∧ c.w.handler = false ∧ f.noHandler = false) && decide ((readVector s c.core c.t c.kern f).1 = .entry 0x18000)

/-- 11 R298 to R300: `TRAP` goes to its vector entry in handler mode. -/
theorem test_trap : (warpAfter (stageH id) (.trap ⟨g7, 0, 0, 5⟩)).map (fun w =>
    (w.pc, w.handler, w.trapCause)) = some (0x18000, true, 0x21) := by decide +kernel
/-- A warp in its handler whose frame gives the PC 0x10008 and the lanes 0xFF. -/
def framed (w : Warp) : Warp :=
  let a := spillSize handlerKernel - 2048
  putSpill (putSpill (handling w) (a + 0x40) 0 0x10008) (a + 0x48) 0 0xFF
/-- 11 R301: `ERET` goes back to the frame's PC, in the lanes that it names. -/
theorem test_eret : (warpAfter (stageH framed) (.eret (raw un un un un 0))).map (fun w => (w.pc, w.handler, w.active)) = some (0x10008, false, 0xFF) := by
  decide +kernel

theorem wit_trap : runsWith (stageH id) (.trap ⟨g7, 0, 0, 5⟩) (fun c => decide (c.g ≠ 0) && entersAt (stageH id) c (softTrap c ⟨g7, 0, 0, 5⟩)) = true ∧
    runsWith (stageH id) (.bkpt (raw un un un un 0)) (fun c => decide (c.g ≠ 0) && entersAt (stageH id) c (breakpoint c)) = true ∧
    runsWith (stageH id) (.bkpt { raw un un un un 0 with g := g0 }) (fun c => decide (c.g = 0)) = true := by decide +kernel
/-- A fault with a handler, one in a handler, one whose handler is off, and one without a vector entry. -/
def badDepth : FaultInfo := { cause := 0x06, detail := 1 }
def noEntry : FaultInfo := { cause := 0x05, detail := 1 }
def nopHere : Instr := .nop (raw un un un un 0)
theorem wit_delivery : (curCtx (stageH id) nopHere).any (fun c => entersAt (stageH id) c badDepth) = true ∧
    (curCtx (stageH handling) nopHere).any (fun c => c.w.handler) = true ∧
    (curCtx (stage id) nopHere).any (fun c => !c.kern.trapvec.getLsbD 0) = true ∧
    (curCtx (stageH id) nopHere).any (fun c => decide (c.w.handler = false ∧ c.kern.trapvec.getLsbD 0 = true) &&
      decide ((readVector (stageH id) c.core c.t c.kern noEntry).1 = .entry 0)) = true := by decide +kernel
theorem wit_eret : runsWith (stageH handling) (.eret (raw un un un un 0)) (fun c => decide (c.g ≠ 0)) = true ∧
    runsWith (stageH handling) (.eret { raw un un un un 0 with g := g0 }) (fun c => decide (c.g = 0)) = true := by decide +kernel
/-- A frame whose word of the resume PC is lost. -/
theorem wit_eret_lost : runsWith (stageH (fun w => { handling w with lostSpill := [(8 * (spillSize handlerKernel - 2048 + 0x40), true)] }))
    (.eret (raw un un un un 0)) (fun c => decide (c.g ≠ 0 ∧ lane0 c.g = 0) &&
      Store.get false c.w.lostSpill (8 * (frameOf c + 0x40) + 0)) = true := by decide +kernel
theorem wit_srw_read : ([0x000, 0x001, 0x002, 0x008, 0x010, 0x020, 0x022, 0x023] : List (BitVec 12)).all (fun sel =>
    runsOk (stage handling) (.srwRead (raw (.v 2) un un un sel))) = true := by decide +kernel
theorem wit_srw_write : ([0x808, 0x822, 0x823] : List (BitVec 12)).all (fun sel =>
      runsWith (stage handling) (.srwWrite (raw un (.v 2) un un sel)) (fun c => decide (c.g ≠ 0))) = true ∧
    runsWith (stage handling) (.srwWrite { raw un (.v 2) un un 0x808 with g := g0 }) (fun c => decide (c.g = 0)) = true := by decide +kernel
/-- 11 R304: START of an invalidation of the whole of stage 1. -/
theorem test_invalidation : nextWith (exec (.srwWrite (raw un (.v 2) un un 0x823)) (stage (fun w => handling (setV w 2 0 0xB)))) (fun t =>
    decide ((getVd t 0).invq.map (fun q => (q.stage2, q.size)) = [(false, 3)])) = true := by decide +kernel
theorem wit_illegal : (curCtx (stage id) (.unassignedWordFetch 12 255)).isSome = true ∧
    (curCtx (stage id) (.eret (raw un un un un 0))).any (fun c => decide (violations c.kern.encv (.eret (raw un un un un 0)) = [] ∧ c.w.handler = false)) = true ∧
    (curCtx (stage id) (.srwRead (raw (.v 2) un un un 0))).any (fun c =>
      decide (violations c.kern.encv (.srwRead (raw (.v 2) un un un 0)) = [] ∧ c.w.handler = false)) = true ∧
    (curCtx (stage handling) (.srwWrite (raw un (.v 2) un un 0x800))).any (fun c =>
      decide (violations c.kern.encv (.srwWrite (raw un (.v 2) un un 0x800)) = [] ∧ (0x800 : BitVec 12).toNat % 2 ^ 11 ∉ [0x008, 0x022, 0x023])) = true ∧
    (curCtx (stage (fun w => handling (setV w 2 0 4))) (.srwWrite (raw un (.v 2) un un 0x823))).any (fun c =>
      decide (violations c.kern.encv (.srwWrite (raw un (.v 2) un un 0x823)) = [] ∧ c.g ≠ 0 ∧ (src32 c.w (.v 2) (lane0 c.g)).getLsbD 2 = true)) = true := by
  decide +kernel
theorem wit_capt : ([0x00010001, 0xFFFF0000, 0x00010002] : List Word).all (fun x => runsOk (stage id) (.capt ⟨g7, 0, 0, x⟩)) = true := by decide +kernel
theorem wit_live : ([0, 1, 16, 17, 31] : List Word).all (fun n => runsWith (stage (withRegs [(1, n)])) (.live (raw (.v 3) (.v 1) un un 0)) (fun c =>
      decide (c.g ≠ 0 ∧ src32 c.w (.v 1) (lane0 c.g) = n))) = true ∧
    runsWith (stage id) (.live { raw (.v 3) (.v 1) un un 0 with g := g0 }) (fun c => decide (c.g = 0)) = true := by decide +kernel
theorem wit_queries : ([0, 1, 2, 3] : List (BitVec 12)).all (fun k => runsWith (stage id) (.capq (raw (.v 2) un un un k)) (fun c =>
      (getPart (stage id) (partOf c.t.vd)).isSome)) = true ∧
    ([0, 1, 2, 3, 4, 5] : List (BitVec 12)).all (fun k => runsOk (stage id) (.pmcr (raw (.v 2) un un un k)) &&
      runsWith (stage id) (.pmcrClr (raw (.v 2) un un un (k + 0x800))) (fun c => decide (c.g ≠ 0))) = true ∧
    runsWith (stage id) (.pmcrClr { raw (.v 2) un un un 0x805 with g := g0 }) (fun c => decide (c.g = 0)) = true := by decide +kernel
theorem wit_drain_slot : ([(Instr.drain (arith un (.v 1) un un 0)), .drainFree (arith un (.v 1) un un 1)]).all (fun i => runsWith (stage id) i (fun c =>
      decide (c.g ≠ 0) && (stage id).tasks.all (fun e => e.2.warps.all (fun w => w.lat.isNone)))) = true ∧
    runsWith (stage id) (.drain { arith un (.v 1) un un 0 with g := g0 }) (fun c => decide (c.g = 0)) = true := by decide +kernel

/-! The lattice. -/

/-- An image of one context whose tokens stand ready in cell 0 of core 0, current for its firing; its run and its core changed. -/
def fireState (t : TForm) (run : LatRun → LatRun) (core : Core → Core) : State :=
  let s := modWarp (loadBlock State.reset t) loadedKey 0 (fun w => { w with lat := w.lat.map run })
  { setCore s 0 (core (getCore s 0)) with agenda := [], latCur := some { core := 0, node := 0 } }

/-- Whether the context fires, and its firing has a property. -/
def firesWith (s : State) (t : TForm) (p : Firing → Bool) : Bool :=
  (cellPick s 0 0).any (fun f => decide (f.t = t ∧ s.latCur = some { core := f.core, node := f.node } ∧ f.node / 8 = 0 ∧ f.core = 0) && p f)
def tform (w : Nat) : TForm := getT (BitVec.ofNat 64 w)

def steerWord : TForm := { tform 0xf003036060000003 with arity := 2 }
def mergeWord : TForm := tform 0xf043036068000003
def wadvWord : TForm := tform 0xf08b036066000003
def fanWord : TForm := tform 0xf0cb036064000003
def tagpshWord : TForm := { tform 0xf11303606c000003 with arity := 1 }
def tagpopWord : TForm := { tform 0xf15b036068000003 with arity := 1 }
def bexitWord : TForm := { tform 0xf183036068000003 with arity := 1 }
def stContext : TForm := { tform 0x804b036064000003 with arity := 2 }
def injWord : TForm := tform 0xf1c3036062000003

/-- 11 R314: `STEER` sends the lanes whose predicate is not zero to the first target and the others to the second: here both are south
ports, whose tokens stand in flight. -/
theorem test_steer : nextWith (exec (.steer { steerWord with t1 := ⟨1, 0, 3⟩, t2 := ⟨2, 0, 3⟩ })
    (fireState { steerWord with t1 := ⟨1, 0, 3⟩, t2 := ⟨2, 0, 3⟩ } id (fun c => { c with
      store := c.store.map (fun e => if e.2.dest = .slot 0 1 then (e.1, { e.2 with data := 1 :: List.replicate 31 0 }) else e) })))
    (fun t => decide ((getCore t 0).flight.map (fun e => (e.2.dest, e.2.mask)) = [(.south 1 0, 1), (.south 2 0, 0xFFFFFFFE)])) = true := by
  decide +kernel

/-- Whether a firing's tokens stand in slots, in order. -/
def slotsAre (f : Firing) (l : List Nat) : Bool := decide (f.toks.map (fun x => x.dest) = l.map (fun n => Dest.slot f.node n))

theorem wit_firing_order : (cellPick (fireState fanWord id id) 0 0).isSome = true ∧
    (getCore (fireState fanWord id id) 0).store.all (fun e => decide (e.2.arr < 2 ^ 64)) = true ∧
    (firingsAt (fireState fanWord id id) 0 0).all (fun g => decide (((iterAt g.run g.level g.tag).map (fun it => it.stamp)).getD (2 ^ 32) < 2 ^ 33)) = true := by
  decide +kernel
theorem wit_steer_merge : firesWith (fireState steerWord id id) steerWord (fun f => slotsAre f [0, 1] && decide (f.t.top = 0)) = true ∧
    firesWith (fireState mergeWord id id) mergeWord (fun f => slotsAre f [0, 1]) = true ∧
    firesWith (fireState fanWord id id) fanWord (fun f => decide (f.toks.length = 1)) = true ∧
    firesWith (fireState injWord id id) injWord (fun f => decide (f.toks.length = 1 ∧ f.t.top = 0) &&
      ((getTask (fireState injWord id id) f.k).bind (fun x => getWarp x f.i)).isSome) = true := by decide +kernel
/-- `MERGE.first` sends each token alone. -/
theorem wit_merge_first : firesWith (fireState { mergeWord with imm := 1 } id id) { mergeWord with imm := 1 } (fun f => decide (f.toks.length = 1)) = true := by
  decide +kernel
/-- `WADV` with a token of no lane, with one of every lane, and under a drain whose boundary its result names. -/
theorem wit_wadv : firesWith (fireState wadvWord id (fun c => { c with store := c.store.map (fun e => (e.1, { e.2 with mask := 0 })) })) wadvWord (fun f =>
      decide (f.t.top = 1 ∧ f.toks.map (fun x => x.mask) = [0])) = true ∧
    firesWith (fireState wadvWord id id) wadvWord (fun f => decide (f.toks.map (fun x => x.mask) = [0xFFFFFFFF] ∧ f.run.drain = none)) = true ∧
    firesWith (fireState wadvWord (fun r => { r with drain := some (.preempt, { wslot := 0, islot := 0, o := 0, m := 0, i := 1 }, 0) }) id) wadvWord (fun f =>
      decide (f.toks.map (fun x => x.mask) = [0xFFFFFFFF] ∧ f.run.drain = some (.preempt, topTag f.t.top f.tag f.level))) = true := by decide +kernel
theorem wit_tagpsh : firesWith (fireState tagpshWord id id) tagpshWord (fun f => decide (f.t.top = 2 ∧ f.tag.o = 0 ∧ f.toks.length = 1 ∧ f.run.drain = none)
    && (iterAt f.run (f.level + 1) (topTag 2 f.tag f.level).1).isNone) = true := by decide +kernel
theorem wit_tagpop : firesWith (fireState tagpopWord id id) tagpopWord (fun f => decide (f.toks.length = 1 ∧ f.run.drain = none)) = true := by
  decide +kernel
/-- `BEXIT` where no lane leaves, and in an explicit block where every lane does. -/
theorem wit_bexit : firesWith (fireState bexitWord id id) bexitWord (fun f => (f.toks.map nonzeroOf == [0]) && decide (f.run.drain = none)) = true ∧
    firesWith (fireState bexitWord id (fun c => { c with
        store := c.store.map (fun e => (e.1, { e.2 with data := List.replicate 32 1 })), slots := c.slots.map (fun e => (e.1, { e.2 with expl := true })) }))
      bexitWord (fun f => (f.toks.map nonzeroOf == [0xFFFFFFFF]) && f.im.expl) = true := by decide +kernel
/-- Contexts of `ADD` with two tokens and no modifier, of `ADD` with an immediate, and of `ST`. -/
theorem wit_context : firesWith (fireState { tform 0x33036068000003 with arity := 2, immv := false, imm := 0 } id id)
      { tform 0x33036068000003 with arity := 2, immv := false, imm := 0 } (fun f =>
        slotsAre f [0, 1] && decide (f.t.immv = false ∧ f.t.imm = 0 ∧ plainResult f.t.op.toNat 1 2 0 = some 3)) = true ∧
    firesWith (fireState { tform 0x33036068000003 with arity := 1, immv := true, imm := 5 } id id) { tform 0x33036068000003 with arity := 1, immv := true, imm := 5 }
      (fun f => slotsAre f [0] && f.t.immv) = true ∧
    firesWith (fireState stContext id id) stContext (fun f => slotsAre f [0, 1] && decide (f.t.immv = false ∧ f.run.drain = none) &&
      (match tBase f.t with
        | some (.st _) => true
        | _ => false) && (getTask (fireState stContext id id) f.k).any (fun x =>
          (getJob (fireState stContext id id) x.vd (handleJob x.handle)).any (fun j => decide (j.vd = x.vd ∧ j.num = handleJob x.handle)))) = true := by
  decide +kernel

/-- A task of two warps, of which the second runs in the lattice. -/
def halfIn : State := stageT (fun t => { t with
  warps := t.warps ++ t.warps.map (fun w => { w with lat := getRun (loadBlock State.reset fanWord) loadedKey 0 }), wslots := [0, 1] })
theorem wit_tend_drains : runsWith halfIn (.tend (raw un (.v 2) (.v 4) un 0)) (fun c => decide (c.g ≠ 0 ∧ taskLattice halfIn c.k = [1])) = true := by
  decide +kernel
/-- 09 R254: the task is ending, and its lattice warp drains. -/
theorem test_tend_drains : nextWith (exec (.tend (raw un (.v 2) (.v 4) un 0)) halfIn) (fun t => (getTask t loadedKey).any (fun x =>
    decide (x.ending = some 0))) = true := by decide +kernel

/-- A token on its way to slot 1 of context 0, where its cell holds `n` general entries for context 1 and more. -/
def tag0 : Tag := { wslot := 0, islot := 0, o := 0, m := 0, i := 0 }
def token (node sl : Nat) (tag : Tag) : Token :=
  { dest := .slot node sl, tag := tag, level := 0, mask := 0xFFFFFFFF, w64 := false, data := List.replicate 32 0, mark := false, arr := 0, src := 64 }
def arriving (senior : Bool) (store : List (HoldPlace × Token)) : State :=
  fireState steerWord id (fun c => { c with flight := [(7, token 0 1 { tag0 with i := if senior then 0 else 1 })], store := store })
def full (n m : Nat) : List (HoldPlace × Token) :=
  List.replicate n (.general, token 1 0 tag0) ++ List.replicate m (.reserved, token 1 0 tag0)
/-- The partner's token, 29 and 30 general entries, 1 and 2 reserved ones: the senior iteration's token and another's. -/
theorem wit_arrival : ([(arriving true [(.general, token 0 0 tag0)]), arriving true (full 29 0), arriving true (full 30 1), arriving true (full 30 2),
      arriving false (full 30 0)]).all (fun s => (Store.find (getCore s 0).flight 7).any (fun t => !t.mark && !atMma s 0 t &&
        decide (t.dest = .slot 0 1) && firstOfPath s 0 7 t) && (match warpAtSlot s 0 0 with
          | some (k, i) => (getRun s k i).any (fun r => decide (r.drain = none ∧ operandSlots steerWord = [0, 1]))
          | none => false)) = true ∧
    (let s := setCore (arriving true []) 0 { getCore (arriving true []) 0 with flight := [(6, token 0 1 tag0), (7, token 0 1 tag0)] }
     (Store.find (getCore s 0).flight 7).any (fun t => decide (firstOfPath s 0 7 t = false))) = true ∧
    isSenior (arriving true (full 30 1)) 0 (token 0 1 tag0) = true ∧ isSenior (arriving false (full 30 0)) 0 (token 0 1 { tag0 with i := 1 }) = false := by
  decide +kernel

/-- 12 R326: the header beat of a token for cell 10, context 2, slot 1, and the data beats: 8, 16 of a 64-bit token, none of a marker. -/
theorem test_beats : headerBeat { token 82 1 tag0 with mask := 3 } = 2 ^ 105 + 2 * 2 ^ 102 + 10 * 2 ^ 96 + 3 * 2 ^ 64 ∧
    (tokenBeats (token 0 0 tag0)).length = 9 ∧ (tokenBeats { token 0 0 tag0 with w64 := true }).length = 17 ∧
    (tokenBeats { token 0 0 tag0 with mark := true }).length = 1 := by decide +kernel

/-- A `WADV` of level 0 with a token for its next iteration at the gate. -/
def gated : State :=
  let s := fireState wadvWord (fun r => r) (fun c => { c with store := [], gate := [(3, { token 0 0 { tag0 with i := 1 } with dest := .slot 0 0 })] })
  s
theorem wit_admission : (match (getCore gated 0).gate, warpAtSlot gated 0 0 with
    | (3, e) :: _, some (k, i) => (getTask gated k).any (fun x => (getRun gated k i).any (fun r => (imageAt gated 0 e.tag.islot).any (fun im =>
        decide ((Store.find im.nodes 0).map (fun w => w.top) = some 1) && (instOf r e.level (parentOf e.level e.tag)).any (fun li =>
          decide (e.tag.i = BitVec.ofNat 16 li.admitted ∧ li.admitted - li.committed < min x.ltlimit (Store.get 16 gated.ltcap 0))))))
    | _, _ => false) = true := by decide +kernel
theorem wit_admission_step : nextWith (exec (.wadvAdmit 0 { cell := 0, ctx := 0 }) gated) (fun t => decide (t ≠ gated)) = true := by decide +kernel

/-- An oldest iteration of which nothing is left, whose image has no memory token; and one whose memory token has not come. -/
def emptied (seqs : List (Nat × Nat × Nat)) (run : LatRun → LatRun) : State :=
  fireState fanWord run (fun c => { c with store := [], slots := c.slots.map (fun e => (e.1, { e.2 with seqs := seqs })) })
def atSlot (s : State) (p : Nat → Nat → LatRun → Image → Ctx → Bool) : Bool :=
  match warpAtSlot s 0 0 with
  | some (k, i) => (getRun s k i).any (fun r => (imageAt s 0 r.slot).any (fun im => (warpCtx s k i).any (fun c => p k i r im c)))
  | none => false
theorem wit_commit : atSlot (emptied [] id) (fun _ _ r _ c => (oldestIter r).any (fun it => decide (it.level = 0 ∧ r.drain = none ∧ r.held = [] ∧ c.core = 0) &&
      (imageAt (emptied [] id) 0 r.slot).any (fun im => match writeBars c (pendingWrites im it false) (emptied [] id) with
      | ((.ok, none), s₁) => (match writeEach c (pendingWrites im it false) s₁ with
        | .ok _ => decide (r.fence = none)
        | _ => false)
      | _ => false))) = true ∧
    atSlot (emptied [(0, 0, 0)] id) (fun _ _ r im _ => (oldestIter r).any (fun it => decide (it.level = 0) && im.seqs.any (fun e =>
      decide (e.2.2 = 0 ∧ e.2.1 < 64 ∧ it.toks = [])))) = true := by decide +kernel
/-- 12 R336: the iteration commits, and is counted. -/
theorem test_commit : nextWith (exec (.iterationCommit { core := 0, wslot := 0 }) (emptied [] id)) (fun t =>
    (warpOf t loadedKey 0).any (fun w => decide (w.iters = 1))) = true := by decide +kernel
/-- A load's token in an iteration, the next memory token of the program order. -/
def ldWord : TForm := tform 0x8033036064000003
def loadTok : MemTok := { seq := 0, word := ldWord, node := 0, mask := 1, addr := List.replicate 32 0, data := [], done := false, free := 0 }
def loading : State := emptied [(0, 0, 0)] (fun r => { r with iters := r.iters.map (fun it => { it with toks := [loadTok] }) })
theorem wit_load_issue : atSlot loading (fun _ _ r im c => match nextLoad [] (received im (progOrder loading 0 0 im r)), tBase ldWord with
    | some ([], _, m), some (.ld f) => decide (m = loadTok ∧ f.ty ≠ .b128 ∧ f.ann = .relaxed ∧ r.held = [] ∧ r.fence = none) &&
      (match checkAccess loading { c with g := m.mask } f.space (widthOf f.ty) 0 needR (memTokAccs f.space (widthOf f.ty) m) with
        | (.ok l, s₁) => decide (lostAccs s₁ { c with g := m.mask } f.scope.toNat l = [])
        | _ => false)
    | _, _ => false) = true := by decide +kernel

/-- Drains: none in progress; one whose boundary everything before has reached; one with an iteration before its boundary, and one with a
marker on its way. -/
def draining (n : Tag) (store : List (HoldPlace × Token)) : State :=
  fireState fanWord (fun r => { r with drain := some (.preempt, n, 0) }) (fun c => { c with store := store })
theorem wit_drain : atSlot (emptied [] id) (fun _ _ r _ _ => decide (r.drain = none ∧ r.watchdog < 2 ^ 20)) = true ∧
    atSlot (draining tag0 []) (fun _ _ r im c => decide (r.held = [] ∧ r.fence = none ∧ c.t.evicting = false ∧ r.exits = [] ∧ im.expl = false ∧ r.mask ≠ 0 ∧ c.w.blocked = .ready) &&
      r.iters.all (fun it => atOrAfter r tag0 0 it.tag it.level || encloses tag0 0 it.tag it.level)) = true ∧
    atSlot (draining { tag0 with i := 1 } []) (fun _ _ r _ _ => r.iters.any (fun it =>
      !atOrAfter r { tag0 with i := 1 } 0 it.tag it.level && !encloses { tag0 with i := 1 } 0 it.tag it.level)) = true ∧
    (coreTokens (getCore (draining tag0 [(.general, { token 0 0 tag0 with mark := true })]) 0) 0).any (fun y => y.mark) = true ∧
    atSlot (emptied [] (fun r => { r with watchdog := 2 ^ 20 })) (fun _ _ r _ _ => decide (2 ^ 20 ≤ r.watchdog)) = true := by decide +kernel
/-- 20 R491: at 2²⁰ core clocks without progress the watchdog takes the warp back. -/
theorem test_watchdog : nextWith (exec (.latticeWatchdog { core := 0, wslot := 0 }) (emptied [] (fun r => { r with watchdog := 2 ^ 20 }))) (fun t =>
    decide (getRun t loadedKey 0 = none)) = true := by decide +kernel

/-- A block of one `FAN` word behind its header at the entry, and its exit table's branch. -/
def blockHdr : BlockHdr := ⟨0, 1, 0, 1, 0⟩
def stageBlock : State := putWord (putWord (stage id) 0x10008 0xf0cb036064000003) 0x10010 0x301c0000000c0002
theorem wit_block : runsWith stageBlock (.blockEntry blockHdr) (fun c => (match (checkBlockAt stageBlock c blockHdr).1 with
      | .ok words _ => decide (words.length = 1)
      | _ => false) && decide ((getCore stageBlock c.core).slots = [] ∧ (getCore stageBlock c.core).barred = [])) = true := by decide +kernel
/-- 12 R343: the warp waits for the placer; an image placed makes it look again, and it enters. -/
def blockPlaced : State :=
  let s := match exec (.blockEntry blockHdr) stageBlock with
    | .next t => t
    | _ => stageBlock
  match exec (.placerDone 0 (.placed [] 0)) s with
  | .next t => { t with cur := some { task := loadedKey, warp := 0 } }
  | _ => s
theorem test_block_enters : (warpAfter blockPlaced (.blockEntry blockHdr)).any (fun w => w.lat.isSome) = true := by decide +kernel
theorem wit_block_resident : runsWith blockPlaced (.blockEntry blockHdr) (fun c => (getCore blockPlaced c.core).slots.any (fun e =>
    decide (e.2.vd = c.t.vd ∧ e.2.kdesc = c.kern.addr ∧ e.2.heads.getD 0 0 = c.w.pc ∧ e.2.expl = true ∧ e.2.withdrawn = false))) = true := by decide +kernel
theorem wit_block_placer : (match exec (.blockEntry blockHdr) stageBlock with
    | .next t => match (getCore t 0).places.find? (placerTakes t 0) with
      | some (.block k i _) => ((getTask t k).bind (fun y => getWarp y i)).isSome
      | _ => false
    | _ => false) = true := by decide +kernel

/-! Jig images. -/

/-- An image of one `ADD` context. -/
def smallImage : Image :=
  { vd := 0, kdesc := 0x2000, encv := 3, expl := false, tdepth := 1, heads := [0x10000], joins := [0x10010], ddepth := 0,
    nodes := [(0, tform 0x33036068000003)], livein := [(0, 0, 5, false, false)], carried := [], liveout := [], exits := [0x10010], seqs := [],
    rows := [], drain := [], checksum := [], fw := 1, fh := 1, origin := 0, captured := none, withdrawn := false, levels := [(0, 0)], afterPop := [] }
def smallBytes : List Byte := imageBytes smallImage 0 []
def stageImage (f : Warp → Warp) : State := { stage f with mem := wrList (stage f).mem ((leafPa (stage f) 0 0 0 0x4000).getD 0) smallBytes }
theorem wit_image_bytes : imageBad 3 smallBytes = none ∧ smallBytes.length % 64 = 0 := by decide +kernel
theorem wit_jigld : (let s := stageImage (fun w => { w with regs := [], kregs := [(2, 0x4000)] })
    runsWith s (.jigld (raw (.v 3) (.k 2) un un 0)) (fun c => decide (c.g ≠ 0 ∧ src32 c.w un (lane0 c.g) &&& 0xFFFFFEC0 = 0) &&
      match checkAccess s c .die 64 2 needR (jigPieces (lane0 c.g) 0x4000 0 2) with
      | (.ok ps, s₁) => decide (lostAccs s₁ c 0 ps = []) && decide (headBad c.kern.encv (jigHdr (readPieces s₁ c ps).1) = none) &&
          decide (!usesGae (parseImage c.t.vd smallBytes))
      | _ => false)) = true := by decide +kernel
def jigWaits : State :=
  let s := stage (fun w => { w with blocked := .jig })
  setCore s 0 { getCore s 0 with places := [.jig loadedKey 0 smallImage (some 0) (.v 3) 1] }
theorem wit_jigld_complete : decide (warpAtSlot jigWaits 0 0 = some (loadedKey, 0) ∧
    jigReq (getCore jigWaits 0) loadedKey 0 = some (.jig loadedKey 0 smallImage (some 0) (.v 3) 1)) = true := by decide +kernel
/-- 11 R307: the image is placed in slot 0 with code 0. -/
theorem test_jigld_complete : nextWith (exec (.jigldComplete { core := 0, wslot := 0 }) jigWaits) (fun t =>
    decide ((warpOf t loadedKey 0).map (fun w => getV w 3 0) = some 0) && (Store.find (getCore t 0).slots 0).isSome) = true := by decide +kernel
theorem wit_jigst : runsWith (stage id) (.jigst (raw (.v 3) (.v 4) (.v 6) un 0)) (fun c => decide (c.g ≠ 0) && (imageAt (stage id) c.core 0).isNone &&
      decide ((src64 c.w (.v 4) 0).toNat = 0)) = true ∧
    (let s := setCore (stage id) 0 { getCore (stage id) 0 with slots := [(0, smallImage)] }
     runsWith s (.jigst (raw (.v 3) (.v 4) (.v 6) un 0)) (fun c => decide (imageAt s c.core 0 = some smallImage) &&
      match (checkAccess s c .die 16 2 needW ((List.range (smallBytes.length / 16)).map (fun n => { lane := lane0 c.g, addr := ((16 * n : Nat) : Int), n := 16 }))).1 with
      | .ok _ => true
      | _ => false)) = true := by decide +kernel

/-! Launches, dispatch, time slices and adoption answers. -/

def loaded : State := loadTask State.reset
def vd0 (f : Vd → Vd) (s : State) : State := setVd s 0 (f (getVd s 0))
def part0 (f : Part → Part) (s : State) : State :=
  match getPart s 0 with
  | some p => setPart s 0 (f p)
  | none => s

/-- A queue at 0x8000 whose first record names the descriptor at 0x2000, 1 task on die 0, and futures at 0x5000. -/
def queued : State :=
  let s := vd0 (fun v => { v with qbase := 0x8000, rung := true }) loaded
  putWord (putWord (putWord (putWord (putWord (putWord s 0x2000 0x20010003) 0x2008 0x10000) 0x8040 0x2000) 0x8048 0x1000000000001) 0x8050 0x5000)
    0x8000 1

/-- 13 R357: the record becomes a job, HEAD advances, and the queue is empty after it. -/
def launched : State := (match exec (.launchAccept 0) queued with
  | .next t => t
  | _ => queued)
theorem test_launch : ((getJob launched 0 2).any (fun j => decide (j.ntask = 1 ∧ j.dies = [0] ∧ j.base = 0x5000)) && decide ((getVd launched 0).qhead = 1))
    = true := by decide +kernel
/-- 16 R417: numbers go upward from the last that was given, and come round to the lowest free one. -/
theorem test_job_numbers : freeJob launched 0 = 3 ∧ freeJob (vd0 (fun v => { v with jobLast := 16383 }) launched) 0 = 3 ∧
    freeJob (vd0 (fun v => { v with jobLast := 16383 }) loaded) 0 = 2 := by decide +kernel
theorem wit_tail : (getVd State.reset 0).en = false ∧ (getVd queued 0).en = true ∧ zalnaProduces queued 0 = false ∧
    zalnaProduces { queued with zlaunch := [(0, 0x8000000000000000)] } 0 = true := by decide +kernel
def tailIs (n : Nat) (s : State) : Bool :=
  match queueWords 0 1 (getVd s 0).qbase.toNat s with
  | (.ok l, _) => decide (l = [BitVec.ofNat 64 n])
  | _ => false
/-- Clauses: empty, past the ring, below HEAD, and one or a full ring of records. -/
theorem wit_launch_tail : (tailIs 1 launched && tailIs 1 queued && tailIs 17 (putWord queued 0x8000 17) && tailIs 16 (putWord queued 0x8000 16) &&
    tailIs 1 (vd0 (fun v => { v with qhead := 2 }) queued) && partAwake queued 0) = true := by decide +kernel
def judged (s : State) (p : Verdict → Bool) : Bool :=
  match queueWords 0 16 0x8040 s with
  | (.ok ws, s₂) => numberRoom s₂ 0 1 && (diesOf (recDies ws)).all (fun d => tableRoom s₂ d 1) && p (judge s₂ 0 ws).1
  | _ => false
theorem wit_launch_judged : (judged queued (fun v => match v with
      | .accept _ => true
      | _ => false) &&
    judged (putWord queued 0x8058 1) (fun v => decide (v = .refuse 2 3)) &&
    judged (putWord queued 0x2000 0x20010000) (fun v => decide (v = .version 0))) = true := by decide +kernel

/-- A launch table whose entry 0 admits the descriptor from source 7 with key 5. -/
def zalna : State := { queued with zlaunch := [(0, 0x8000000700000005), (1, 0x2000)] }
def zrecord : List Byte := (List.range 128).map (fun i => if i = 1 then 0x20 else 0)
theorem wit_zalna : zalnaUp zalna 0 = true ∧ zalnaUp zalna 8 = false ∧ hostMode zalna (partOf 0) 6 = false ∧ zrecord.length = 128 ∧ 0 ∈ zValid zalna ∧
    fld (zWord zalna 0 0) 57 48 = 0 ∧ fld (zWord zalna 0 0) 47 32 = 7 ∧ fld (zWord zalna 0 0) 31 0 = 5 ∧ zWord zalna 0 1 ≠ 0 ∧
    zWord zalna 0 1 = BitVec.ofNat 64 (bytesNat (zrecord.take 8)) ∧
    (queueTail zalna 0).toNat - (getVd zalna 0).qhead.toNat ≠ 2 ^ (getVd zalna 0).qlog ∧
    (queueTail (putWord zalna 0x8000 16) 0).toNat - (getVd zalna 0).qhead.toNat = 2 ^ (getVd zalna 0).qlog := by decide +kernel

/-- The job with its task not started, and the task parked and runnable. -/
def unplaced : State := { loaded with tasks := [] }
def parked : State := { loaded with tasks := loaded.tasks.map (fun e => (e.1, { e.2 with core := none, st := .parkedRunnable, wslots := [] })) }
def offered (s : State) (o : Offer) (c : Nat) : Bool :=
  match getPart s 0 with
  | some p => decide ((offers s 0 0 0).head? = some o) && decide (offerCore s p 0 o = some c) && decide (p.cur = some 0 ∧ p.switchTo = none ∧ p.clamp = .awake)
      && dieUp s 0
  | none => false
theorem wit_dispatch : offered unplaced (.fresh loadedJob 0) 0 = true ∧ offered parked (.resumed loadedKey) 0 = true ∧
    (∀ lv, lv < 4 → offers loaded 0 0 lv = []) := by decide +kernel
/-- 02 R44: the new task stands at its entry on core 0. -/
theorem test_placement : nextWith (exec (.taskPlacement 0 0) unplaced) (fun t => match getTask t loadedKey with
    | some x => decide (x.core = some 0 ∧ x.st = .running) && (getWarp x 0).any (fun w => decide (w.pc = 0x10000 ∧ w.launch = 0xFFFFFFFF))
    | none => false) = true := by decide +kernel
/-- A level-0 task that waits while a level-2 task fills the one core that runs. -/
def displaced : State :=
  let big : Kernel := { loadedKernel with shmem := 786432 }
  let s := { loaded with cores := (List.range 12).map (fun c => (c, { Core.empty with disabled := decide (c ≠ 0) })), timeNs := 10 ^ 9 }
  let s₁ := setJob (setJob s { loadedJob with prio := 2, kernel := big }) { loadedJob with num := 2, kernel := big, seq := 1 }
  part0 (fun p => { p with headWait := [(1, taskKey 0 (mkHandle 2 0), 0)] }) s₁
theorem wit_displace : (decide ((displaced.tasks.map Prod.fst).Nodup) && decide (taskLattice displaced loadedKey = []) && displaced.tasks.all (fun e => !e.2.evicting) &&
    match (offers displaced 0 0 0).head?, getPart displaced 0 with
    | some o, some p => headOverdue displaced 0 0 0 o && decide (offerCore displaced p 0 o = none) && (match offerKernel displaced o with
      | some (n, kn) => decide (headVictim displaced 0 0 n kn = some loadedKey)
      | none => false)
    | _, _ => false) = true := by decide +kernel

def twoVds : State := setJob (setVd loaded 1 { Vd.reset with en := true }) { loadedJob with vd := 1 }
theorem wit_slices : nextWithWork (part0 (fun p => { p with cur := none }) loaded) 0 15 = some 0 ∧ hasWork loaded 0 = true ∧
    sliceNs (getVd loaded 0) = 2000000 ∧ nextWithWork twoVds 0 0 = some 1 ∧ vdLattice twoVds 0 = [] ∧
    hasWork { twoVds with jobs := twoVds.jobs.filter (fun e => e.2.vd ≠ 0) } 0 = false ∧ partOf 1 = 0 ∧ unitsStopped twoVds 0 = true ∧
    unitsStopped (withRow 0) 0 = false := by decide +kernel
/-- 13 R370: at the end of its slice the VD begins to switch out. -/
theorem test_slice : nextWith (exec (.timeSliceEnd 0) { twoVds with timeNs := 2000000 }) (fun t => (getPart t 0).any (fun p => decide (p.switchTo = some 1)))
    = true := by decide +kernel

/-- The task waits and has asked for an adoption. -/
def asking : State :=
  let h := mkHandle 1 0
  let s := { loaded with tasks := loaded.tasks.map (fun e => (e.1, { e.2 with st := .waiting })) }
  setJob (vd0 (fun v => { v with adoptWait := h ||| 0x8000000000000000, adoptReqs := [h] }) s) { loadedJob with num := 2 }
theorem wit_adopt : (getVd asking 0).adoptWait.getLsbD 63 = true ∧ mkHandle 1 0 ∈ (getVd asking 0).adoptReqs ∧
    BitVec.ofNat 64 ((getVd asking 0).adoptWait.toNat % 2 ^ 48) = mkHandle 1 0 ∧
    (getTask asking loadedKey).isSome = true ∧ nestDepth asking loadedKey ≠ 4 ∧ ownerState asking 0 0 (mkHandle 2 0) = .unstarted 2 0 ∧
    handleJob (mkHandle 2 0) = 2 ∧ (getJob asking 0 2).any (fun j => decide (j.vd = 0 ∧ j.num = 2)) = true ∧
    (adopt asking loadedKey (.unstarted 2 0)).isSome = true ∧ ownerState asking 0 0 (mkHandle 3 0) = .other ∧
    (getVd asking 0).adoptReqs ≠ [] ∧ getTask loaded (taskKey 0 (mkHandle 3 0)) = none := by decide +kernel

/-! Translation, page requests, invalidations, the dirty log, growth and event queues. -/

/-- The second GiB of both stages: one 64 KiB page, whose leaf at window offset 0x150000 is `leaf`. -/
def pagedBy (leaf : DWord) : State :=
  putWord (putWord (putWord (putWord loaded 0x130008 0x400000FB) 0x110008 0x140001) 0x140000 0x150001) 0x150000 leaf
def paged : State := pagedBy 0x20001B
def winPa (s : State) (off : Nat) : Nat := (windowPa s 0 off).getD 0

theorem wit_walks : (windowPa paged 0 ((getVd paged 0).s2root.toNat + 8 * (2 ^ 30 / 2 ^ 39 % 512)) = some (winPa paged 0x100000) ∧
      windowPa paged 0 (teOa (rd64 paged (winPa paged 0x100000)) + 8 * (2 ^ 30 / 2 ^ 30 % 512)) = some (winPa paged 0x110008) ∧
      windowPa paged 0 (teOa (rd64 paged (winPa paged 0x110008)) + 8 * (2 ^ 30 / 2 ^ 21 % 512)) = some (winPa paged 0x140000) ∧
      windowPa paged 0 (teOa (rd64 paged (winPa paged 0x140000)) + 8 * (2 ^ 30 / 2 ^ 16 % 32)) = some (winPa paged 0x150000)) ∧
    ([0x100000, 0x110008, 0x140000].all (fun o => (rd64 paged (winPa paged o)).getLsbD 0 && !(rd64 paged (winPa paged o)).getLsbD 1) &&
      [0x100000, 0x110008, 0x140000, 0x150000].all (fun o => decide (paDie (winPa paged o) = some 0) && !poisoned paged (winPa paged o)) &&
      leaf2Ok paged 0 0x20001B && !leafReserved paged 0 0 0 0x200000 && [0x100000, 0x110008, 0x140000, 0x150000].all (fun o =>
        (unrestoredAt paged 0 (winPa paged o)).isNone) && decide (rd64 paged (winPa paged 0x150000) = 0x20001B)) = true := by decide +kernel
/-- 03 R95: a write to the page sets A and D in its leaf, and its address is the leaf's. -/
theorem test_walk : nextWith (exec (.tableWalk 0 0 0x40000008 needW) paged) (fun t =>
    decide (rd64 t (winPa paged 0x150000) = 0x2000DB) && decide ((translate t .none 0 0 0x40000008 needW true).1 = .ok 0 0 (leafPa t 0 0 0 0x200008))) = true := by
  decide +kernel
theorem wit_table_walk : ([needR, needW] : List Needs).all (fun n => walkable paged 0 0 0x40000000 && (tlbFind paged .none 0 0 0x40000000).isNone &&
    !(getVd paged 0).logen && match walkBoth paged 0 0 0x40000000 with
      | .ok (l₁, l₂, _) => decide (l₁.oa % l₁.size = 0 ∧ l₂.oa % l₂.size = 0 ∧ (l₁.pa + 8 ≤ l₂.pa ∨ l₂.pa + 8 ≤ l₁.pa) ∧
          n &&& ~~~(tePerms l₁.entry) = 0 ∧ n &&& ~~~(tePerms l₂.entry) = 0 ∧ teLoc l₂.entry = 0 ∧ teDie l₂.entry = 0 ∧
          (leafPa paged 0 0 0 (l₂.oa + 0 % l₂.size)).bind (unrestoredAt paged 0) = none)
      | .error _ => false) = true ∧ walkable paged 0 0 0x100000000000000 = false := by decide +kernel

theorem wit_event_queues : (let q : EventQueue := { EventQueue.reset with en := true, base := 0x1000 }
    let full := { q with tail := 64 }
    decide (q.en = true ∧ (q.tail - q.head).toNat < 2 ^ q.qlog) && decide (2 ^ full.qlog ≤ (full.tail - full.head).toNat) &&
    (let s := vd0 (fun v => { v with eq := q, held := [List.replicate 8 0] }) loaded
     decide ((getVd s 0).held = List.replicate 8 0 :: [])) &&
    (getPart (part0 (fun p => { p with eq := q, held := [List.replicate 8 0] }) loaded) 0).any (fun p => decide (p.held.length = 1) && p.eq.en)) = true := by
  decide +kernel
/-- 17 R428: a held entry is written once its queue has room. -/
theorem test_event_room : nextWith (exec (.eventQueueRoom (.vd 0))
    (vd0 (fun v => { v with eq := { EventQueue.reset with en := true, base := 0x1000 }, held := [List.replicate 8 7] }) loaded))
    (fun t => decide ((getVd t 0).eq.tail = 1 ∧ (getVd t 0).held = [] ∧ rd64 t (hostPa 0x1000) = 7)) = true := by decide +kernel

/-- The second page of the GiB is not mapped; the host ring of die 0 offers the frame 0x300000, or no ring is enabled. -/
def ringed : State :=
  let s := part0 (fun p => { p with ff := [(0, { FrameRing.reset with base := 0x1000, en := true, rd := true, w := true, tail := 1 })] }) paged
  wr64 s (hostPa 0x1000) 0x300000
theorem wit_page_fault : walkable ringed 0 0 0x40010000 = true ∧ (translate ringed .none 0 0 0x40010000 needW false).1 = .pageFault 2 3 0x40010000 ∧
    hostMode ringed 0 0 = false ∧ (hostRing ringed 0 0).kept = none ∧ (hostRing ringed 0 0).en = true ∧
    (hostRing ringed 0 0).head ≠ (hostRing ringed 0 0).tail ∧ hostFrameOk ringed 0 0 0x300000 = true ∧
    rdBytes ringed.mem (hostPa 0x1000) 8 = 0x300000 ∧
    (entry2Pa { ringed with mem := zeroPieces ringed.mem (framePieces ringed 0 0 0 0x300000) } 0 0 0x40010000 [0, 1, 2, 3]
      (getVd ringed 0).s2root.toNat).isSome = true ∧
    serviceFor paged 0 0 (.pageFault 2 3 0x40010000) = .request ∧ (getVd paged 0).tags = [] ∧
    walkRoom paged (lowBay paged 0 0) 0 (0x40010000 / 2 ^ 16) = true := by decide +kernel
/-- 19 R461: the frame's leaf is written with the ring's permissions; A and D are left to the walk. -/
theorem test_page_service : nextWith (exec (.pageFaultService 0 0 0x40010000 needW) ringed) (fun t =>
    decide (rd64 t (winPa paged 0x150008) = 0x30001B) && decide ((hostRing t 0 0).head = 1)) = true := by decide +kernel

def request : PageReq := { ipa := 0x40010000, va := 0x40010000, die := 0, needs := needR, perm := false, posted := true, pri := none, walks := [] }
/-- The task's warp, held on a request of tag 3. -/
def holding : State :=
  vd0 (fun v => { v with tags := [(3, request)] }) (modWarp paged loadedKey 0 (fun w => { w with blocked := .page [3] { cause := 0x03 } }))
theorem wit_answers : Store.find (getVd holding 0).tags 3 = some request ∧ (getVd holding 0).gen = 0 ∧ (0x30200000000 : DWord).toNat / 2 ^ 40 % 2 ^ 6 = 3 ∧
    (0x30200000000 : DWord).toNat / 2 ^ 32 % 2 ^ 2 = 2 ∧ (0x30100000000 : DWord).toNat / 2 ^ 32 % 2 ^ 2 = 1 ∧
    vdLattice holding 0 = [] ∧ vdCopies holding 0 = [] ∧ vdGaeq holding 0 = [] ∧ (getVd holding 0).devHeld = none ∧
    vdWarps holding 0 heldUntagged = [] ∧ vdWarps holding 0 (heldOn 3) = [(loadedKey, 0)] ∧ (getPart holding 0).isSome = true := by decide +kernel
/-- 19 R463: served, the warp looks again; 19 R465: an answer of another generation counts as stale. -/
theorem test_presp : nextWith (exec (.presp 0 0x30100000000) holding) (fun t => (warpOf t loadedKey 0).any (fun w => decide (w.blocked = .ready)) &&
      decide ((getVd t 0).tags = [])) = true ∧
    nextWith (exec (.presp 0 0x1030100000000) holding) (fun t => (getPart t 0).any (fun p => decide (p.stalecnt = 1))) = true := by decide +kernel
/-- A copy whose source is a page of host memory. -/
def hostCopy : State :=
  withCopy { bigCopy with kind := .block 0x20000 0x40000000 false false 8 0 0 0 0 0 0 } (pagedBy 0x080000000020001B)
/-- It waits for a PRI response under tag 5. -/
def priWaits : State :=
  vd0 (fun v => { v with tags := [(5, { request with ipa := 0x200000, pri := some 0 })] })
    (setCore hostCopy 0 { getCore hostCopy 0 with copies := (getCore hostCopy 0).copies.map (fun e => (e.1, { e.2 with st := .held 5 0x40000000 })) })
theorem wit_pri : (priWaits.cores.map Prod.fst).Nodup ∧ (∀ c ∈ priWaits.cores, (c.2.copies.map Prod.fst).Nodup) ∧
    (getVd priWaits 0).tags.find? (fun e => decide (e.2.ipa.toNat / 4096 = (0x200000 : DWord).toNat / 4096) && e.2.pri.isSome) =
      some (5, { request with ipa := 0x200000, pri := some 0 }) ∧
    ((Store.find (getCore priWaits 0).copies 0).any (fun o => decide (keyVd o.task = 0 ∧ o.st = .held 5 0x40000000))) = true := by decide +kernel
/-- 14 R392, 19 R464: served, the copy goes on; refused, it stops with subcause 6. -/
theorem test_pri : nextWith (exec (.priResponse 0 0 0x200000 0 0 true) priWaits) (fun t => decide (engineState t 0 0 = some .going)) = true ∧
    nextWith (exec (.priResponse 0 0 0x200000 0 0 false) priWaits) (fun t => decide (engineState t 0 0 = some (.stopped 0x10 6))) = true := by decide +kernel

def inval : Inval := { stage2 := false, va := 0x40000000, size := 0, root := 5 }
def invalidating (iv : Inval) : State :=
  vd0 (fun v => { v with invq := [iv] }) { paged with dtlb := [(0, [{ loadedTlb with base := 0x40000000, size := 2 ^ 16 }, loadedTlb])] }
theorem wit_inval : (getVd (invalidating inval) 0).invq = inval :: [] ∧ (getVd paged 0).invq = [] := by decide +kernel
/-- 11 R304: the page's translation goes and another stays; one of SIZE 3 takes all, and its root comes into use. -/
theorem test_inval : nextWith (exec (.invalidationComplete 0) (invalidating inval)) (fun t => decide (Store.get [] t.dtlb 0 = [loadedTlb] ∧
      (getVd t 0).s1eff = 0x120000)) = true ∧
    nextWith (exec (.invalidationComplete 0) (invalidating { inval with size := 3 })) (fun t => decide (Store.get [] t.dtlb 0 = [] ∧
      (getVd t 0).s1eff = 5)) = true := by decide +kernel

/-- A full log of 2^10 entries, and a warp held on it. -/
def logged : State :=
  vd0 (fun v => { v with logen := true, thr := true, dltail := 1024, dlFullSince := some 0 })
    { modWarp loaded loadedKey 0 (fun w => { w with blocked := .dirty }) with timeNs := 10 ^ 8 }
theorem wit_dirty : (getVd logged 0).dllog = 10 ∧ 7 * 2 ^ 10 ≤ 8 * ((1024 : DWord) - 128).toNat ∧ 8 * ((1024 : DWord) - 129).toNat < 7 * 2 ^ 10 ∧
    (getVd logged 0).dlFullSince = some 0 ∧ (getVd logged 0).logen = true ∧ 2 ^ 10 ≤ ((getVd logged 0).dltail - (getVd logged 0).dlhead).toNat ∧
    10 ^ 8 ≤ logged.timeNs - 0 ∧ (getVd loaded 0).dlFullSince = none := by decide +kernel
/-- 19 R478: at 7/8 the throttle stays, below it ends. -/
theorem test_dirty : nextWith (exec (.dlheadWrite 0 128) logged) (fun t => (getVd t 0).thr && (warpOf t loadedKey 0).any (fun w => decide (w.blocked = .dirty)))
      = true ∧
    nextWith (exec (.dlheadWrite 0 129) logged) (fun t => !(getVd t 0).thr && (warpOf t loadedKey 0).any (fun w => decide (w.blocked = .ready))) = true := by
  decide +kernel

/-- A warp held for a park record while growth on die 0 is asked of Firex, or of the host. -/
def growing (mode : DWord) : State :=
  part0 (fun p => { p with growReq := [0], pmode := mode }) (modWarp loaded loadedKey 0 (fun w => { w with blocked := .parkRoom { cause := 0x17 } }))
theorem wit_growth : (getPart (growing 0) 0).any (fun p => decide (0 ∈ p.growReq) && decide (Store.get 32768 p.parkCap 0 < 983040) && !p.pmode.getLsbD 2) = true ∧
    parkHolders (growing 0) 0 0 = [(loadedKey, 0, { cause := 0x17 })] ∧
    (getPart (growing 4) 0).any (fun p => p.pmode.getLsbD 2) = true ∧ pkgrowOk (growing 4) 0 0x100000000300000 = true ∧
    (0x100000000300000 : DWord).toNat / 2 ^ 56 = 1 ∧ (0x100000000300000 : DWord).toNat / 2 ^ 54 % 4 = 0 := by decide +kernel
theorem test_growth : nextWith (exec (.pkgrowGrant 0 0x100000000300000) (growing 4)) (fun t => (getPart t 0).any (fun p =>
      decide (Store.get 32768 p.parkCap 0 = 34816 ∧ p.growReq = []))) = true := by decide +kernel

def stoppedCopy : State := withCopy { bigCopy with st := .stopped 0x10 2 } loaded
theorem wit_engctl : engStopped stoppedCopy 0 0 0 = true ∧ engStopped stoppedCopy 0 0 1 = false ∧ engStopped stoppedCopy 0 12 0 = false ∧
    (getVd stoppedCopy 0).gen = 0 ∧ vdRuns stoppedCopy 0 = true ∧ vdRuns (part0 (fun p => { p with cur := some 1 }) stoppedCopy) 0 = false ∧
    Store.find (getCore stoppedCopy 0).copies 0 = some { bigCopy with st := .stopped 0x10 2 } := by decide +kernel
/-- 19 R468: resumed, the copy goes on; aborted, its entry frees. -/
theorem test_engctl : nextWith (exec (.engctlResume 0 0 0 0) stoppedCopy) (fun t => decide (engineState t 0 0 = some .going)) = true ∧
    nextWith (exec (.engctlAbort 0 0 0 0) stoppedCopy) (fun t => decide (engineState t 0 0 = none)) = true := by decide +kernel

/-! Virtual devices, CXL.mem, clamping and wake. -/

/-- VDCFG with EN, SLICE 20, QLOG 4 and IDLE 10, of a class; VD 1 of the partition, which does not exist yet. -/
def cfgWord (wcls qlog : Nat) : DWord := BitVec.ofNat 64 (2 ^ 63 + wcls * 2 ^ 61 + 20 * 2 ^ 53 + qlog * 2 ^ 49 + 10 * 2 ^ 41)
theorem wit_vds : (getPart loaded (partOf 1)).isSome = true ∧ (getVd loaded 1).en = false ∧ (getVd loaded 0).en = true ∧
    (cfgWord 1 4).getLsbD 63 = true ∧ (cfgWord 1 4).toNat / 2 ^ 61 % 4 = 1 ∧ (cfgWord 2 12).toNat / 2 ^ 49 % 2 ^ 4 = 12 ∧
    (cfgWord 3 4).toNat / 2 ^ 61 % 4 = 3 ∧ saveBlocks loaded 0 = [] ∧
    (getPart loaded 0).any (fun p => decide (((freeFar loaded 0).filter (fun b => !farLost loaded b)).length < saveNeed p)) = true ∧
    ((∀ e ∈ loaded.jobs, e.2.vd ≠ 1) ∧ (∀ e ∈ loaded.tasks, e.2.vd ≠ 1) ∧ (∀ e ∈ loaded.futs, e.1 ≠ 1)) ∧
    loaded.cores.all (fun e => decide (e.2.copies = [] ∧ e.2.gaeq = [])) = true ∧
    { loaded with jobs := [], tasks := [] }.cores = loaded.cores := by decide +kernel
/-- 14 R385: a VD of class W1 is created, one of class 3 is not, with CERR 1. -/
theorem test_vd_create : nextWith (exec (.vdCreate 1 (cfgWord 1 4)) loaded) (fun t => (getVd t 1).en && decide ((getVd t 1).gen = 1)) = true ∧
    nextWith (exec (.vdCreate 1 (cfgWord 3 4)) loaded) (fun t => !(getVd t 1).en && decide ((getVd t 1).cerr = 1)) = true := by decide +kernel

/-- The queue's VD holds no task. -/
def resting : State := { vd0 (fun v => { v with qbase := 0x8000 }) loaded with jobs := [], tasks := [], timeNs := 10 ^ 6 }
/-- A write of one whole sector at 0x200, one of TAIL, and one that misses the window. -/
theorem wit_cxl : partVds resting 0 = [0] ∧ zalnaProduces resting 0 = false ∧ (getPart resting 0).any (fun p => decide (p.clamp = .awake ∧ p.unrestored = [] ∧ p.hostq = [])) = true ∧
    (List.range 16).all (fun i => decide (hostByte resting 0 (0x200 + i) = some (0x200 + i) ∧ windowPa resting 0 (0x200 + i) ≠ none)) = true ∧
    queuePlace resting 0 0 = hostByte resting 0 0x8000 ∧ (hostByte resting 0 0x8000).isSome = true ∧
    windowPa resting 0 (2 ^ 40) = none ∧ poisoned { resting with poison := [(0x20, true)] } 0x200 = true := by decide +kernel
theorem test_cxl_write : nextWith (exec (.cxlMemWrite 0 0x200 (List.replicate 16 9)) { resting with poison := [(0x20, true)] }) (fun t =>
      decide (rdByte t.mem 0x20F = 9) && !poisoned t 0x200) = true ∧
    nextWith (exec (.cxlMemWrite 0 0x8000 [1]) resting) (fun t => (getVd t 0).rung) = true := by decide +kernel

/-- The partition without a current VD, its VD idle for 1 ms. -/
def idling (wcls : Nat) : State := vd0 (fun v => { v with wcls := wcls }) (part0 (fun p => { p with cur := none }) resting)
theorem wit_clamp : ([0, 1, 2] : List Nat).all (fun c => (getPart (idling c) 0).any (fun p => decide (p.clamp = .awake ∧ p.cur = none)) &&
      decide (partVds (idling c) 0 = [0] ∧ (getVd (idling c) 0).wcls = c ∧ (getVd (idling c) 0).idle = 10 ∧
        (getVd (idling c) 0).idle * 100000 ≤ (idling c).timeNs - (getVd (idling c) 0).idleSince) && vdIdle (idling c) 0) = true ∧
    Memory.wf (idling 2).mem = true ∧ (saveBlocks (idling 2) 0).Nodup ∧
    ({ idling 1 with timeNs := 999999 }).timeNs - (getVd (idling 1) 0).idleSince < (getVd (idling 1) 0).idle * 100000 ∧
    (getPart (part0 (fun p => { p with pmode := 16, proposal := some 3 }) (idling 1)) 0).any (fun p => p.pmode.getLsbD 4 && decide (p.proposal = some 3)) = true := by
  decide +kernel
theorem test_clamp : nextWith (exec (.clamp 0) (idling 1)) (fun t => (getPart t 0).any (fun p => decide (p.clamp = .clamped 1))) = true ∧
    nextWith (exec (.clamp 0) (part0 (fun p => { p with pmode := 16 }) (idling 1))) (fun t => (getPart t 0).any (fun p => decide (p.clamp = .awake ∧ p.proposal = some 0)))
      = true := by decide +kernel

def sleeping (cls : Nat) : State := part0 (fun p => { p with clamp := .clamped cls }) resting
def wakingUp (cls : Nat) : State := part0 (fun p => { p with clamp := .waking cls 0 (10 ^ 6) }) resting
def restoring : State := part0 (fun p => { p with unrestored := [(0, 2), (4, 8)], demand := [5] }) resting
theorem wit_wake : (getPart (sleeping 2) 0).any (fun p => decide (p.clamp = .clamped 2)) = true ∧
    (getPart (wakingUp 2) 0).any (fun p => decide (p.clamp = .waking 2 0 (10 ^ 6) ∧ railsShut (wakingUp 2) p = [] ∧ p.hostq = [])) = true ∧
    (10 ^ 6 + 1000 * 20000 - 10 ^ 6) / 1000 = 20000 ∧ (10 ^ 6 + 1000 * 201 - 10 ^ 6) / 1000 = 201 ∧
    (getPart restoring 0).any (fun p => decide (p.clamp = .awake ∧ p.unrestored.Pairwise (fun a b => a.2 ≤ b.1) ∧ (∀ e ∈ p.unrestored, e.1 < e.2) ∧
      (p.demand ++ p.unrestored.map Prod.fst).head? = some (0x50000 / 2 ^ 16) ∧ p.hostq = [] ∧
      (∃ e ∈ p.unrestored, e.1 ≤ 0x50000 / 2 ^ 16 ∧ 0x50000 / 2 ^ 16 < e.2))) = true := by decide +kernel
/-- 21 R501: a wake of class 0 that takes 201 µs is late. -/
theorem test_wake : nextWith (exec (.wakeComplete 0 201 []) (wakingUp 0)) (fun t => decide (t.firex.log.length = 1) &&
      (getPart t 0).any (fun p => decide (p.clamp = .awake))) = true ∧
    nextWith (exec (.wakeComplete 0 200 []) (wakingUp 0)) (fun t => decide (t.firex.log = [])) = true ∧
    nextWith (exec (.w2Restore 0 0x50000) restoring) (fun t => (getPart t 0).any (fun p => decide (p.unrestored = [(0, 2), (4, 5), (6, 8)] ∧ p.demand = []))) = true := by
  decide +kernel
/-- 14 R379: the ends of the windows of BAR0, and what lies between them. -/
theorem test_bar0 : bar0Window 0x28 = some (.mailbox, 0x28) ∧ bar0Window 0x30 = none ∧ bar0Window 0x01FFF8 = some (.launchTable, 0xFFF8) ∧
    bar0Window 0x13F0D8 = some (.part 63, 0xD8) ∧ bar0Window 0x140000 = none ∧ bar0Window 0x5FF058 = some (.host 1023, 0x58) := by decide
theorem wit_windows : (getPart loaded 0).isSome = true ∧ (getVd loaded 1).en = false ∧ (getVd loaded 0).en = true ∧ loaded.firex.move = none ∧
    loaded.firex.busy = false ∧ loaded.firex.running.isSome = true ∧ (1 : DWord).toNat % 256 = 1 := by decide +kernel

/-! Operating points, thermal stages, rails, dies, links, channels and data errors. -/

/-- 14 R404: a vote of 2 for region 0 sets its point; 14 R406: the power controller then halves the cap. -/
theorem test_vote : nextWith (exec (.pvoteWrite 0 2) loaded) (fun t => decide (pointOf t 0 = 2 ∧ pointOf t 1 = 0)) = true ∧
    nextWith (exec .powerLimitStep loaded) (fun t => decide (ltcapOf t 0 = 8 ∧ ltcapOf t 1 = 16)) = true := by decide +kernel
theorem wit_votes : 0 < 4 * dieCount loaded ∧ dieHot loaded 0 = false ∧ raisedIn loaded 0 = false ∧
    Store.get Rail.up loaded.rails 0 ≠ .disabled ∧ loaded.parts.any (fun e => e.2.bays.getLsbD 0 && decide (e.2.clamp = .awake)) = true ∧
    (∀ e ∈ (part0 (fun p => { p with clamp := .clamped 1 }) loaded).parts, e.2.clamp ≠ .awake) := by decide +kernel
/-- Caps above 1, caps at 1 with points below 4, and both at their ends. -/
def stepped (cap pt : Nat) : State := { loaded with ltcap := [(0, cap)], point := [(0, pt)] }
theorem wit_power : 1 < ltcapOf (stepped 2 0) 0 ∧ ltcapOf (stepped 1 3) 0 ≤ 1 ∧ pointOf (stepped 1 3) 0 = 3 ∧ pointOf (stepped 1 4) 0 = 4 ∧
    (List.range 16).all (fun j => !regionActive loaded j || decide (j = 0)) = true ∧ loaded.power = [] := by decide +kernel
theorem test_power_ends : nextWith (exec .powerLimitStep (stepped 1 4)) (fun t => decide (t = stepped 1 4)) = true ∧
    nextWith (exec .powerLimitStep (stepped 1 3)) (fun t => decide (pointOf t 0 = 4)) = true := by decide +kernel

theorem wit_thermal : 3 ≤ 3 ∧ 0 < dieCount loaded ∧ channelDie loaded 31 < dieCount loaded ∧ factorOf 0 ≠ factorOf 1 ∧ factorOf 2 = factorOf 3 := by
  decide +kernel
theorem test_thermal : nextWith (exec (.thermalStage false 0 3) loaded) (fun t => decide (pointOf t 3 = 4 ∧ t.firex.log.length = 1)) = true := by
  decide +kernel

def railed (x : Rail) : State := { resting with rails := [(0, x)] }
theorem wit_rails : railState resting 0 0 = some .up ∧ railState (railed .droop) 0 0 = some .droop ∧ railState (railed .shut) 0 0 = some .shut ∧
    nestsOn resting (railCores 0 0) = [] ∧ nestsOn loaded (railCores 0 0) ≠ [] := by decide +kernel
theorem test_rails : nextWith (exec (.railShut 0 0) loaded) (fun t => decide (getTask t loadedKey = none)) = true ∧
    nextWith (exec (.railRestart 0 0 false) (railed .shut)) (fun t => (getCore t 23).disabled && !(getCore t 24).disabled) = true := by decide +kernel
theorem wit_die : dieUp loaded 0 = true ∧ dieUp { loaded with lostDies := [(0, true)] } 0 = false ∧
    (∀ e ∈ loaded.jobs, e.1 = jobKey e.2.vd e.2.num) ∧ loaded.jobs.any (fun e => decide (0 ∈ e.2.dies)) = true := by decide +kernel
theorem test_die : nextWith (exec (.dieLost 0) loaded) (fun t => decide (t.tasks = [] ∧ t.jobs = []) && !dieUp t 0) = true := by decide +kernel

def lanes (n : Nat) : LinkState := { failed := List.range n, disabled := false }
theorem wit_lanes : 0 < boundCount loaded ∧ 500 ∉ (lanes 15).failed ∧ (lanes 15).groups = [] ∧
    Store.get linkReset { loaded with bounds := [(0, lanes 16)] }.bounds 0 = lanes 16 ∧ (lanes 15).failed.length < 16 ∧ 16 ≤ (lanes 16).failed.length ∧
    256 ≤ 512 - 32 * (((((lanes 16).failed ++ [500]).drop 16).map (fun m => m / 32)).dedup).length ∧
    512 - 32 * ((((List.range 16 ++ (List.range 8).map (fun i => 32 * i + 40) ++ [500]).drop 16).map (fun m => m / 32)).dedup).length < 256 ∧
    loaded.fit.fourDies = true ∧ loaded.fit.zports.getLsbD 7 = true ∧ (lanes 7).failed.length < 8 ∧ 8 ≤ (lanes 8).failed.length := by decide +kernel
theorem test_lanes : nextWith (exec (.boundaryLaneError 0 0 500) { resting with bounds := [(0, lanes 16)] }) (fun t =>
      decide (t.firex.log.length = 1 ∧ (Store.get linkReset t.bounds 0).disabled = false)) = true ∧
    nextWith (exec (.zalnaLaneError 7 0 500) { resting with zlinks := [(14, lanes 8)] }) (fun t => !zalnaUp t 7) = true := by decide +kernel

theorem wit_channels : (∀ e ∈ loaded.parts, e.2.pmode.getLsbD 5 = false) ∧ 0 < dieCount loaded ∧ Store.get false loaded.lostSlices 63 = false ∧
    Store.get 0 loaded.sparesUsed 0 < 4 ∧ 4 ≤ Store.get 0 { loaded with sparesUsed := [(0, 4)] }.sparesUsed 0 ∧ loaded.fit.farm = true ∧
    Store.get false loaded.lostFarCh 31 = false := by decide +kernel
theorem test_channels : nextWith (exec (.channelFault 0 63 [16]) resting) (fun t => decide (Store.get 0 t.sparesUsed 0 = 1) && poisoned t (63 * 2 ^ 30 + 16))
      = true ∧
    nextWith (exec (.channelFault 0 63 []) { resting with sparesUsed := [(0, 4)] }) (fun t => Store.get false t.lostSlices 63) = true := by decide +kernel

/-- Fourteen and fifteen transient errors of a core's cell within the second. -/
def counted (n : Nat) : State :=
  { resting with firex := { resting.firex with transient := [(placeUnit (.cell 0 5), List.replicate n 0)] } }
theorem wit_errors : ([14, 15] : List Nat).all (fun n => decide
      (((Store.get [] (counted n).firex.transient (placeUnit (.cell 0 5))).filter (fun t => decide ((counted n).timeNs - t ≤ 1000000000))).length = n)) = true ∧
    (warpOf loaded loadedKey 0).isSome = true ∧ (getTask loaded loadedKey).isSome = true ∧ dieUp loaded 0 = true := by decide +kernel
/-- 17 R422: the sixteenth fences the cell, and the fifteenth does not. -/
theorem test_sixteenth : nextWith (exec (.dataErrorDetected (.cell 0 5) 0 false) (counted 15)) (fun t => (getCore t 0).badcell.getLsbD 5) = true ∧
    nextWith (exec (.dataErrorDetected (.cell 0 5) 0 false) (counted 14)) (fun t => !(getCore t 0).badcell.getLsbD 5) = true := by decide +kernel

def triaging : State := part0 (fun p => { p with pmode := 32 }) resting
def asked (x : ErrPlace) : State := part0 (fun p => { p with triage := [{ num := 3, place := x }] }) triaging
theorem wit_triage : partOfCore triaging 0 = some 0 ∧ (getPart triaging 0).any (fun p => p.pmode.getLsbD 5) = true ∧ (getCore triaging 0).slots = [] ∧
    (getPart (asked (.cell 0 63)) 0).any (fun p => decide (p.triage = [{ num := 3, place := .cell 0 63 }] ∧ ∀ y ∈ p.triage, y.num ≠ 4)) = true ∧
    (getCore (asked (.cell 0 63)) 0).badcell.getLsbD 63 = false ∧
    Store.get false (asked (.dieSector 0 0)).lostSlices 0 = false := by decide +kernel
/-- 17 R429: in host-assisted triage the error is posted under a number, and the host's answer fences the cell. -/
theorem test_triage : nextWith (exec (.dataErrorDetected (.cell 0 63) 0 true) triaging) (fun t => (getPart t 0).any (fun p =>
      decide (p.triage = [{ num := 0, place := .cell 0 63 }])) && !(getCore t 0).badcell.getLsbD 63) = true ∧
    nextWith (exec (.triageFence 0 3) (asked (.cell 0 63))) (fun t => (getCore t 0).badcell.getLsbD 63) = true := by decide +kernel

/-! Firex. -/

theorem wit_parts : firexTakes loaded = true ∧ createOk loaded 1 2 [] = true ∧ farList loaded 0x1000 = [] ∧ (getPart loaded 0).isSome = true ∧
    getPart loaded 1 = none ∧ loaded.parts.any (fun e => decide (e.2.bays &&& 1 ≠ 0)) = true ∧
    firexTakes { loaded with firex := { loaded.firex with busy := true } } = false := by decide +kernel
/-- 14 R377: bay 1 becomes partition 1, and bay 0, which partition 0 has, does not. -/
theorem test_pcreate : nextWith (exec (.pcreate 1 2 0x1000 0) loaded) (fun t => (getPart t 1).any (fun p => decide (p.bays = 2)) && decide (t.firex.code = 0)) = true ∧
    nextWith (exec (.pcreate 1 1 0x1000 0) loaded) (fun t => (getPart t 1).isNone) = true := by decide +kernel
theorem test_pdestroy : nextWith (exec (.pdestroy 0) loaded) (fun t => decide (t.parts = [] ∧ t.mem = [] ∧ (getVd t 0).en = false)) = true := by
  decide +kernel

/-- Partition 0 owns blocks 3 and 7; partition 1 has bay 1. -/
def owning : State :=
  let s := setPart resting 1 (newPart 2 0)
  { s with firex := { s.firex with farOwner := [(3, 0), (7, 0)] } }
def moving : State :=
  { owning with firex := { owning.firex with busy := true, move := some { src := 0, dst := 1, blocks := [7], step := 2, since := 0 } } }
theorem wit_capmove : firexTakes owning = true ∧ (farBlocks owning 0).Pairwise (fun a b => a < b) ∧ (freeFar owning 0).length = 2 ∧
    (getPart owning 1).isSome = true ∧ moving.firex.move.isSome = true ∧ 10000000000 ≤ { moving with timeNs := 10 ^ 10 }.timeNs - 0 ∧
    moving.timeNs - 0 < 10000000000 := by decide +kernel
/-- 14 R381: the highest block is asked for, and after the confirmation belongs to the other partition. -/
theorem test_capmove : nextWith (exec (.capmove 0 1 1) owning) (fun t => t.firex.move.any (fun m => decide (m.blocks = [7]))) = true ∧
    nextWith (exec (.capmoveConfirm none) moving) (fun t => decide (Store.find t.firex.farOwner 7 = some 1 ∧ Store.find t.firex.farOwner 3 = some 0)) = true := by
  decide +kernel

/-- Host memory that Firex reaches at 0x1000; and host memory that the host does not give it. -/
theorem wit_attest : firexTakes loaded = true ∧ firexReach loaded 0x1000 256 = true ∧ firexReach { loaded with ats := [(1024 * 2 ^ 52 + 1, none)] } 0x1000 256 = false ∧ loaded.firex.running = some 0 ∧
    (Store.find loaded.firex.slots 0).any (fun x => decide (x.digest.length = 64)) = true ∧
    Store.find { loaded with firex := { loaded.firex with slots := [] } }.firex.slots 0 = none := by decide +kernel
/-- A staged image of version 5 in slot 1 that asks for a raise, running and not yet healthy. -/
def booted (fell : Bool) : State :=
  { resting with timeNs := 10 ^ 9, firex := { resting.firex with
      slots := resting.firex.slots ++ [(1, { version := 5, digest := List.replicate 64 1, raise := true, order := 1 })]
      running := some 1, healthy := false, fellBack := fell, fences := [(0, 32)] } }
theorem wit_firmware : (booted false).firex.running = some 1 ∧ (Store.find (booted false).firex.slots 1).isSome = true ∧
    (booted false).firex.healthy = false ∧ 1000000000 ≤ (booted false).timeNs - (booted false).firex.bootAt ∧
    ((booted false).firex.fences.map Prod.fst).Nodup ∧ (booted false).firex.slots.any (fun e => decide (e.1 ≠ 1 ∧ (booted false).firex.counter.toNat ≤ e.2.version.toNat))
      = true := by decide +kernel
/-- 21 R516: a healthy report raises the counter; without one the other slot runs, once; reset keeps fences and runs the newest slot. -/
theorem test_firmware : nextWith (exec .fwHealthyReport (booted false)) (fun t => decide (t.firex.counter = 5)) = true ∧
    nextWith (exec .fwHealthTimeout (booted false)) (fun t => decide (t.firex.running = some 0 ∧ t.firex.counter = 0)) = true ∧
    nextWith (exec .fwHealthTimeout (booted true)) (fun t => decide (t.firex.running = none)) = true ∧
    nextWith (exec .powerOnReset (booted false)) (fun t => decide (t.firex.running = some 1 ∧ (getCore t 0).badcell = 32)) = true := by decide +kernel
theorem wit_errlog : firexTakes loaded = true ∧ firexReach loaded 0x1000 (64 * min 4096 2) = true ∧ getPart loaded 0xFF = none ∧ (getPart loaded 0).isSome = true ∧ getPart loaded 1 = none := by decide +kernel
theorem test_errlog : nextWith (exec (.errlog 0 0x1000 2) { resting with firex := { resting.firex with log := [([1], [1]), ([0], [7, 8]), ([0], [9]), ([0], [3])] } })
    (fun t => decide (rd64 t (hostPa 0x1000) = 7 ∧ rd64 t (hostPa 0x1010) = 9 ∧ rd64 t (hostPa 0x1018) = 0 ∧ Store.get 0 t.firex.args 0 = 2)) = true := by
  decide +kernel

/-! The words that the text writes out, by family; the words of the warp and copy families are written from R152 to R158. -/

/-- `ADD v3, v1, k4` (06), `DIV.z32` (07). -/
theorem test_word_int : decodeTableWord 64 0x001C0C0410010000 = some (.add (arith (.v 3) (.v 1) (.k 4) un 0)) ∧
    decodeTableWord 64 0x021C241014000800 = some (.div { arith (.v 9) (.v 4) (.v 5) un 0 with ty := .z32 }) := by decide
theorem test_word_logic : decodeTableWord 64 0x115C1C04080C0258 = some (.blut (raw (.v 7) (.v 1) (.v 2) (.v 3) 0x96)) := by decide
/-- `MOVI v8, 0x40490FDB` (06) and `SETP` (07). -/
theorem test_word_move : decodeTableWord 64 0x211C200101243F6D = some (.movi ⟨g7, 8, 0, 0x40490FDB⟩) ∧
    decodeTableWord 64 0x201D0810011DC008 = some (.setp (arith (.p 2) (.v 4) (.k 0) (.p 7) 2)) := by decide
/-- `p0? BRA` by −5 words with its join 3 words on (06). -/
theorem test_word_control : decodeTableWord 64 0x3003FFFFFFEC000E = some (.bra ⟨g0, 0xFFFFFFFB, 3⟩) := by decide
/-- `ACTM v1`: opcode 0x105, guard 7, d = 1 × 2⁴². -/
theorem test_word_warp : decodeTableWord 64 0x415C040000000000 = some (.actm (arith (.v 1) un un un 0)) := by decide
theorem test_word_float : decodeTableWord 64 0x50DC28080C280140 = some (.ffma { arith (.v 10) (.v 2) (.v 3) (.v 10) 0 with rm := .rz, ftz := true }) := by
  decide
theorem test_word_double : decodeTableWord 64 0x641C502013FD8048 = some (.tmv ⟨g7, .v 20, .v 8, .k 4, .vz, .dflt, 1, 2⟩) := by decide
theorem test_word_convert : decodeTableWord 64 0x705C301018010000 = some (.cvtn ⟨g7, .v 12, .v 4, .k 6, un, .dflt, .rn, false, false, false, 0⟩) := by
  decide
/-- `LD.b32.acq.die v20, [v4:v5+0x40]` (06), `ST.b64.rel.die [v6:v7+8], v10:v11` (09). -/
theorem test_word_load : decodeTableWord 64 0x801C501001000050 = some (.ld ⟨g7, .v 20, .v 4, 0x40, 0, .dflt, .die, .acq, 2, 0⟩) ∧
    decodeTableWord 64 0x805C281800201090 = some (.st ⟨g7, .v 10, .v 6, 8, 0, .z64, .die, .rel, 2, 0⟩) := by decide
theorem test_word_atomic : decodeTableWord 64 0x901C2008240000D0 = some (.atomAdd ⟨g7, .v 8, .v 2, .v 9, un, .dflt, .die, .ar, 2, 0⟩) := by decide
/-- `FGET v4:v5, [v2:v3]` (09), and `FENCE` of scope 2: opcode 0x280. -/
theorem test_word_sync : decodeTableWord 64 0xA0DC100800000000 = some (.fget (sync (.v 4) (.v 2) un un .die 0)) ∧
    decodeTableWord 64 0xA01C000000000010 = some (.fence ⟨g7, un, un, un, un, .dflt, .die, .relaxed, 2, 0⟩) := by decide
/-- `COPY [v4:v5]` without a completion future: opcode 0x2C0, a = 4 × 2³⁴, b = `vz`, FSP 2. -/
theorem test_word_copy : decodeTableWord 64 0xB01C0013FC010020 = some (.copy { copyForm (.v 4) 0 2 with b := .vz }) := by decide
/-- `MMA.f8a.f8b.bf16.blk16.kz` and `LDM.w32.t16.shared` (10). -/
theorem test_word_matrix : decodeTableWord 64 0xC01C800043FC8E60 = some (.mma ⟨g7, .v 32, .v 0, .v 16, .vz, 3, 2, false, true, true, 0⟩) ∧
    decodeTableWord 64 0xC09C20080C031500 = some (.ldm ⟨g7, .v 8, .k 2, .k 3, un, 1, 1, .shared, .relaxed, 0, false⟩) := by decide
/-- `GASET k4, k5, k6` and `p1? GAROW v20, v2:v3` (10). -/
theorem test_word_bunched : decodeTableWord 64 0xD01C0010141B8000 = some (.gaset (raw un (.k 4) (.k 5) (.k 6) 0)) ∧
    decodeTableWord 64 0xD044500800000000 = some (.garow { raw (.v 20) (.v 2) un un 0 with g := ⟨false, 1⟩ }) := by decide
/-- `SRW v6, cr.frame` and `CAPT.force` three words on (11). -/
theorem test_word_system : decodeTableWord 64 0xE0DC180000000004 = some (.srwRead (raw (.v 6) un un un 1)) ∧
    decodeTableWord 64 0xE11C0000000C0005 = some (.capt ⟨g7, 0, 0, 0x30001⟩) := by decide
/-- `STEER c10.2.a, c11.0.a` (11), `WADV.inc` (12), `ADD.inc c27.5.a, c28.0.b` and a header (06). -/
theorem test_word_lattice : decodeTableWord 64 0xF001482C08000003 = some (.steer ⟨0x3C0, 0, ⟨10, 2, 0⟩, ⟨11, 0, 0⟩, 2, false, 0⟩) ∧
    decodeTableWord 64 0xF088C1606600000B = some (.wadv ⟨0x3C2, 1, ⟨6, 0, 1⟩, ⟨24, 0, 3⟩, 1, true, 2⟩) ∧
    decodeTableWord 64 0x000B747028000003 = some (.contextFiring ⟨0, 1, ⟨27, 5, 0⟩, ⟨28, 0, 1⟩, 2, false, 0⟩) ∧
    decodeTableWord 64 0xFFC000000111180F = some (.blockEntry ⟨4, 1, 1, 24, 3⟩) := by decide

/-! A word or term that each check of R439 refuses. -/

def refusedAs (ver : Nat) (block : Bool) (w : Nat) (e : Nat × Nat) : Bool :=
  match decodeWord ver block (BitVec.ofNat 64 w) with
  | .ok _ => false
  | .error x => decide (x = e)
def badAs (ver : Nat) (i : Instr) (e : Nat × Nat) : Bool := decide (firstViol (violations ver i) = some e)

/-- Reasons 1 to 5, the last word being R441's example. -/
theorem test_illformed_word : refusedAs 3 false 0xFC00000000000000 (1, 6) = true ∧ refusedAs 3 false 0x001C000000000002 (2, 6) = true ∧
    refusedAs 3 false 0x315C040000000000 (3, 0) = true ∧
    refusedAs 3 false 0x003C0C0410010000 (5, 5) = true ∧ refusedAs 1 false 0x003C0C0410010000 (5, 5) = true := by decide
/-- Reasons 3, 4, 6, 7 and 8 by field. -/
theorem test_illformed_term : badAs 3 (.add (arith (.v 3) (.v 1) (.k 4) (.v 1) 0)) (3, 3) = true ∧
    badAs 3 (.add (arith (.v 3) (.bad 0x48) (.k 4) un 0)) (4, 1) = true ∧ badAs 3 (.add (arith (.k 3) (.v 1) (.k 4) un 0)) (4, 0) = true ∧
    badAs 3 (.add { arith (.v 3) (.v 1) (.k 4) un 0 with ty := .f32 }) (6, 4) = true ∧
    badAs 3 (.add { arith (.v 3) (.v 1) (.k 4) un 0 with rm := .rz }) (7, 4) = true ∧
    badAs 3 (.add { arith (.v 2) (.v 1) (.k 4) un 0 with ty := .s64 }) (8, 1) = true ∧
    badAs 3 (.mma (mmaForm 0xE 0)) (7, 4) = true ∧ badAs 3 (.copy (copyForm (.v 4) 2 2)) (7, 4) = true ∧
    badAs 3 (.capt ⟨g7, 0, 0, 0x10003⟩) (7, 4) = true ∧ badAs 3 (.srwRead (raw (.v 6) un un un 0x7FF)) (7, 4) = true := by decide
/-- Reason 9: `TMV` under version 2 and `GASET` under version 1; reason 10 in a block; reason 11 outside; reason 12 of a header. -/
theorem test_illformed_later : refusedAs 2 false 0x641C502013FD8048 (9, 6) = true ∧ refusedAs 1 false 0xD01C0010141B8000 (9, 6) = true ∧
    refusedAs 2 false 0xD01C0010141B8000 (9, 6) = false ∧ refusedAs 3 true 0x308B606064000003 (10, 6) = true ∧
    badAs 3 (.steer ⟨0x3C0, 0, ⟨10, 2, 0⟩, ⟨11, 0, 0⟩, 4, false, 0⟩) (10, 11) = true ∧
    badAs 3 (.contextFiring ⟨0, 2, ⟨27, 5, 0⟩, ⟨28, 0, 1⟩, 2, false, 0⟩) (10, 10) = true ∧
    badAs 3 (.contextFiring ⟨0, 1, ⟨24, 1, 3⟩, ⟨28, 0, 1⟩, 2, false, 0⟩) (10, 7) = true ∧
    refusedAs 3 false 0xF001482C08000003 (11, 6) = true ∧ badAs 3 (.blockEntry ⟨8, 1, 1, 24, 3⟩) (12, 9) = true ∧
    badAs 3 (.blockEntry ⟨4, 0, 1, 24, 3⟩) (12, 9) = true := by decide

/-! The machine. -/

theorem wit_encode : encode (.add (arith (.v 3) (.v 1) (.k 4) un 0)) = some 0x001C0C0410010000 ∧
    violations 3 (.add (arith (.v 3) (.v 1) (.k 4) un 0)) = [] ∧ tOpMatches (.add (arith (.v 3) (.v 1) (.k 4) un 0)) = true ∧
    violations 3 (.add (arith (.v 3) (.v 1) (.k 4) un 0)) ≠ violations 3 (.add (arith (.k 3) (.v 1) (.k 4) un 0)) := by decide

/-- `NOP` ready on bench 0 of core 0, and a word that no rule assigns. -/
def readyWord (w : Nat) : State := { State.reset.withFetchWord 64 w with agenda := [] }
def fetchesAt (s : State) (p : DWord → Bool) : Bool :=
  match pickWarp ((benchWarpsOf s 0 0).filter (warpReady s)) with
  | none => false
  | some b =>
    let s₁ := modWarp s b.k b.i beforeFetch
    match getTask s₁ b.k with
    | none => false
    | some t => match getWarp t b.i, taskKernel s₁ t with
      | some w, some kn => match loadConst s₁ 0 b.k b.i t w kn with
        | (none, s₂) => coreRuns s 0 && w.raised.isNone && match (fetchWord s₂ 0 b.k b.i t w w.pc).1 with
          | .word x => p x
          | _ => false
        | _ => false
      | _, _ => false
theorem wit_step : fetchesAt (readyWord 0x315C000000000000) (fun x => decide (x = 0x315C000000000000)) = true ∧
    fetchesAt (readyWord 0xFC00000000000000) (fun x => decide (decodeWord 3 false x = .error (1, 6))) = true ∧
    (State.reset.withFetchWord 64 0x315C000000000000).agenda = [.issue 0 0] := by decide +kernel
/-- 13 R368: the pc moves past the `NOP`. -/
theorem test_step : (after id 0x315C000000000000).map (fun w => w.pc) = some 0x10008 := by decide +kernel
theorem wit_fire_step : fires 0xF0CB036064000003 = true ∧
    (cellPick (readyWord 0x315C000000000000) 0 0).isNone = true ∧ coreRuns (readyWord 0x315C000000000000) 0 = true := by decide +kernel
theorem wit_memory : Memory.wf State.reset.mem = true ∧ Memory.wf (readyWord 0x315C000000000000).mem = true ∧
    nextWith (step (State.reset.withFetchWord 64 0x315C000000000000)) (fun t => Memory.wf t.mem) = true := by decide +kernel
/-- 13 R368: a warp passed over 896 times goes before an older one, and one that yields waits. -/
def bw (slot stamp passed yield : Nat) : BenchWarp :=
  { k := 0, i := 0, slot := slot, w := { newWarp loadedKernel [] with stamp := stamp, passed := passed, yieldLeft := yield } }
theorem test_pick : (pickWarp [bw 0 1 0 0, bw 1 2 896 0]).map (fun b => b.slot) = some 1 ∧
    (pickWarp [bw 0 1 895 3, bw 1 2 0 0]).map (fun b => b.slot) = some 1 ∧ (pickWarp [bw 0 1 0 1, bw 1 2 0 1]).map (fun b => b.slot) = some 0 := by
  decide +kernel
theorem wit_exit_task : runsWith (stage id) (.exit (raw un un un un 0)) (fun c => decide (c.g ≠ 0 ∧ c.w.launch &&& ~~~c.g = 0 ∧ c.t.barriers = []) &&
    !endHeld (stage id) c.k && decide (c.t.warps.length = 1)) = true := by decide +kernel

end Sys2Proof.Tests
end

section
namespace Sys2Proof.Proofs.Integer
open Sys2Proof Sys2Proof.Machine Sys2Proof.Claims

/-! SUPPORT and CLAIMS. The integer unit (07 R180 to R196): what an accepted word grants, the result of each lane function on words and
integers, carries, and the statements of integer arithmetic and of logic, selection, moves and immediates. -/

/-! ### Accepted words, and the result of an instruction that runs -/

theorem elemOf_iff {α : Type} [DecidableEq α] {x : α} {l : List α} : elemOf x l = true ↔ x ∈ l := by
  simp only [elemOf, List.any_eq_true, decide_eq_true_eq, exists_eq_right]

/-- The accepted modifiers of the arithmetic layout: the type, and the SUB field. -/
theorem arithViol_nil {m : ArithMods} {f : RArith} (h : arithViol m f = []) : f.ty ∈ m.types ∧ m.subs f.sub.toNat = true := by
  simp only [arithViol, List.append_eq_nil_iff, ite_eq_left_iff, imp_false, Decidable.not_not, elemOf_iff, List.cons_ne_nil,
    Bool.and_eq_true] at h
  obtain ⟨hty, -, hsub⟩ := h
  exact ⟨hty, hsub⟩

section
variable {s : State} {i : Instr} {c : Ctx}

/-- The modifiers of an instruction that runs have no unassigned value. -/
theorem opmViol_nil (hr : Runs s i c) (hw : violations c.kern.encv i =
    guardViol i ++ versionViol c.kern.encv i ++ ((operandUses i).flatMap operandViol ++ opmViol i)) : opmViol i = [] := by
  have hv := (preCheck_none.mp hr.2).1
  rw [hw] at hv
  simp only [List.append_eq_nil_iff] at hv
  exact hv.2.2

variable {d : Opnd} {n : Nat} {f : Ctx → Nat → DWord}

/-- An instruction that runs and writes `f` to its ordinary destination computes it (06 R155: no such destination is uniform). -/
theorem computes_of_runs {x : Nat → DWord} (hr : Runs s i c)
    (he : exec i s = warpInstr i s (fun c => .warp (writeLanes c n d (f c))))
    (hw : violations c.kern.encv i =
      guardViol i ++ versionViol c.kern.encv i ++ ((operandUses i).flatMap operandViol ++ opmViol i))
    (hu : ⟨0, .dst n, d⟩ ∈ operandUses i) (hn : n = 1 ∨ n = 2) (hx : ∀ l, f c l = x l) : Computes s i c d n x :=
  computes_of_warp he hr hn (dst_not_uniform (preCheck_none.mp hr.2).1 hu hw) (fun l _ _ => hx l)

theorem computesWhere_of_runs {p : Nat → DWord → Prop} (hr : Runs s i c)
    (he : exec i s = warpInstr i s (fun c => .warp (writeLanes c n d (f c))))
    (hw : violations c.kern.encv i =
      guardViol i ++ versionViol c.kern.encv i ++ ((operandUses i).flatMap operandViol ++ opmViol i))
    (hu : ⟨0, .dst n, d⟩ ∈ operandUses i) (hn : n = 1 ∨ n = 2) (hp : ∀ l, l < 32 → p l (f c l)) : ComputesWhere s i c d n p :=
  ⟨f c, computes_of_runs hr he hw hu hn (fun _ => rfl), fun l hl _ => hp l hl⟩

end

/-! ### One register as a double word -/

theorem srcN_one (w : Warp) (o : Opnd) (l : Nat) : srcN w 1 o l = one (src32 w o l) := rfl

theorem getLsbD_one (x : Word) {i : Nat} (hi : i < 64) : (one x).getLsbD i = x.getLsbD i := by
  simp only [one, BitVec.truncate_eq_setWidth, BitVec.getLsbD_setWidth, hi, decide_true, Bool.true_and]

@[simp] theorem toNat_one (x : Word) : (one x).toNat = x.toNat := by
  simp only [one, BitVec.truncate_eq_setWidth, BitVec.toNat_setWidth]; omega

@[simp] theorem lowWord_one (x : Word) : lowWord (one x) = x := by
  apply BitVec.eq_of_toNat_eq
  simp [lowWord, x.isLt]

/-- A number below `2 ^ 32` as a result of one register. -/
theorem w64_eq_one {x : Word} {n : Nat} (h : x.toNat = n) : w64 n = one x := by
  apply BitVec.eq_of_toNat_eq
  have := x.isLt
  rw [toNat_one, w64, BitVec.toNat_ofNat]; omega

theorem dstN_one (w : Warp) (o : Opnd) (l : Nat) (x : Word) : dstN w 1 o l (one x) = dst32 w o l x := by
  rw [dstN, if_neg (by decide), lowWord_one]

/-! ### Logic and shifts (07 R187, R188) -/

theorem laneAnd_one (a b : Word) : laneAnd (one a) (one b) = one (a &&& b) := BitVec.setWidth_and.symm
theorem laneOr_one (a b : Word) : laneOr (one a) (one b) = one (a ||| b) := BitVec.setWidth_or.symm
theorem laneXor_one (a b : Word) : laneXor (one a) (one b) = one (a ^^^ b) := BitVec.setWidth_xor.symm
theorem laneNot_one (a : Word) : laneNot (one a) = one (~~~a) := by
  rw [laneNot, lowWord_one]; rfl
theorem laneAndn_one (a b : Word) : laneAndn (one a) (one b) = one (a &&& ~~~b) := by
  apply BitVec.eq_of_getLsbD_eq
  intro i hi
  rw [laneAndn, BitVec.getLsbD_and, BitVec.getLsbD_not, getLsbD_one _ hi, getLsbD_one _ hi, getLsbD_one _ hi, BitVec.getLsbD_and,
    BitVec.getLsbD_not]
  by_cases h : i < 32
  · simp [h, hi]
  · simp [BitVec.getLsbD_of_ge a i (by omega)]

theorem laneShl_one (a b : Word) : laneShl (one a) (one b) = one (a <<< b.toNat) := by
  simp only [laneShl, lowWord_one]
  split
  · next h => rw [BitVec.shiftLeft_eq_zero h]; rfl
  · exact w64_eq_one (by rw [BitVec.toNat_shiftLeft, Nat.shiftLeft_eq])

theorem laneShr_one (a b : Word) : laneShr (one a) (one b) = one (a >>> b.toNat) := by
  simp only [laneShr, lowWord_one]
  split
  · next h => rw [BitVec.ushiftRight_eq_zero h]; rfl
  · exact w64_eq_one (by rw [BitVec.toNat_ushiftRight, Nat.shiftRight_eq_div_pow])

/-- An arithmetic shift by the width or more leaves copies of the sign bit. -/
theorem sshiftRight_ge (a : Word) {n : Nat} (h : 32 ≤ n) : a.sshiftRight n = if a.getLsbD 31 then 0xFFFFFFFF else 0 := by
  have hm : a.msb = a.getLsbD 31 := rfl
  apply BitVec.eq_of_getLsbD_eq
  intro i hi
  rw [BitVec.getLsbD_sshiftRight, if_neg (by omega), hm]
  cases a.getLsbD 31
  · simp
  · simp only [if_true]
    rw [show (0xFFFFFFFF : Word) = BitVec.allOnes 32 from rfl, BitVec.getLsbD_allOnes]
    simp [hi]

theorem laneSra_one (a b : Word) : laneSra (one a) (one b) = one (a.sshiftRight b.toNat) := by
  simp only [laneSra, lowWord_one]
  by_cases h : 32 ≤ b.toNat
  · rw [if_pos h, sshiftRight_ge a h]
    split <;> rfl
  · rw [if_neg h, BitVec.sshiftRight, Int.shiftRight_eq_div_pow, Int.fdiv_eq_ediv_of_nonneg _ (by positivity)]
    rfl

theorem laneRot_one (a b : Word) : laneRot (one a) (one b) = one (a.rotateLeft b.toNat) := by
  simp only [laneRot, lowWord_one, BitVec.rotateLeft, BitVec.rotateLeftAux]
  refine Eq.trans (congrArg₂ (· ||| ·) ?_ ?_) BitVec.setWidth_or.symm
  · exact w64_eq_one (by rw [BitVec.toNat_shiftLeft, Nat.shiftLeft_eq])
  · exact w64_eq_one (by rw [BitVec.toNat_ushiftRight, Nat.shiftRight_eq_div_pow])

/-- Two words side by side as a number. -/
theorem toNat_pair (a b : Word) : (a ++ b).toNat = a.toNat * 2 ^ 32 + b.toNat := by
  rw [BitVec.toNat_append, ← Nat.shiftLeft_add_eq_or_of_lt b.isLt, Nat.shiftLeft_eq]

theorem laneFshl_one (f : RArith) (a b e : Word) : laneFshl f (one a) (one b) (one e) =
    if f.sub = 0 then one (highWord ((a ++ e) <<< min b.toNat 32)) else one (lowWord ((a ++ e) >>> min b.toNat 32)) := by
  simp only [laneFshl, lowWord_one, ← toNat_pair]
  split
  · refine w64_eq_one ?_
    rw [highWord, BitVec.extractLsb'_toNat, BitVec.toNat_shiftLeft, Nat.shiftLeft_eq, Nat.shiftRight_eq_div_pow,
      Nat.mod_eq_of_lt (by omega)]
  · refine w64_eq_one ?_
    rw [lowWord, BitVec.extractLsb'_toNat, BitVec.toNat_ushiftRight, Nat.shiftRight_zero, Nat.shiftRight_eq_div_pow]

/-! ### Counts and masks (07 R187) -/

theorem lanePopc_one (a : Word) : lanePopc (one a) = BitVec.ofNat 64 ((List.range 32).countP (fun i => a.getLsbD i)) := by
  rw [lanePopc, lowWord_one]; rfl

theorem trailingZeros_eq (a : Word) : trailingZeros a = ctzOf a := by
  simp only [trailingZeros, ctzOf, lowLane, laneList]
  cases (List.range 32).find? (fun l => a.getLsbD l) <;> rfl

theorem leadingZeros_eq (a : Word) : leadingZeros a = clzOf a := by
  simp only [leadingZeros, clzOf]
  by_cases h : a.toNat = 0
  · have ha : a = 0 := BitVec.eq_of_toNat_eq h
    subst ha; rfl
  · have hl : a.toNat.log2 < 32 := Nat.log2_lt h |>.mpr a.isLt
    have hf : (List.range 32).find? (fun i => a.getLsbD (31 - i)) = some (31 - a.toNat.log2) := by
      rw [List.find?_range_eq_some]
      refine ⟨?_, List.mem_range.mpr (by omega), fun j hj => ?_⟩
      · rw [Nat.sub_sub_self (by omega)]
        exact Nat.testBit_log2 h
      · simp only [Bool.not_eq_eq_eq_not, Bool.not_true]
        exact Nat.testBit_lt_two_pow (Nat.lt_of_lt_of_le Nat.lt_log2_self (Nat.pow_le_pow_right (by omega) (by omega)))
    rw [if_neg h, hf]; rfl

theorem laneClz_one (a : Word) : laneClz (one a) = BitVec.ofNat 64 (clzOf a) := by
  rw [laneClz, lowWord_one, leadingZeros_eq, w64]

theorem laneCtz_one (a : Word) : laneCtz (one a) = BitVec.ofNat 64 (ctzOf a) := by
  rw [laneCtz, lowWord_one, trailingZeros_eq, w64]

/-- The bits of a mask that is built of the lanes below `n`. -/
theorem getLsbD_foldl_lanes (f : Nat → Bool) (i : Nat) {n : Nat} (hn : n ≤ 32) :
    ((List.range n).foldl (fun m l => if f l then m ||| (1#32 <<< l) else m) 0#32).getLsbD i = (decide (i < n) && f i) := by
  induction n with
  | zero => simp
  | succ n ih =>
    have hbit : (1#32 <<< n).getLsbD i = decide (i = n) := inMask_laneMask (by omega)
    rw [List.range_succ, List.foldl_append, List.foldl_cons, List.foldl_nil]
    by_cases hi : i = n
    · subst hi
      cases hf : f i <;> simp [ih (by omega), hbit, hf]
    · have hlt : i < n + 1 ↔ i < n := by omega
      split <;> simp [ih (by omega), hbit, hi, hlt]

theorem getLsbD_maskOf (f : Nat → Bool) {i : Nat} (hi : i < 32) : (maskOf f).getLsbD i = f i := by
  rw [maskOf, laneList, getLsbD_foldl_lanes f i le_rfl, decide_eq_true hi, Bool.true_and]

theorem laneBrev_one (a : Word) : laneBrev (one a) = one a.reverse := by
  rw [laneBrev, lowWord_one, reverseBits]
  show one _ = _
  congr 1
  apply BitVec.eq_of_getLsbD_eq
  intro i hi
  rw [getLsbD_maskOf _ hi, BitVec.getLsbD_reverse, BitVec.getMsbD_eq_getLsbD]
  simp [hi]

/-! ### Tables (07 R189, R193) -/

/-- The index of a table's bit is below 8, so that the cut of OPM to eight bits does not matter. -/
theorem lutBit_eq (t : BitVec 12) (a b c : Bool) :
    lutBit (t.toNat % 256) a b c = t.getLsbD (a.toNat + 2 * b.toNat + 4 * c.toNat) := by
  have h : ∀ x : Bool, boolNat x = x.toNat := by decide
  have ha := a.toNat_le
  have hb := b.toNat_le
  have hc := c.toNat_le
  have hlt : a.toNat + 2 * b.toNat + 4 * c.toNat < 8 := by omega
  rw [lutBit, h, h, h, show 256 = 2 ^ 8 from rfl, Nat.testBit_mod_two_pow, decide_eq_true hlt, Bool.true_and, BitVec.getLsbD]

theorem getLsbD_laneBlut (t : BitVec 12) (a b c : Word) {i : Nat} (hi : i < 32) :
    (laneBlut (t.toNat % 256) (one a) (one b) (one c)).getLsbD i =
      t.getLsbD ((a.getLsbD i).toNat + 2 * (b.getLsbD i).toNat + 4 * (c.getLsbD i).toNat) := by
  have h64 : i < 64 := by omega
  have h := getLsbD_one (maskOf (fun i => lutBit (t.toNat % 256) ((one a).getLsbD i) ((one b).getLsbD i) ((one c).getLsbD i))) h64
  rw [getLsbD_maskOf _ hi, lutBit_eq, getLsbD_one _ h64, getLsbD_one _ h64, getLsbD_one _ h64] at h
  exact h

theorem lanePlop_one (t : BitVec 12) (a b c : Word) : lanePlop (t.toNat % 256) (one a) (one b) (one c) =
    BitVec.ofNat 64 (t.getLsbD ((decide (a ≠ 0)).toNat + 2 * (decide (b ≠ 0)).toNat + 4 * (decide (c ≠ 0)).toNat)).toNat := by
  simp only [lanePlop, lowWord_one, lutBit_eq, boolRes]
  cases t.getLsbD ((decide (a ≠ 0)).toNat + 2 * (decide (b ≠ 0)).toNat + 4 * (decide (c ≠ 0)).toNat) <;> rfl

/-! ### Bit fields and bytes (07 R190, R191) -/

/-- The balanced remainder of a power of two, by its top bit. -/
theorem bmod_two_pow (x : Int) {n : Nat} (hn : 0 < n) :
    Int.bmod x (2 ^ n) = if (2 : Int) ^ (n - 1) ≤ x % 2 ^ n then x % 2 ^ n - 2 ^ n else x % 2 ^ n := by
  have hp : (2 : Nat) ^ n = 2 * 2 ^ (n - 1) := by
    rw [← pow_succ', Nat.sub_add_cancel hn]
  have hh : (((2 ^ n : Nat) : Int) + 1) / 2 = 2 ^ (n - 1) := by
    rw [hp]; push_cast; omega
  rw [Int.bmod_def, hh]
  push_cast
  split <;> split <;> omega

/-- A field of a number's bits is the same field of the number read with its sign. -/
theorem toNat_field (x : DWord) {p n : Nat} (h : p + n ≤ 64) :
    ((x.toNat / 2 ^ p % 2 ^ n : Nat) : Int) = x.toInt / 2 ^ p % 2 ^ n := by
  have hp : (0 : Int) < 2 ^ p := by positivity
  have hpow : (18446744073709551616 : Int) = 2 ^ (64 - p - n) * 2 ^ n * 2 ^ p := by
    rw [← pow_add, ← pow_add, show 64 - p - n + n + p = 64 by omega]; rfl
  rw [BitVec.toInt_eq_toNat_cond]
  push_cast
  split
  · rfl
  · rw [hpow, Int.sub_ediv_of_dvd _ (Dvd.intro_left _ rfl), Int.mul_ediv_cancel _ hp.ne', Int.sub_mul_emod_self_right]

theorem bmod_field (x : DWord) {p n : Nat} (h : p + n ≤ 64) :
    Int.bmod (x.toNat / 2 ^ p : Nat) (2 ^ n) = Int.bmod (x.toInt / 2 ^ p) (2 ^ n) := by
  have hf := toNat_field x h
  push_cast at hf
  rw [← Int.emod_bmod, ← Int.emod_bmod (x.toInt / 2 ^ p)]
  push_cast
  rw [hf]

/-- 07 R190: a field extended from its top bit. -/
theorem signField_mod (x : Nat) {n : Nat} (hn : 0 < n) : signField (x % 2 ^ n) n = Int.bmod x (2 ^ n) := by
  have hlt : x % 2 ^ n < 2 ^ n := Nat.mod_lt _ (by positivity)
  have htop : (x % 2 ^ n).testBit (n - 1) = decide (2 ^ (n - 1) ≤ x % 2 ^ n) := by
    by_cases h : 2 ^ (n - 1) ≤ x % 2 ^ n
    · rw [decide_eq_true h]
      exact Nat.testBit_of_two_pow_le_and_two_pow_add_one_gt h (by rwa [Nat.sub_add_cancel hn])
    · rw [decide_eq_false h]
      exact Nat.testBit_lt_two_pow (by omega)
  rw [signField, if_neg (by omega), htop, bmod_two_pow _ hn]
  simp only [decide_eq_true_eq]
  norm_cast

theorem bitsOf_low (x : Nat) : bitsOf x 7 0 = x % 256 := by simp [bitsOf]
theorem bitsOf_high (x : Nat) : bitsOf x 15 8 = x / 256 % 256 := by simp [bitsOf]

theorem laneBfx_one (f : RArith) (a b : Word) : laneBfx f (one a) (one b) =
    let p := min (b.toNat % 256) 32
    let n := min (b.toNat / 256 % 256) 32
    if f.ty = .s32 then one (BitVec.ofInt 32 (Int.bmod (a.toInt / 2 ^ p) (2 ^ n)))
    else one (BitVec.ofNat 32 (a.toNat / 2 ^ p % 2 ^ n)) := by
  simp only [laneBfx, lowWord_one, Nat.min_eq_min, bitsOf_low, bitsOf_high]
  generalize hp : min (b.toNat % 256) 32 = p
  generalize hn : min (b.toNat / 256 % 256) 32 = n
  have hpn : p + n ≤ 64 := by omega
  by_cases h0 : n = 0
  · subst h0
    simp [Int.bmod_one, Nat.mod_one, one]
  · rw [if_neg h0]
    split
    · rw [signField_mod _ (by omega), bmod_field _ hpn, BitVec.toInt_signExtend_of_le (by omega)]
      rfl
    · refine w64_eq_one ?_
      have hle : a.toNat / 2 ^ p % 2 ^ n ≤ a.toNat := (Nat.mod_le _ _).trans (Nat.div_le_self _ _)
      rw [BitVec.toNat_ofNat, Nat.mod_eq_of_lt (hle.trans_lt a.isLt)]
      exact congrArg (· / 2 ^ p % 2 ^ n) (toNat_one a).symm

/-- The mask of `n` bits from bit `p` on. -/
theorem getLsbD_fieldMask {p n i : Nat} (hi : i < 32) :
    (w32 ((2 ^ n - 1) * 2 ^ p)).getLsbD i = decide (p ≤ i ∧ i < p + n) := by
  rw [w32, BitVec.getLsbD_ofNat, ← Nat.shiftLeft_eq, Nat.testBit_shiftLeft, Nat.testBit_two_pow_sub_one, decide_eq_true hi, Bool.true_and,
    ← Bool.decide_and, decide_eq_decide]
  omega

theorem getLsbD_laneBfi (a b e : Word) {i : Nat} (hi : i < 32) : (laneBfi (one a) (one b) (one e)).getLsbD i =
    let p := min (e.toNat % 256) 32
    let n := min (e.toNat / 256 % 256) (32 - p)
    if p ≤ i ∧ i < p + n then a.getLsbD (i - p) else b.getLsbD i := by
  simp only [laneBfi, lowWord_one, Nat.min_eq_min, bitsOf_low, bitsOf_high]
  generalize hp : min (e.toNat % 256) 32 = p
  generalize hn : min (e.toNat / 256 % 256) (32 - p) = n
  rw [show ∀ x : Word, x.zeroExtend 64 = one x from fun _ => rfl, getLsbD_one _ (by omega), BitVec.getLsbD_or, BitVec.getLsbD_and,
    BitVec.getLsbD_and, BitVec.getLsbD_not, getLsbD_fieldMask hi, w32, BitVec.getLsbD_ofNat, ← Nat.shiftLeft_eq, Nat.testBit_shiftLeft]
  by_cases h : p ≤ i ∧ i < p + n
  · simp [h, hi, BitVec.getLsbD]
  · simp [h, hi]

theorem foldl_four (g : Nat → Nat) : (List.range 4).foldl (fun r i => r + g i) 0 = g 0 + g 1 + g 2 + g 3 := by
  simp [List.range_succ]

/-- One byte of four that stand side by side in a word. -/
theorem byte_of_four (f : Nat → Nat) (hf : ∀ i, f i < 256) {i : Nat} (hi : i < 4) :
    (w64 ((List.range 4).foldl (fun r i => r + f i * 2 ^ (8 * i)) 0)).toNat / 2 ^ (8 * i) % 2 ^ 8 = f i := by
  have h0 := hf 0
  have h1 := hf 1
  have h2 := hf 2
  have h3 := hf 3
  have hsum : (List.range 4).foldl (fun r i => r + f i * 2 ^ (8 * i)) 0 = f 0 + f 1 * 256 + f 2 * 65536 + f 3 * 16777216 := by
    rw [foldl_four (fun i => f i * 2 ^ (8 * i))]
    norm_num
  have hlt : f 0 + f 1 * 256 + f 2 * 65536 + f 3 * 16777216 < 2 ^ 64 := by omega
  rw [hsum, w64, BitVec.toNat_ofNat, Nat.mod_eq_of_lt hlt]
  clear hlt hsum
  have hi' : i = 0 ∨ i = 1 ∨ i = 2 ∨ i = 3 := by omega
  rcases hi' with rfl | rfl | rfl | rfl <;> simp only [Nat.reduceMul, Nat.reducePow] <;> omega

theorem extractLsb'_laneBpick (sel : BitVec 12) (a b : Word) {i : Nat} (hi : i < 4) :
    (laneBpick sel.toNat (one a) (one b)).extractLsb' (8 * i) 8 =
      (b ++ a).extractLsb' (8 * (sel.extractLsb' (3 * i) 3).toNat) 8 := by
  apply BitVec.eq_of_toNat_eq
  have hs : (sel.extractLsb' (3 * i) 3).toNat = sel.toNat / 8 ^ i % 8 := by
    rw [BitVec.extractLsb'_toNat, Nat.shiftRight_eq_div_pow, pow_mul]; rfl
  rw [BitVec.extractLsb'_toNat, BitVec.extractLsb'_toNat, Nat.shiftRight_eq_div_pow, Nat.shiftRight_eq_div_pow, hs, toNat_pair]
  simp only [laneBpick, lowWord_one]
  exact byte_of_four (fun i => (b.toNat * 2 ^ 32 + a.toNat) / 2 ^ (8 * (sel.toNat / 8 ^ i % 8)) % 256)
    (fun i => Nat.mod_lt _ (by omega)) hi

/-! ### Compare and select (07 R192) -/

theorem laneSel_ite (a b : DWord) (c : Word) : laneSel a b (one c) = if c ≠ 0 then a else b := by
  rw [laneSel, lowWord_one]

theorem condHolds_iff {code : Nat} (h : code ≤ 5) (a b : Int) :
    condHolds code (decide (a < b)) (decide (a = b)) = true ↔ comparison code a b := by
  have hc : code = 0 ∨ code = 1 ∨ code = 2 ∨ code = 3 ∨ code = 4 ∨ code = 5 := by omega
  rcases hc with rfl | rfl | rfl | rfl | rfl | rfl <;>
    simp [condHolds, comparison] <;> omega

theorem combine_iff (sub : BitVec 4) (t : Bool) (c : Word) :
    combine sub t (one c) = true ↔ if sub.toNat < 8 then t = true ∧ c ≠ 0 else t = true ∨ c ≠ 0 := by
  have hb : sub.getLsbD 3 = decide (8 ≤ sub.toNat) := by revert sub; decide
  simp only [combine, lowWord_one, hb]
  by_cases h : sub.toNat < 8
  · simp [h]
  · simp [h, Nat.le_of_not_lt h]

theorem boolRes_cases {b : Bool} {p : Prop} (h : b = true ↔ p) : (p ∧ boolRes b = 1) ∨ (¬ p ∧ boolRes b = 0) := by
  rw [← h]
  cases b
  · exact .inr ⟨Bool.false_ne_true, rfl⟩
  · exact .inl ⟨rfl, rfl⟩

/-! ### The integer types (05 R123, R124, 07 R181, R184) -/

theorem mem_tInt {ty : Ty} : ty ∈ tInt ↔ ty = .dflt ∨ ty = .s32 ∨ ty = .z32 ∨ ty = .s64 ∨ ty = .z64 := by simp [tInt]
theorem mem_tInt32 {ty : Ty} : ty ∈ tInt32 ↔ ty = .dflt ∨ ty = .s32 ∨ ty = .z32 := by simp [tInt32]

theorem tyRegs_tInt {ty : Ty} (h : ty ∈ tInt) : tyRegs ty = 1 ∨ tyRegs ty = 2 := by
  rcases mem_tInt.mp h with rfl | rfl | rfl | rfl | rfl <;> simp [tyRegs]

theorem tyRegs_tInt32 {ty : Ty} (h : ty ∈ tInt32) : tyRegs ty = 1 := by
  rcases mem_tInt32.mp h with rfl | rfl | rfl <;> rfl

theorem tInt_of_tInt32 {ty : Ty} (h : ty ∈ tInt32) : ty ∈ tInt := by
  rw [mem_tInt32] at h
  rw [mem_tInt]
  tauto

theorem tInt_of_signed {ty : Ty} (h : ty ∈ [Ty.dflt, .s32, .s64]) : ty ∈ tInt := by
  simp only [List.mem_cons, List.not_mem_nil, or_false] at h
  rw [mem_tInt]
  tauto

theorem tyRegs_tMove {ty : Ty} (h : ty ∈ tMove) : tyRegs ty = 1 ∨ tyRegs ty = 2 := by
  simp only [tMove, List.mem_cons, List.not_mem_nil, or_false] at h
  exact tyRegs_tInt (mem_tInt.mpr (by tauto))

theorem srcN_tMove {ty : Ty} (h : ty ∈ tMove) (w : Warp) (o : Opnd) (l : Nat) :
    srcN w (tyRegs ty) o l = if ty = .z64 then src64 w o l else one (src32 w o l) := by
  simp only [tMove, List.mem_cons, List.not_mem_nil, or_false] at h
  rcases h with rfl | rfl | rfl <;> rfl

theorem intOf_srcN {ty : Ty} (h : ty ∈ tInt) (w : Warp) (o : Opnd) (l : Nat) :
    intOf ty (srcN w (tyRegs ty) o l) = intSrc ty w o l := by
  have hw : lowWord (srcN w 1 o l) = src32 w o l := by rw [srcN_one, lowWord_one]
  rcases mem_tInt.mp h with rfl | rfl | rfl | rfl | rfl
  · exact congrArg BitVec.toInt hw
  · exact congrArg BitVec.toInt hw
  · exact congrArg (fun x => (BitVec.toNat x : Int)) hw
  · rfl
  · rfl

theorem intOf_srcN_one {ty : Ty} (h : ty ∈ tInt32) (w : Warp) (o : Opnd) (l : Nat) : intOf ty (srcN w 1 o l) = intSrc ty w o l := by
  rw [← tyRegs_tInt32 h]
  exact intOf_srcN (tInt_of_tInt32 h) w o l

theorem intOf_wide {ty : Ty} (h : ty ∈ tInt32) (w : Warp) (o : Opnd) (l : Nat) :
    intOf (wideTy ty) (srcN w 2 o l) = intSrc (if ty = .z32 then .z64 else .s64) w o l := by
  rcases mem_tInt32.mp h with rfl | rfl | rfl <;> rfl

theorem intRes_wrap (ty : Ty) (x : Int) : intRes ty false x = wrapTo ty x := rfl

theorem satInt_eq {x lo hi : Int} (h : lo ≤ hi) : satInt x lo hi = max lo (min hi x) := by
  unfold satInt; split
  · omega
  · split <;> omega

theorem tyMin_tInt {ty : Ty} (h : ty ∈ tInt) : tyMin ty = leastOf ty := by
  rcases mem_tInt.mp h with rfl | rfl | rfl | rfl | rfl <;> rfl
theorem tyMax_tInt {ty : Ty} (h : ty ∈ tInt) : tyMax ty = greatestOf ty := by
  rcases mem_tInt.mp h with rfl | rfl | rfl | rfl | rfl <;> rfl
theorem leastOf_le (ty : Ty) : leastOf ty ≤ greatestOf ty := by
  cases ty <;> simp [leastOf, greatestOf]
theorem intRes_tInt {ty : Ty} (h : ty ∈ tInt) (sat : Bool) (x : Int) : intRes ty sat x = intResult ty sat x := by
  rw [intResult, ← satInt_eq (leastOf_le ty), ← tyMin_tInt h, ← tyMax_tInt h]
  rfl

/-- 07 R192: the comparison of a `SETP`, combined with operand c. -/
theorem setp_holds_iff {f : RArith} (hty : f.ty ∈ tInt) (hsub : f.sub.toNat % 8 ≤ 5) (w : Warp) (l : Nat) :
    let x := intOf f.ty (srcN w (tyRegs f.ty) f.a l)
    let y := intOf f.ty (srcN w (tyRegs f.ty) f.b l)
    combine f.sub (condHolds (f.sub.toNat % 8) (decide (x < y)) (decide (x = y))) (srcN w 1 f.c l) = true ↔
      if f.sub.toNat < 8 then comparison (f.sub.toNat % 8) (intSrc f.ty w f.a l) (intSrc f.ty w f.b l) ∧ src32 w f.c l ≠ 0
      else comparison (f.sub.toNat % 8) (intSrc f.ty w f.a l) (intSrc f.ty w f.b l) ∨ src32 w f.c l ≠ 0 := by
  intro x y
  rw [srcN_one, combine_iff, condHolds_iff hsub, ← intOf_srcN hty, ← intOf_srcN hty]

/-! ### Division (07 R186) -/

theorem divQuot_tInt {ty : Ty} (h : ty ∈ tInt) (sat : Bool) (a b : Int) : divQuot ty sat a b = quotientOf ty sat a b := by
  have hall : (2 : Int) ^ tyBits ty - 1 = greatestOf ty - leastOf ty := by
    rcases mem_tInt.mp h with rfl | rfl | rfl | rfl | rfl <;> rfl
  have hneg : tySigned ty = true ↔ leastOf ty < 0 := by
    rcases mem_tInt.mp h with rfl | rfl | rfl | rfl | rfl <;> decide
  have hov : (tySigned ty = true ∧ a = leastOf ty ∧ b = -1) ↔ (a = leastOf ty ∧ b = -1 ∧ leastOf ty < 0) := by
    rw [hneg]; tauto
  simp only [divQuot, quotientOf, hall, tyMin_tInt h, tyMax_tInt h, hov]

theorem divRem_eq_tmod (ty : Ty) (a b : Int) : divRem ty a b = Int.tmod a b := by
  unfold divRem
  split
  · next h => rw [h, Int.tmod_zero]
  · split
    · next h => rw [h.2.2, Int.tmod_neg, Int.tmod_one]
    · rw [Int.tmod_def, Int.mul_comm]

/-! ### The I forms run at the default type, without saturation (07 R182) -/

theorem intOf_dflt (a : Word) : intOf dfltMods.ty (one a) = a.toInt := congrArg BitVec.toInt (lowWord_one a)
theorem intRes_dflt (x : Int) : intRes dfltMods.ty false x = one (BitVec.ofInt 32 x) := rfl

theorem laneAdd_one (a b : Word) : laneAdd dfltMods (one a) (one b) = one (a + b) := by
  rw [laneAdd, intOf_dflt, intOf_dflt, show dfltMods.sat = false from rfl, intRes_dflt, BitVec.ofInt_add, BitVec.ofInt_toInt,
    BitVec.ofInt_toInt]
theorem laneSub_one (a b : Word) : laneSub dfltMods (one a) (one b) = one (a - b) := by
  rw [laneSub, intOf_dflt, intOf_dflt, show dfltMods.sat = false from rfl, intRes_dflt, Int.sub_eq_add_neg, BitVec.ofInt_add,
    BitVec.ofInt_neg, BitVec.ofInt_toInt, BitVec.ofInt_toInt, BitVec.sub_eq_add_neg]
theorem laneMul_one (a b : Word) : laneMul dfltMods (one a) (one b) = one (a * b) := by
  rw [laneMul, intOf_dflt, intOf_dflt, intRes_dflt, BitVec.ofInt_mul, BitVec.ofInt_toInt, BitVec.ofInt_toInt]
theorem laneMin_one (a b : Word) : laneMin dfltMods (one a) (one b) = one (if a.sle b then a else b) := by
  simp only [laneMin, intOf_dflt, intRes_dflt, BitVec.sle_iff_toInt_le]
  split <;> rw [BitVec.ofInt_toInt]
theorem laneMax_one (a b : Word) : laneMax dfltMods (one a) (one b) = one (if a.sle b then b else a) := by
  simp only [laneMax, intOf_dflt, intRes_dflt, BitVec.sle_iff_toInt_le]
  split <;> rw [BitVec.ofInt_toInt]

/-! ### Conversion and addresses (07 R195, R196) -/

theorem tyBits_pos (ty : Ty) : 0 < tyBits ty := by cases ty <;> simp [tyBits]

/-- 07 R195: an integer cut to the bits of a type and extended from them. -/
theorem extendTo_eq (ty : Ty) (x : Int) :
    extendTo ty x = if tySigned ty then Int.bmod x (2 ^ tyBits ty) else x % 2 ^ tyBits ty := by
  simp only [extendTo]
  by_cases hs : tySigned ty = true
  · simp only [hs, true_and, if_true]
    exact (bmod_two_pow x (tyBits_pos ty)).symm
  · simp only [hs, false_and, if_false, Bool.false_eq_true]

/-- 05 R123: the range of an integer type by half of its width. -/
theorem tyRange (ty : Ty) : ∃ n : Nat, tyBits ty = n + 1 ∧ tyMin ty = (if tySigned ty then -(2 ^ n) else 0) ∧
    tyMax ty = if tySigned ty then 2 ^ n - 1 else 2 * 2 ^ n - 1 := by
  obtain ⟨n, hn⟩ := Nat.exists_eq_add_one_of_ne_zero (tyBits_pos ty).ne'
  refine ⟨n, hn, by rw [tyMin, hn, Nat.add_sub_cancel], ?_⟩
  rw [tyMax, hn, Nat.add_sub_cancel, pow_succ']

/-- A value in a type's range is not changed by the cut to its bits. -/
theorem extendTo_of_range {ty : Ty} {x : Int} (h1 : tyMin ty ≤ x) (h2 : x ≤ tyMax ty) : extendTo ty x = x := by
  obtain ⟨n, hn, hmin, hmax⟩ := tyRange ty
  rw [hmin] at h1
  rw [hmax] at h2
  rw [extendTo_eq, hn]
  split
  · next hs =>
    rw [if_pos hs] at h1 h2
    apply Int.bmod_eq_of_le_mul_two <;> push_cast <;> rw [pow_succ'] <;> omega
  · next hs =>
    rw [if_neg hs] at h1 h2
    exact Int.emod_eq_of_lt h1 (by rw [pow_succ']; omega)

theorem tyMin_le_tyMax (ty : Ty) : tyMin ty ≤ tyMax ty := by
  obtain ⟨n, -, hmin, hmax⟩ := tyRange ty
  have hp : (0 : Int) < 2 ^ n := by positivity
  rw [hmin, hmax]
  split <;> omega

/-- 07 R195: a value saturated to a type, or cut to it. -/
theorem extendTo_narrowInt (ty : Ty) (sat : Bool) (x : Int) : extendTo ty (narrowInt ty sat x) =
    if sat then max (tyMin ty) (min (tyMax ty) x) else if tySigned ty then Int.bmod x (2 ^ tyBits ty) else x % 2 ^ tyBits ty := by
  have hle := tyMin_le_tyMax ty
  cases sat
  · exact extendTo_eq ty x
  · simp only [narrowInt, if_true]
    rw [satInt_eq hle, extendTo_of_range (by omega) (by omega)]

theorem laneLea_one (f : RArith) (a : DWord) (b : Word) : laneLea f a (one b) =
    a + BitVec.ofInt 64 ((if f.ty = .s32 then b.toInt else b.toNat) * 2 ^ f.sub.toNat) := by
  have hb : intOf (if f.ty = .s32 then .s32 else .z32) (one b) = if f.ty = .s32 then b.toInt else b.toNat := by
    split <;> simp [intOf]
  rw [laneLea, hb]
  rfl

theorem tyRegs_subTy {sub : BitVec 4} (h : sub.toNat ≤ 8) : tyRegs (subTy sub) = 1 ∨ tyRegs (subTy sub) = 2 := by
  revert sub; decide

theorem laneCvti_eq (f : RArith) (a : DWord) : laneCvti f a =
    let d := subTy f.sub
    let y := if f.sat then max (tyMin d) (min (tyMax d) (intOf f.ty a))
      else if tySigned d then Int.bmod (intOf f.ty a) (2 ^ tyBits d) else intOf f.ty a % 2 ^ tyBits d
    wrapTo d y := by
  simp only [laneCvti, extendTo_narrowInt]
  rfl

/-! ### Carries (07 R185) -/

/-- The writes of a carry instruction, with the result `r` and the carry-out of each lane. -/
def carryLanes (c : Ctx) (d e : Opnd) (r : Nat → Word) (cout : Nat → Bool) : Warp :=
  eachLane c.g (fun w l => putCarry (dst32 w d l (r l)) e l (cout l)) c.w

theorem carryOp_eq {c : Ctx} {f : RArith} {op : DWord → DWord → DWord → Word × Bool} {r : Nat → Word} {cout : Nat → Bool}
    (h : ∀ l, op (srcN c.w 1 f.a l) (srcN c.w 1 f.b l) (srcN c.w 1 f.c l) = (r l, cout l)) :
    carryOp c f op = carryLanes c f.d f.c r cout := by
  simp only [carryOp, carryLanes, h]

/-- What two folds keep equal at every step is equal after them. -/
theorem foldl_same {σ β γ : Type} (φ : σ → γ) {f g : σ → β → σ} (h : ∀ s s' x, φ s = φ s' → φ (f s x) = φ (g s' x)) :
    ∀ (l : List β) {s s' : σ}, φ s = φ s' → φ (l.foldl f s) = φ (l.foldl g s')
  | [], _, _, hs => hs
  | x :: t, s, s', hs => foldl_same φ h t (h s s' x hs)

theorem regs_putCarry (w : Warp) (o : Opnd) (l : Nat) (b : Bool) : (putCarry w o l b).regs = w.regs := by
  cases o with
  | p n => simp only [putCarry, setP]; split <;> rfl
  | _ => rfl

theorem regs_dst32_congr {w w' : Warp} (h : w.regs = w'.regs) (o : Opnd) (l : Nat) (x : Word) :
    (dst32 w o l x).regs = (dst32 w' o l x).regs := by
  cases o with
  | v n => simp only [dst32, dstWord, setV, h]
  | p n => simp only [dst32, dstWord, setP, if_true]; split <;> exact h
  | _ => exact h

/-- A carry leaves the marks of lost registers, which lie below those of predicates. -/
theorem mark_putCarry (w : Warp) (o : Opnd) (l : Nat) (b : Bool) {m : Nat} (hm : m < lostP 0 0) :
    Store.get false (putCarry w o l b).lostRegs m = Store.get false w.lostRegs m := by
  cases o with
  | p n =>
    have hne : m ≠ lostP n.toNat l := by simp only [lostP] at hm ⊢; omega
    simp only [putCarry, setP]
    split
    · rfl
    · simp [hne]
  | _ => rfl

theorem mark_dst32_congr {w w' : Warp} {m : Nat} (h : Store.get false w.lostRegs m = Store.get false w'.lostRegs m) (o : Opnd)
    (l : Nat) (x : Word) :
    Store.get false (dst32 w o l x).lostRegs m = Store.get false (dst32 w' o l x).lostRegs m := by
  cases o with
  | v n => simp only [dst32, dstWord, setV, Store.get_set, h]
  | k n => simp only [dst32, dstWord, setK, Store.get_set, h]
  | p n =>
    simp only [dst32, dstWord, setP, if_true]
    split
    · exact h
    · simp only [Store.get_set, h]
  | _ => exact h

/-- The thread registers after a carry instruction are those that its result alone would leave. -/
theorem regs_carryLanes (c : Ctx) (d e : Opnd) (r : Nat → Word) (cout : Nat → Bool) :
    (carryLanes c d e r cout).regs = (writeLanes c 1 d (fun l => one (r l))).regs :=
  foldl_same (fun w : Warp => w.regs) (fun w w' l h => by rw [regs_putCarry, dstN_one]; exact regs_dst32_congr h d l (r l)) _ rfl

theorem mark_carryLanes (c : Ctx) (d e : Opnd) (r : Nat → Word) (cout : Nat → Bool) {m : Nat} (hm : m < lostP 0 0) :
    Store.get false (carryLanes c d e r cout).lostRegs m = Store.get false (writeLanes c 1 d (fun l => one (r l))).lostRegs m :=
  foldl_same (fun w : Warp => Store.get false w.lostRegs m)
    (fun w w' l h => by rw [mark_putCarry _ _ _ _ hm, dstN_one]; exact mark_dst32_congr h d l (r l)) _ rfl

theorem regResult_carryLanes (c : Ctx) (d e : Opnd) (r : Nat → Word) (cout : Nat → Bool) :
    RegResult c.w (retire (carryLanes c d e r cout)) c.g d 1 (fun l _ => r l) := by
  have hw := regResult_writeLanes c (.inl rfl) d (fun l => one (r l)) (fun l => one (r l)) (fun _ _ _ => rfl)
  have hv : ∀ q l, getV (retire (carryLanes c d e r cout)) q l = getV (retire (writeLanes c 1 d (fun l => one (r l)))) q l :=
    fun q l => congrArg (fun m => Store.get 0 m (32 * q + l)) (regs_carryLanes c d e r cout)
  refine ⟨fun q j l hd hj hl hm => ?_, fun q l hq hl hn => ?_⟩
  · obtain rfl : j = 0 := by omega
    rw [hv, hw.regs q 0 l hd hj hl hm, wordsOf, if_pos rfl, lowWord_one]
  · obtain ⟨hreg, hmark⟩ := hw.others q l hq hl hn
    exact ⟨(hv q l).trans hreg, (mark_carryLanes c d e r cout (by simp only [lostP]; omega)).trans hmark⟩

/-- A warp without its thread registers, its predicates and its marks of lost values. -/
def otherParts (w : Warp) : Warp := { w with regs := [], preds := [], lostRegs := [] }

theorem otherParts_setP (w : Warp) (p l : Nat) (b : Bool) : otherParts (setP w p l b) = otherParts w := by
  unfold setP; split <;> rfl

theorem otherParts_putCarry (w : Warp) (o : Opnd) (l : Nat) (b : Bool) : otherParts (putCarry w o l b) = otherParts w := by
  cases o with
  | p n => exact otherParts_setP w _ _ _
  | _ => rfl

theorem otherParts_dst32 (w : Warp) {o : Opnd} (ho : ∀ q, o ≠ .k q) (l : Nat) (x : Word) :
    otherParts (dst32 w o l x) = otherParts w := by
  cases o with
  | k n => exact absurd rfl (ho n)
  | p n => exact otherParts_setP w _ _ _
  | _ => rfl

theorem onlyRegs_retire {w₀ w : Warp} (h : otherParts w = otherParts w₀) : OnlyRegs w₀ (retire w) := by
  have hw : w = { otherParts w with regs := w.regs, preds := w.preds, lostRegs := w.lostRegs } := rfl
  rw [h] at hw
  unfold OnlyRegs
  conv_lhs => rw [retire, hw]
  rfl

theorem onlyRegs_carryLanes (c : Ctx) {d : Opnd} (hd : ∀ q, d ≠ .k q) (e : Opnd) (r : Nat → Word) (cout : Nat → Bool) :
    OnlyRegs c.w (retire (carryLanes c d e r cout)) :=
  onlyRegs_retire (eachLane_keeps otherParts _ _ (fun w l => by rw [otherParts_putCarry, otherParts_dst32 w hd]) _)

/-- Whether an operand names the predicate `p`, one of `p0` to `p6`. -/
abbrev namesPred (o : Opnd) (p : Nat) : Prop := p < 7 ∧ o = .p (BitVec.ofNat 3 p)

theorem namesPred_p {n : BitVec 3} {p : Nat} : namesPred (.p n) p ↔ p = n.toNat ∧ n.toNat ≠ 7 := by
  have := n.isLt
  rw [namesPred, Opnd.p.injEq]
  constructor
  · rintro ⟨hp, rfl⟩
    rw [BitVec.toNat_ofNat, Nat.mod_eq_of_lt (by omega)]
    omega
  · rintro ⟨rfl, h7⟩
    exact ⟨by omega, by simp⟩

theorem pred_putCarry (w : Warp) (o : Opnd) {x l : Nat} (b : Bool) (p : Nat) (hx : x < 32) (hl : l < 32) :
    inMask (predMask (putCarry w o x b) p) l = if l = x ∧ namesPred o p then b else inMask (predMask w p) l := by
  cases o with
  | p n =>
    rw [putCarry, inMask_setP w b hx hl]
    exact if_congr (by rw [namesPred_p]; tauto) rfl rfl
  | _ => simp [putCarry, namesPred]

theorem pred_dst32 (w : Warp) (o : Opnd) {x l : Nat} (y : Word) (p : Nat) (hx : x < 32) (hl : l < 32) :
    inMask (predMask (dst32 w o x y) p) l = if l = x ∧ namesPred o p then decide (y ≠ 0) else inMask (predMask w p) l := by
  rw [dst32, inMask_dstWord w o 0 y hx hl]
  cases o with
  | p n =>
    exact if_congr (by rw [namesPred_p]; tauto) rfl rfl
  | _ => simp [namesPred]

theorem pred_carryLanes (c : Ctx) (d e : Opnd) (r : Nat → Word) (cout : Nat → Bool) (p : Nat) {l : Nat} (hl : l < 32) :
    inMask (predMask (carryLanes c d e r cout) p) l =
      if inMask c.g l = true ∧ namesPred e p then cout l
      else if inMask c.g l = true ∧ namesPred d p then decide (r l ≠ 0) else inMask (predMask c.w p) l := by
  have hstep : ∀ w x, x < 32 → inMask (predMask (putCarry (dst32 w d x (r x)) e x (cout x)) p) l =
      if l = x ∧ namesPred e p then cout x else if l = x ∧ namesPred d p then decide (r x ≠ 0) else inMask (predMask w p) l :=
    fun w x hx => by rw [pred_putCarry _ _ _ _ hx hl, pred_dst32 _ _ _ _ hx hl]
  by_cases hn : namesPred e p ∨ namesPred d p
  · rw [carryLanes, eachLane_lane (fun w => inMask (predMask w p) l) c.g _ l hl (if namesPred e p then cout l else decide (r l ≠ 0))]
    · grind
    · intro w
      rw [hstep w l hl]
      grind
    · intro w x hx hne
      rw [hstep w x hx, if_neg (fun h => hne h.1.symm), if_neg (fun h => hne h.1.symm)]
  · rw [not_or] at hn
    rw [if_neg (fun h => hn.1 h.2), if_neg (fun h => hn.2 h.2)]
    refine foldl_keeps_mem (fun w : Warp => inMask (predMask w p) l) _ _ _ (fun w x hx => ?_)
    rw [hstep w x (mem_maskLanes.mp hx).1, if_neg (fun h => hn.1 h.2), if_neg (fun h => hn.2 h.2)]

theorem carryIn_one (e : Word) : carryIn (one e) = if e ≠ 0 then 1 else 0 := by
  rw [carryIn, lowWord_one, ite_not]

theorem addCarry_one (a b e : Word) : addCarry (one a) (one b) (one e) =
    (a + b + BitVec.ofNat 32 (if e ≠ 0 then 1 else 0), decide (2 ^ 32 ≤ a.toNat + b.toNat + if e ≠ 0 then 1 else 0)) := by
  simp only [addCarry, lowWord_one, carryIn_one, w32, BitVec.ofNat_add, BitVec.ofNat_toNat, BitVec.setWidth_eq]

theorem subBorrow_one (a b e : Word) : subBorrow (one a) (one b) (one e) =
    (a - b - BitVec.ofNat 32 (if e ≠ 0 then 1 else 0), decide (a.toNat < b.toNat + if e ≠ 0 then 1 else 0)) := by
  simp only [subBorrow, lowWord_one, carryIn_one, w32]

theorem carry_of_runs {s : State} {i : Instr} {c : Ctx} {f : RArith} {op : DWord → DWord → DWord → Word × Bool} {r : Nat → Word}
    {cout : Nat → Bool} (hr : Runs s i c) (he : exec i s = warpInstr i s (fun c => .warp (carryOp c f op)))
    (hd : ∀ q, f.d ≠ .k q) (hop : ∀ l, op (srcN c.w 1 f.a l) (srcN c.w 1 f.b l) (srcN c.w 1 f.c l) = (r l, cout l)) :
    ∃ w, exec i s = .next (setWarp s c.k c.i w) ∧ RegResult c.w w c.g f.d 1 (fun l _ => r l) ∧ OnlyRegs c.w w ∧
      ∀ p l, l < 32 → inMask (predMask w p) l =
        if inMask c.g l = true ∧ namesPred f.c p then cout l
        else if inMask c.g l = true ∧ namesPred f.d p then decide (r l ≠ 0)
        else inMask (predMask c.w p) l :=
  ⟨retire (carryLanes c f.d f.c r cout), by rw [he, warpInstr_passes _ hr.1 hr.2, carryOp_eq hop]; rfl,
    regResult_carryLanes c f.d f.c r cout, onlyRegs_carryLanes c hd f.c r cout, fun p _ hl => pred_carryLanes c f.d f.c r cout p hl⟩

/-! ### The claims -/

theorem carryResults : CarryResults := by
  intro s c f i r cout cin h hr
  rcases h with ⟨rfl, hres, hout⟩ | ⟨rfl, hres, hout⟩
  · exact carry_of_runs hr rfl (dst_not_uniform (preCheck_none.mp hr.2).1 List.mem_cons_self rfl)
      (fun l => (addCarry_one _ _ _).trans (Prod.ext (hres l).symm (hout l).symm))
  · exact carry_of_runs hr rfl (dst_not_uniform (preCheck_none.mp hr.2).1 List.mem_cons_self rfl)
      (fun l => (subBorrow_one _ _ _).trans (Prod.ext (hres l).symm (hout l).symm))

theorem divisionResults : DivisionResults := by
  intro s c f a b
  refine ⟨?div, ?rem⟩
  case div =>
    intro hr
    have hty : f.ty ∈ tInt := (arithViol_nil (opmViol_nil hr rfl)).1
    refine computes_of_runs hr rfl rfl List.mem_cons_self (tyRegs_tInt hty) fun l => ?_
    rw [laneDiv, intOf_srcN hty, intOf_srcN hty, divQuot_tInt hty, intRes_wrap]
  case rem =>
    intro hr
    have hty : f.ty ∈ tInt := (arithViol_nil (opmViol_nil hr rfl)).1
    refine computes_of_runs hr rfl rfl List.mem_cons_self (tyRegs_tInt hty) fun l => ?_
    rw [laneRem, intOf_srcN hty, intOf_srcN hty, divRem_eq_tmod, intRes_wrap]

theorem immediateFormResults : ImmediateFormResults := by
  intro s c f a d
  exact ⟨fun hr => computes_of_runs hr rfl rfl List.mem_cons_self (.inl rfl) fun _ => laneAdd_one _ _,
    fun hr => computes_of_runs hr rfl rfl List.mem_cons_self (.inl rfl) fun _ => laneSub_one _ _,
    fun hr => computes_of_runs hr rfl rfl List.mem_cons_self (.inl rfl) fun _ => laneMul_one _ _,
    fun hr => computes_of_runs hr rfl rfl List.mem_cons_self (.inl rfl) fun _ => laneMin_one _ _,
    fun hr => computes_of_runs hr rfl rfl List.mem_cons_self (.inl rfl) fun _ => laneMax_one _ _,
    fun hr => computes_of_runs hr rfl rfl List.mem_cons_self (.inl rfl) fun _ => laneAnd_one _ _,
    fun hr => computes_of_runs hr rfl rfl List.mem_cons_self (.inl rfl) fun _ => laneOr_one _ _,
    fun hr => computes_of_runs hr rfl rfl List.mem_cons_self (.inl rfl) fun _ => laneXor_one _ _,
    fun hr => computes_of_runs hr rfl rfl List.mem_cons_self (.inl rfl) fun _ => laneAndn_one _ _,
    fun hr => computes_of_runs hr rfl rfl List.mem_cons_self (.inl rfl) fun _ => laneShl_one _ _,
    fun hr => computes_of_runs hr rfl rfl List.mem_cons_self (.inl rfl) fun _ => laneShr_one _ _,
    fun hr => computes_of_runs hr rfl rfl List.mem_cons_self (.inl rfl) fun _ => laneSra_one _ _,
    fun hr => computes_of_runs hr rfl rfl List.mem_cons_self (.inl rfl) fun _ => laneRot_one _ _⟩

theorem integerArithmeticResults : IntegerArithmeticResults := by
  intro s c f a b e
  refine ⟨?add, ?sub, ?mul, ?mulh, ?mad, ?madw, ?min, ?max, ?abs, ?neg, ?sad⟩
  case add =>
    intro hr
    have hty : f.ty ∈ tInt := (arithViol_nil (opmViol_nil hr rfl)).1
    refine computes_of_runs hr rfl rfl List.mem_cons_self (tyRegs_tInt hty) fun l => ?_
    rw [laneAdd, intOf_srcN hty, intOf_srcN hty, intRes_tInt hty]
  case sub =>
    intro hr
    have hty : f.ty ∈ tInt := (arithViol_nil (opmViol_nil hr rfl)).1
    refine computes_of_runs hr rfl rfl List.mem_cons_self (tyRegs_tInt hty) fun l => ?_
    rw [laneSub, intOf_srcN hty, intOf_srcN hty, intRes_tInt hty]
  case mul =>
    intro hr
    have hty : f.ty ∈ tInt := (arithViol_nil (opmViol_nil hr rfl)).1
    refine computes_of_runs hr rfl rfl List.mem_cons_self (tyRegs_tInt hty) fun l => ?_
    rw [laneMul, intOf_srcN hty, intOf_srcN hty, intRes_wrap]
  case mulh =>
    intro hr
    have hty : f.ty ∈ tInt32 := (arithViol_nil (opmViol_nil hr rfl)).1
    refine computes_of_runs hr rfl rfl List.mem_cons_self (.inl rfl) fun l => ?_
    rw [laneMulh, intOf_srcN_one hty, intOf_srcN_one hty, intRes_wrap, Int.fdiv_eq_ediv_of_nonneg _ (by positivity)]
  case mad =>
    intro hr
    have hty : f.ty ∈ tInt32 := (arithViol_nil (opmViol_nil hr rfl)).1
    refine computes_of_runs hr rfl rfl List.mem_cons_self (.inl rfl) fun l => ?_
    rw [laneMad, intOf_srcN_one hty, intOf_srcN_one hty, intOf_srcN_one hty, intRes_tInt (tInt_of_tInt32 hty)]
  case madw =>
    intro hr
    have hty : f.ty ∈ tInt32 := (arithViol_nil (opmViol_nil hr rfl)).1
    refine computes_of_runs hr rfl rfl List.mem_cons_self (.inr rfl) fun l => ?_
    rw [laneMadw, intOf_srcN_one hty, intOf_srcN_one hty, intOf_wide hty, wrapN]
  case min =>
    intro hr
    have hty : f.ty ∈ tInt := (arithViol_nil (opmViol_nil hr rfl)).1
    refine computes_of_runs hr rfl rfl List.mem_cons_self (tyRegs_tInt hty) fun l => ?_
    rw [laneMin, intOf_srcN hty, intOf_srcN hty, intRes_wrap, min_def]
  case max =>
    intro hr
    have hty : f.ty ∈ tInt := (arithViol_nil (opmViol_nil hr rfl)).1
    refine computes_of_runs hr rfl rfl List.mem_cons_self (tyRegs_tInt hty) fun l => ?_
    rw [laneMax, intOf_srcN hty, intOf_srcN hty, intRes_wrap, max_def]
  case abs =>
    intro hr
    have hty := tInt_of_signed (arithViol_nil (opmViol_nil hr rfl)).1
    refine computes_of_runs hr rfl rfl List.mem_cons_self (tyRegs_tInt hty) fun l => ?_
    rw [laneAbs, intOf_srcN hty, intRes_tInt hty, Int.natCast_natAbs]
  case neg =>
    intro hr
    have hty := tInt_of_signed (arithViol_nil (opmViol_nil hr rfl)).1
    refine computes_of_runs hr rfl rfl List.mem_cons_self (tyRegs_tInt hty) fun l => ?_
    rw [laneNeg, intOf_srcN hty, intRes_tInt hty]
  case sad =>
    intro hr
    have hty : f.ty ∈ tInt32 := (arithViol_nil (opmViol_nil hr rfl)).1
    refine computes_of_runs hr rfl rfl List.mem_cons_self (.inl rfl) fun l => ?_
    rw [laneSad, intOf_srcN_one hty, intOf_srcN_one hty, intOf_srcN_one hty, intRes_wrap, Int.natCast_natAbs]

theorem logicAndBitResults : LogicAndBitResults := by
  intro s c f r a b e
  exact ⟨fun hr => computes_of_runs hr rfl rfl List.mem_cons_self (.inl rfl) fun _ => laneAnd_one _ _,
    fun hr => computes_of_runs hr rfl rfl List.mem_cons_self (.inl rfl) fun _ => laneOr_one _ _,
    fun hr => computes_of_runs hr rfl rfl List.mem_cons_self (.inl rfl) fun _ => laneXor_one _ _,
    fun hr => computes_of_runs hr rfl rfl List.mem_cons_self (.inl rfl) fun _ => laneNot_one _,
    fun hr => computes_of_runs hr rfl rfl List.mem_cons_self (.inl rfl) fun _ => laneAndn_one _ _,
    fun hr => computesWhere_of_runs hr rfl rfl List.mem_cons_self (.inl rfl) fun _ _ _ hi => getLsbD_laneBlut _ _ _ _ hi,
    fun hr => computes_of_runs hr rfl rfl List.mem_cons_self (.inl rfl) fun _ => laneShl_one _ _,
    fun hr => computes_of_runs hr rfl rfl List.mem_cons_self (.inl rfl) fun _ => laneShr_one _ _,
    fun hr => computes_of_runs hr rfl rfl List.mem_cons_self (.inl rfl) fun _ => laneSra_one _ _,
    fun hr => computes_of_runs hr rfl rfl List.mem_cons_self (.inl rfl) fun _ => laneRot_one _ _,
    fun hr => computes_of_runs hr rfl rfl List.mem_cons_self (.inl rfl) fun _ => laneFshl_one _ _ _ _,
    fun hr => computes_of_runs hr rfl rfl List.mem_cons_self (.inl rfl) fun _ => laneBfx_one _ _ _,
    fun hr => computesWhere_of_runs hr rfl rfl List.mem_cons_self (.inl rfl) fun _ _ _ hi => getLsbD_laneBfi _ _ _ hi,
    fun hr => computes_of_runs hr rfl rfl List.mem_cons_self (.inl rfl) fun _ => lanePopc_one _,
    fun hr => computes_of_runs hr rfl rfl List.mem_cons_self (.inl rfl) fun _ => laneClz_one _,
    fun hr => computes_of_runs hr rfl rfl List.mem_cons_self (.inl rfl) fun _ => laneCtz_one _,
    fun hr => computes_of_runs hr rfl rfl List.mem_cons_self (.inl rfl) fun _ => laneBrev_one _,
    fun hr => computesWhere_of_runs hr rfl rfl List.mem_cons_self (.inl rfl) fun _ _ _ hi => extractLsb'_laneBpick _ _ _ hi⟩

theorem compareSelectMoveResults : CompareSelectMoveResults := by
  intro s c f r m
  refine ⟨?setp, ?sel, ?plop, ?mov, ?movi, ?cvti, ?lea⟩
  case setp =>
    intro hr
    obtain ⟨hty, hsub⟩ := arithViol_nil (opmViol_nil hr rfl)
    exact computesWhere_of_runs hr rfl rfl List.mem_cons_self (.inl rfl) fun l _ =>
      boolRes_cases (setp_holds_iff hty (of_decide_eq_true hsub) c.w l)
  case sel =>
    intro hr
    have hty : f.ty ∈ tMove := (arithViol_nil (opmViol_nil hr rfl)).1
    refine computes_of_runs hr rfl rfl List.mem_cons_self (tyRegs_tMove hty) fun l => ?_
    rw [srcN_one, laneSel_ite, srcN_tMove hty, srcN_tMove hty]
    split <;> rfl
  case plop =>
    intro hr
    exact computesWhere_of_runs hr rfl rfl List.mem_cons_self (.inl rfl) fun _ _ => lanePlop_one _ _ _ _
  case mov =>
    intro hr
    have hty : f.ty ∈ tMove := (arithViol_nil (opmViol_nil hr rfl)).1
    exact computes_of_runs hr rfl rfl List.mem_cons_self (tyRegs_tMove hty) fun l => srcN_tMove hty c.w f.a l
  case movi =>
    intro hr
    exact computes_of_runs hr rfl rfl List.mem_cons_self (.inl rfl) fun _ => rfl
  case cvti =>
    intro hr
    obtain ⟨-, hsub⟩ := arithViol_nil (opmViol_nil hr rfl)
    refine computes_of_runs hr rfl rfl List.mem_cons_self (tyRegs_subTy (of_decide_eq_true hsub)) fun l => ?_
    exact laneCvti_eq f _
  case lea =>
    intro hr
    exact computes_of_runs hr rfl rfl List.mem_cons_self (.inr rfl) fun _ => laneLea_one _ _ _

/-- Settles O1: integer arithmetic, carries and division, each by its lane function over the accepted integer types. -/
theorem integerArithmetic : Obligations.IntegerArithmetic := ⟨integerArithmeticResults, carryResults, divisionResults⟩

/-- Settles O2: logic, bit operations, selection, moves and the I forms, each by its lane function on words. -/
theorem logicSelectAndImmediate : Obligations.LogicSelectAndImmediate :=
  ⟨logicAndBitResults, compareSelectMoveResults, immediateFormResults⟩

end Sys2Proof.Proofs.Integer
end

section
namespace Sys2Proof.Proofs.Float
open Sys2Proof Sys2Proof.Machine Sys2Proof.Claims Sys2Proof.Proofs.Integer

/-! SUPPORT and CLAIMS. Floating comparison and selection (08 R214 to R216, R219, R231): the arithmetic formats and their operands, the
order of exact values, the classes of codes, the test for non-finite values, and the statement of these instructions. -/

/-! ### The arithmetic formats (05 R125, 08 R212) -/

/-- The formats in which instructions of the floating unit compute. -/
abbrev ieeeFmts : List Fmt := [fp64, fp32, fp16, bf16]

theorem fp32_mem : fp32 ∈ ieeeFmts := by simp

theorem fmtOf_mem (ty : Ty) : fmtOf fp32 ty ∈ ieeeFmts := by cases ty <;> simp [fmtOf]

theorem tyRegs_tF4 {ty : Ty} (h : ty ∈ tF4) : tyRegs ty = fmtRegs (fmtOf fp32 ty) := by
  revert ty; decide

theorem tF4_of_tF2 {ty : Ty} (h : ty ∈ tF2) : ty ∈ tF4 := by revert ty; decide

theorem fmtOf_tF3_ne {ty : Ty} (h : ty ∈ tF3) : fmtOf fp32 ty ≠ fp64 := by revert ty; decide

section
variable {F : Fmt} (hF : F ∈ ieeeFmts)
include hF

theorem ieee_of_mem : F.ieee = true := by revert F; decide

theorem width_eq_iff : F.width = 64 ↔ F = fp64 := by revert F; decide

theorem fmtRegs_eq_regsOf : fmtRegs F = regsOf F := if_congr (width_eq_iff hF) rfl rfl

theorem nan_lt : F.nan < 2 ^ 64 := by revert F; decide

theorem topExp_ne_zero : 2 ^ F.ebits - 1 ≠ 0 := by revert F; decide

theorem signWeight_lt : 2 ^ (F.ebits + F.frac) < 2 ^ 64 := by revert F; decide

theorem srcN_fmtRegs (w : Warp) (o : Opnd) (l : Nat) : srcN w (fmtRegs F) o l = fpSrc F w o l := by
  rw [fmtRegs_eq_regsOf hF, srcN, fpSrc, regsOf]
  by_cases h : F = fp64
  · simp [h]
  · simp [h, one]

end

theorem fmtRegs_cases (F : Fmt) : fmtRegs F = 1 ∨ fmtRegs F = 2 := by
  unfold fmtRegs; split
  · exact .inr rfl
  · exact .inl rfl

theorem fpSrc_of_ne {F : Fmt} (h : F ≠ fp64) (w : Warp) (o : Opnd) (l : Nat) : fpSrc F w o l = one (src32 w o l) := if_neg h

/-! ### Operands after FTZ (05 R131) -/

theorem opCode_eq_bitsIn (F : Fmt) (ftz : Bool) (x : DWord) : opCode F ftz x = bitsIn F ftz x := by
  simp only [opCode, bitsIn, flushed, Fmt.flushIn, ftzOn, Fmt.isTiny, Bool.and_eq_true, decide_eq_true_eq, beq_iff_eq, and_assoc]

theorem opVal_eq_valueIn (F : Fmt) (ftz : Bool) (x : DWord) : opVal F ftz x = valueIn F ftz x :=
  congrArg F.decode (opCode_eq_bitsIn F ftz x)

theorem opCode_noFtz (F : Fmt) (x : DWord) : opCode F false x = x.toNat % 2 ^ F.width := by
  rw [opCode_eq_bitsIn, bitsIn, flushed, if_neg (fun h => Bool.false_ne_true h.1)]

theorem opCode_fp32_one (x : Word) : opCode fp32 dfltMods.ftz (one x) = x.toNat := by
  rw [show dfltMods.ftz = false from rfl, opCode_noFtz, toNat_one]
  exact Nat.mod_eq_of_lt x.isLt

theorem code_zero_le (F : Fmt) (neg : Bool) : F.code neg 0 0 ≤ 2 ^ (F.ebits + F.frac) := by
  cases neg <;> simp [Fmt.code, boolNat]

theorem bitsIn_lt {F : Fmt} (hF : F ∈ ieeeFmts) (ftz : Bool) (x : DWord) : bitsIn F ftz x < 2 ^ 64 := by
  unfold bitsIn flushed
  split
  · exact (code_zero_le F _).trans_lt (signWeight_lt hF)
  · exact (Nat.mod_le _ _).trans_lt x.isLt

/-! ### The order of exact values (08 R214, R215) -/

/-- A finite value as a multiple of a power of two that divides it. -/
theorem ratOf_eq_finInt (neg : Bool) (m : Nat) {e u : Int} (h : u ≤ e) : ratOf neg m e = (finInt neg m e u : ℚ) * 2 ^ u := by
  have hpow : (2 : ℚ) ^ e = 2 ^ (e - u).toNat * 2 ^ u := by
    rw [← zpow_natCast, ← zpow_add₀ two_ne_zero, Int.toNat_of_nonneg (by omega), sub_add_cancel]
  rw [ratOf, hpow, finInt, signed]
  cases neg <;> push_cast <;> simp <;> ring

theorem finInt_lt_iff (a : Bool) (m : Nat) (e : Int) (b : Bool) (n : Nat) (k : Int) :
    finInt a m e (min e k) < finInt b n k (min e k) ↔ ratOf a m e < ratOf b n k := by
  rw [ratOf_eq_finInt a m (min_le_left e k), ratOf_eq_finInt b n (min_le_right e k), mul_lt_mul_iff_left₀ (by positivity), Int.cast_lt]

theorem finInt_eq_iff (a : Bool) (m : Nat) (e : Int) (b : Bool) (n : Nat) (k : Int) :
    finInt a m e (min e k) = finInt b n k (min e k) ↔ ratOf a m e = ratOf b n k := by
  rw [ratOf_eq_finInt a m (min_le_left e k), ratOf_eq_finInt b n (min_le_right e k), mul_left_inj' (by positivity), Int.cast_inj]

theorem lt_iff_valLt (x y : FVal) : x.lt y = true ↔ valLt x y := by
  match x, y with
  | .nan, _ => simp [FVal.lt, valLt]
  | .inf a, .nan => cases a <;> simp [FVal.lt, valLt]
  | .fin _ _ _, .nan => simp [FVal.lt, valLt]
  | .inf a, .inf b => cases a <;> cases b <;> simp [FVal.lt, valLt]
  | .inf a, .fin _ _ _ => cases a <;> simp [FVal.lt, valLt]
  | .fin _ _ _, .inf b => simp [FVal.lt, valLt]
  | .fin a m e, .fin b n k => exact decide_eq_true_iff.trans (finInt_lt_iff a m e b n k)

theorem eq_iff_valEq (x y : FVal) : x.eq y = true ↔ valEq x y := by
  match x, y with
  | .nan, _ => simp [FVal.eq, valEq]
  | .inf _, .nan => simp [FVal.eq, valEq]
  | .fin _ _ _, .nan => simp [FVal.eq, valEq]
  | .inf a, .inf b => exact beq_iff_eq
  | .inf _, .fin _ _ _ => simp [FVal.eq, valEq]
  | .fin _ _ _, .inf _ => simp [FVal.eq, valEq]
  | .fin a m e, .fin b n k => exact decide_eq_true_iff.trans (finInt_eq_iff a m e b n k)

theorem isNan_iff (x : FVal) : x.isNan = true ↔ x = .nan := by cases x <;> simp [FVal.isNan]

theorem valEq_symm {x y : FVal} (h : valEq x y) : valEq y x := by
  cases x <;> cases y <;> simp_all [valEq]

theorem valLt_asymm {x y : FVal} (h : valLt x y) : ¬ valLt y x := by
  match x, y with
  | .inf true, .inf false => exact id
  | .inf true, .fin _ _ _ => exact Bool.noConfusion
  | .fin _ _ _, .inf false => exact Bool.noConfusion
  | .fin _ _ _, .fin _ _ _ => exact lt_asymm h

theorem valEq_not_lt {x y : FVal} (h : valEq x y) : ¬ valLt x y := by
  match x, y with
  | .inf a, .inf b =>
    obtain rfl : a = b := h
    cases a <;> exact id
  | .fin _ _ _, .fin _ _ _ => exact fun hlt => hlt.ne h

theorem fcondHolds_iff {code : Nat} (h : code ≤ 7) (x y : FVal) : fcondHolds code x y = true ↔ fpCondition code x y := by
  have hnan : ∀ z : FVal, z.isNan = false ↔ z ≠ .nan := fun z => by rw [← Bool.not_eq_true, isNan_iff]
  have hc : code = 0 ∨ code = 1 ∨ code = 2 ∨ code = 3 ∨ code = 4 ∨ code = 5 ∨ code = 6 ∨ code = 7 := by omega
  rcases hc with rfl | rfl | rfl | rfl | rfl | rfl | rfl | rfl <;>
    simp [fcondHolds, fpCondition, ← lt_iff_valLt, ← eq_iff_valEq, hnan, isNan_iff]

/-- 08 R215: a floating comparison, combined with operand c as an integer one is (07 R192). -/
theorem laneFsetp_cases (F : Fmt) (f : RArith) (x y : DWord) (e : Word) :
    let t := fpCondition (f.sub.toNat % 8) (valueIn F f.ftz x) (valueIn F f.ftz y)
    ((if f.sub.toNat < 8 then t ∧ e ≠ 0 else t ∨ e ≠ 0) ∧ laneFsetp F f x y (one e) = 1) ∨
      (¬ (if f.sub.toNat < 8 then t ∧ e ≠ 0 else t ∨ e ≠ 0) ∧ laneFsetp F f x y (one e) = 0) := by
  refine boolRes_cases ?_
  rw [combine_iff, opVal_eq_valueIn, opVal_eq_valueIn, fcondHolds_iff (by omega)]

/-- 08 R216: a selection by the comparison of operand c with zero. -/
theorem laneFsel_cases (F : Fmt) {f : RArith} (h : f.sub.toNat ≤ 7) (x y z : DWord) :
    let t := fpCondition f.sub.toNat (valueIn F f.ftz z) (.fin false 0 0)
    (t → laneFsel F f x y z = x) ∧ (¬ t → laneFsel F f x y z = y) := by
  intro t
  have ht : fcondHolds (f.sub.toNat % 8) (opVal F f.ftz z) (.fin false 0 0) = true ↔ t := by
    rw [Nat.mod_eq_of_lt (by omega), opVal_eq_valueIn, fcondHolds_iff h]
  exact ⟨fun h => if_pos (ht.mpr h), fun h => if_neg (fun hc => h (ht.mp hc))⟩

/-! ### The smaller and the larger code (08 R214) -/

/-- The order of codes that are no NaN, in which −0 lies below +0. -/
def codeLess (F : Fmt) (a b : Nat) : Prop :=
  valLt (F.decode a) (F.decode b) ∨ (valEq (F.decode a) (F.decode b) ∧ F.signOf a = true ∧ F.signOf b = false)

theorem codeLess_asymm {F : Fmt} {a b : Nat} (h : codeLess F a b) : ¬ codeLess F b a := by
  rintro (hlt | ⟨heq, hb, ha⟩)
  · rcases h with h | ⟨h, -, -⟩
    · exact valLt_asymm h hlt
    · exact valEq_not_lt (valEq_symm h) hlt
  · rcases h with h | ⟨-, ha', -⟩
    · exact valEq_not_lt (valEq_symm heq) h
    · exact Bool.false_ne_true (ha.symm.trans ha')

section
variable {F : Fmt} {a b : Nat} (hi : Bool)

theorem minMax_nan_nan (ha : F.decode a = .nan) (hb : F.decode b = .nan) : F.minMax hi a b = F.nan := by
  simp [Fmt.minMax, ha, hb, FVal.isNan]

theorem minMax_nan_left (ha : F.decode a = .nan) (hb : F.decode b ≠ .nan) : F.minMax hi a b = b := by
  have hb' : (F.decode b).isNan = false := by rwa [← Bool.not_eq_true, isNan_iff]
  simp [Fmt.minMax, (isNan_iff _).mpr ha, hb']

theorem minMax_nan_right (ha : F.decode a ≠ .nan) (hb : F.decode b = .nan) : F.minMax hi a b = a := by
  have ha' : (F.decode a).isNan = false := by rwa [← Bool.not_eq_true, isNan_iff]
  simp [Fmt.minMax, (isNan_iff _).mpr hb, ha']

theorem minMax_ordered (ha : F.decode a ≠ .nan) (hb : F.decode b ≠ .nan) :
    (codeLess F a b → F.minMax hi a b = if hi then b else a) ∧ (¬ codeLess F a b → F.minMax hi a b = if hi then a else b) := by
  have ha' : (F.decode a).isNan = false := by rwa [← Bool.not_eq_true, isNan_iff]
  have hb' : (F.decode b).isNan = false := by rwa [← Bool.not_eq_true, isNan_iff]
  have hl : ((F.decode a).lt (F.decode b) || ((F.decode a).eq (F.decode b) && F.signOf a && !F.signOf b)) = true ↔ codeLess F a b := by
    simp only [codeLess, Bool.or_eq_true, Bool.and_eq_true, Bool.not_eq_true', lt_iff_valLt, eq_iff_valEq, and_assoc]
  simp only [Fmt.minMax, ha', hb']
  exact ⟨fun h => if_pos (hl.mpr h), fun h => if_neg (fun hc => h (hl.mp hc))⟩

theorem minMax_choice : F.minMax hi a b = F.nan ∨ F.minMax hi a b = a ∨ F.minMax hi a b = b := by
  by_cases hp : F.decode a = .nan
  · by_cases hq : F.decode b = .nan
    · exact .inl (minMax_nan_nan hi hp hq)
    · exact .inr (.inr (minMax_nan_left hi hp hq))
  · by_cases hq : F.decode b = .nan
    · exact .inr (.inl (minMax_nan_right hi hp hq))
    · obtain ⟨hless, hnot⟩ := minMax_ordered hi hp hq
      by_cases h : codeLess F a b
      · rw [hless h]; cases hi <;> simp
      · rw [hnot h]; cases hi <;> simp

/-- 08 R214: what a word holds that is the smaller (or the larger) of two codes. -/
def IsMinMax (F : Fmt) (larger : Bool) (a b : Nat) (x : DWord) : Prop :=
  let p := F.decode a
  let q := F.decode b
  (p = .nan → q = .nan → x.toNat = F.nan) ∧ (p = .nan → q ≠ .nan → x.toNat = b) ∧ (p ≠ .nan → q = .nan → x.toNat = a) ∧
  (p ≠ .nan → q ≠ .nan → (valLt p q ∨ (valEq p q ∧ F.signOf a = true ∧ F.signOf b = false)) →
    x.toNat = if larger then b else a) ∧
  (p ≠ .nan → q ≠ .nan → (valLt q p ∨ (valEq p q ∧ F.signOf b = true ∧ F.signOf a = false)) →
    x.toNat = if larger then a else b)

theorem isMinMax_minMax (hF : F ∈ ieeeFmts) (ha : a < 2 ^ 64) (hb : b < 2 ^ 64) : IsMinMax F hi a b (w64 (F.minMax hi a b)) := by
  have hlt : F.minMax hi a b < 2 ^ 64 := by
    rcases minMax_choice hi with h | h | h <;> rw [h]
    exacts [nan_lt hF, ha, hb]
  have hx : (w64 (F.minMax hi a b)).toNat = F.minMax hi a b := (BitVec.toNat_ofNat _ _).trans (Nat.mod_eq_of_lt hlt)
  rw [IsMinMax, hx]
  exact ⟨minMax_nan_nan hi, minMax_nan_left hi, minMax_nan_right hi, fun hp hq h => (minMax_ordered hi hp hq).1 h,
    fun hp hq h => (minMax_ordered hi hp hq).2 (codeLess_asymm (h.imp_right (.imp_left valEq_symm)))⟩

end

/-! ### Classes of codes (08 R219) -/

section
variable {F : Fmt} (hF : F ∈ ieeeFmts) {x : Nat}
include hF

/-- 05 R126, R127: a code of a format with infinities, by its exponent field. -/
theorem decode_ieee : F.decode x =
    if F.expOf x = 2 ^ F.ebits - 1 then (if F.fracOf x = 0 then .inf (F.signOf x) else .nan)
    else if F.expOf x = 0 then .fin (F.signOf x) (F.fracOf x) F.emin
    else .fin (F.signOf x) (2 ^ F.frac + F.fracOf x) ((F.expOf x : Int) - 1 + F.emin) := by
  simp [Fmt.decode, ieee_of_mem hF]

theorem decode_eq_inf_iff {neg : Bool} :
    F.decode x = .inf neg ↔ F.expOf x = 2 ^ F.ebits - 1 ∧ F.fracOf x = 0 ∧ F.signOf x = neg := by
  rw [decode_ieee hF]
  split_ifs <;> simp_all

theorem decode_eq_nan_iff : F.decode x = .nan ↔ F.expOf x = 2 ^ F.ebits - 1 ∧ F.fracOf x ≠ 0 := by
  rw [decode_ieee hF]
  split_ifs <;> simp_all

theorem decode_finite_iff : (∃ n m e, F.decode x = .fin n m e) ↔ F.expOf x ≠ 2 ^ F.ebits - 1 := by
  rw [decode_ieee hF]
  split_ifs <;> simp_all

end

section
variable {F : Fmt} {x : Nat}

theorem classBit_inf (he : F.expOf x = 2 ^ F.ebits - 1) (hm : F.fracOf x = 0) : F.classBit x = if F.signOf x then 0 else 7 := by
  simp [Fmt.classBit, he, hm]

theorem classBit_nan (he : F.expOf x = 2 ^ F.ebits - 1) (hm : F.fracOf x ≠ 0) :
    F.classBit x = if (F.fracOf x).testBit (F.frac - 1) then 9 else 8 := by
  simp [Fmt.classBit, he, hm]

theorem classBit_zero (ht : F.expOf x ≠ 2 ^ F.ebits - 1) (he : F.expOf x = 0) (hm : F.fracOf x = 0) :
    F.classBit x = if F.signOf x then 3 else 4 := by
  rw [Fmt.classBit, if_neg ht, if_pos he, if_pos hm]

theorem classBit_subnormal (ht : F.expOf x ≠ 2 ^ F.ebits - 1) (he : F.expOf x = 0) (hm : F.fracOf x ≠ 0) :
    F.classBit x = if F.signOf x then 2 else 5 := by
  rw [Fmt.classBit, if_neg ht, if_pos he, if_neg hm]

theorem classBit_normal (ht : F.expOf x ≠ 2 ^ F.ebits - 1) (he : F.expOf x ≠ 0) : F.classBit x = if F.signOf x then 1 else 6 := by
  rw [Fmt.classBit, if_neg ht, if_neg he]

/-- A class bit that a condition chooses, as a word. -/
theorem pow_ite_word {n i j : Nat} {b : Bool} (h : n = if b then i else j) : w64 (2 ^ n) = if b then w64 (2 ^ i) else w64 (2 ^ j) := by
  rw [h]; split <;> rfl

end

theorem laneFclass_cases {F : Fmt} (hF : F ∈ ieeeFmts) (a : DWord) :
    let code := a.toNat % 2 ^ F.width
    let neg := F.signOf code
    let frac := F.fracOf code
    let x := laneFclass F a
    (F.decode code = .inf true → x = 0x001) ∧ (F.decode code = .inf false → x = 0x080) ∧
    (F.decode code = .nan → x = if frac.testBit (F.frac - 1) then 0x200 else 0x100) ∧
    (F.expOf code = 0 → frac = 0 → x = if neg then 0x008 else 0x010) ∧
    (F.expOf code = 0 → frac ≠ 0 → x = if neg then 0x004 else 0x020) ∧
    (F.expOf code ≠ 0 → (∃ n m e, F.decode code = .fin n m e) → x = if neg then 0x002 else 0x040) := by
  intro code neg frac x
  have hx : x = w64 (2 ^ F.classBit code) := congrArg (fun n => w64 (2 ^ F.classBit n)) (opCode_noFtz F a)
  have htop : F.expOf code = 0 → F.expOf code ≠ 2 ^ F.ebits - 1 := fun h => h ▸ (topExp_ne_zero hF).symm
  rw [hx, decode_eq_inf_iff hF, decode_eq_inf_iff hF, decode_eq_nan_iff hF, decode_finite_iff hF]
  refine ⟨?negInf, ?posInf, ?nan, ?zero, ?subnormal, ?normal⟩
  case negInf =>
    rintro ⟨he, hm, hs⟩
    rw [classBit_inf he hm, hs]; rfl
  case posInf =>
    rintro ⟨he, hm, hs⟩
    rw [classBit_inf he hm, hs]; rfl
  case nan => exact fun ⟨he, hm⟩ => pow_ite_word (classBit_nan he hm)
  case zero => exact fun he hm => pow_ite_word (classBit_zero (htop he) he hm)
  case subnormal => exact fun he hm => pow_ite_word (classBit_subnormal (htop he) he hm)
  case normal => exact fun he ht => pow_ite_word (classBit_normal ht he)

/-! ### The test for non-finite values (08 R230, R231) -/

theorem selBits_eq_zero_iff (F : Fmt) (x : Nat) : F.selBits x = 0 ↔ ∃ n m e, F.decode x = .fin n m e := by
  unfold Fmt.selBits Fmt.isNanCode Fmt.isInfCode
  cases F.decode x <;> simp [FVal.isNan, FVal.isInf, boolNat]

theorem foldl_or_eq_zero_iff (g : Nat → Nat) (n : Nat) : (List.range n).foldl (fun b i => b ||| g i) 0 = 0 ↔ ∀ j, j < n → g j = 0 := by
  induction n with
  | zero => simp
  | succ n ih =>
    rw [List.range_succ, List.foldl_append, List.foldl_cons, List.foldl_nil, Nat.or_eq_zero_iff, ih, Nat.forall_lt_succ_right]

/-- Number of the elements of a type that FCHK examines. -/
abbrev elementsOf (ty : Ty) : Nat := if ty = .f16x2 ∨ ty = .bf16x2 then 2 else 1

/-- Whether every element of an operand is finite. -/
abbrev FiniteElems (f : RArith) (w : Warp) (l : Nat) : Prop :=
  ∀ j, j < elementsOf f.ty → ∃ n m e, (fmtOf fp32 f.ty).decode
    ((fpSrc (fmtOf fp32 f.ty) w f.a l).toNat / 2 ^ ((fmtOf fp32 f.ty).width * j) % 2 ^ (fmtOf fp32 f.ty).width) = .fin n m e

theorem fchkBits_eq_zero_iff (f : RArith) (c : Ctx) (l : Nat) : fchkBits f c l = 0 ↔ FiniteElems f c.w l := by
  simp only [fchkBits, elemBits, srcN_fmtRegs (fmtOf_mem f.ty), foldl_or_eq_zero_iff, selBits_eq_zero_iff]

/-- No lane of a mask is selected: no fault. -/
theorem nonfiniteFault_none {g : Word} {sel : Nat → Nat} (h : ∀ l, l < 32 → inMask g l = true → sel l = 0) :
    nonfiniteFault g sel = none := by
  have hm : maskOf (fun l => inMask g l && sel l != 0) = 0 := by
    apply BitVec.eq_of_getLsbD_eq
    intro l hl
    rw [getLsbD_maskOf _ hl]
    cases hg : inMask g l
    · simp
    · simp [h l hl hg]
  exact if_pos hm

/-- A selected lane of a mask: FP_NONFINITE, and the record names the selected lanes. -/
theorem nonfiniteFault_some {g : Word} {sel : Nat → Nat} (h : ∃ l, l < 32 ∧ inMask g l = true ∧ sel l ≠ 0) :
    ∃ x, nonfiniteFault g sel = some x ∧ x.cause = cNonfinite ∧
      ∀ l, l < 32 → (inMask x.lanes l = true ↔ inMask g l = true ∧ sel l ≠ 0) := by
  have hbit : ∀ l, l < 32 → (inMask (maskOf (fun l => inMask g l && sel l != 0)) l = true ↔ inMask g l = true ∧ sel l ≠ 0) := by
    intro l hl
    rw [inMask, getLsbD_maskOf _ hl, Bool.and_eq_true, bne_iff_ne]
  have hm : maskOf (fun l => inMask g l && sel l != 0) ≠ 0 := by
    obtain ⟨l, hl, hsel⟩ := h
    intro h0
    have hl' := (hbit l hl).mpr hsel
    rw [h0] at hl'
    simp [inMask] at hl'
  exact ⟨_, if_neg hm, rfl, hbit⟩

section
variable {s : State} {f : RArith} {c : Ctx} (hr : Runs s (.fchkTrap f) c)
include hr

theorem exec_fchkTrap_passes (h : nonfiniteFault c.g (fchkBits f c) = none) :
    exec (.fchkTrap f) s = .next (setWarp s c.k c.i (retire c.w)) := by
  refine (warpInstr_passes _ hr.1 hr.2).trans ?_
  simp only [h, applyRes]

theorem exec_fchkTrap_raises {x : FaultInfo} (h : nonfiniteFault c.g (fchkBits f c) = some x) :
    exec (.fchkTrap f) s = .next (takeFault s c.k c.i x) := by
  refine (warpInstr_passes _ hr.1 hr.2).trans ?_
  simp only [h, applyRes]

end

/-! ### The claims -/

/-- An accepted destination of the registers of its type is one of the registers of its format. -/
theorem mem_usesA_fmt {f : RArith} (h : f.ty ∈ tF4) (a b e : OpCls) :
    (⟨0, .dst (fmtRegs (fmtOf fp32 f.ty)), f.d⟩ : OpUse) ∈ usesA f (.dst (tyRegs f.ty)) a b e := by
  rw [tyRegs_tF4 h]; exact List.mem_cons_self

/-- An instruction that runs and writes the registers of a format computes what holds of its results. -/
theorem computesWhere_fmt {s : State} {i : Instr} {c : Ctx} {F : Fmt} {d : Opnd} {f : Ctx → Nat → DWord} {p : Nat → DWord → Prop}
    (hF : F ∈ ieeeFmts) (hr : Runs s i c) (he : exec i s = warpInstr i s (fun c => .warp (writeLanes c (fmtRegs F) d (f c))))
    (hw : violations c.kern.encv i =
      guardViol i ++ versionViol c.kern.encv i ++ ((operandUses i).flatMap operandViol ++ opmViol i))
    (hu : ⟨0, .dst (fmtRegs F), d⟩ ∈ operandUses i) (hp : ∀ l, l < 32 → p l (f c l)) : ComputesWhere s i c d (regsOf F) p := by
  rw [← fmtRegs_eq_regsOf hF]
  exact computesWhere_of_runs hr he hw hu (fmtRegs_cases F) hp

/-- The smaller or larger of the codes `a` and `b`, where the instruction's own operands are these codes. -/
theorem isMinMax_opCode {F : Fmt} (hF : F ∈ ieeeFmts) (larger ftz : Bool) {x y : DWord} {a b : Nat} (ha : a = opCode F ftz x)
    (hb : b = opCode F ftz y) : IsMinMax F larger a b (w64 (F.minMax larger (opCode F ftz x) (opCode F ftz y))) := by
  have hlt : ∀ z, opCode F ftz z < 2 ^ 64 := fun z => opCode_eq_bitsIn F ftz z ▸ bitsIn_lt hF ftz z
  rw [ha, hb]
  exact isMinMax_minMax larger hF (hlt x) (hlt y)

theorem floatMinMaxResults : FloatMinMaxResults := by
  rintro s c f m i F d a b larger (⟨hi, rfl, rfl, ha, hb⟩ | ⟨hi, rfl, rfl, ha, hb⟩) hr
  · have hF := fmtOf_mem f.ty
    have src : ∀ o l, bitsIn (fmtOf fp32 f.ty) f.ftz (fpSrc (fmtOf fp32 f.ty) c.w o l) =
        opCode (fmtOf fp32 f.ty) f.ftz (srcN c.w (fmtRegs (fmtOf fp32 f.ty)) o l) :=
      fun o l => by rw [srcN_fmtRegs hF, opCode_eq_bitsIn]
    have word : ∀ l, l < 32 → _ := fun l _ =>
      isMinMax_opCode hF larger f.ftz ((ha l).trans (src f.a l)) ((hb l).trans (src f.b l))
    rcases hi with ⟨rfl, rfl⟩ | ⟨rfl, rfl⟩ <;>
      exact computesWhere_fmt hF hr rfl rfl (mem_usesA_fmt (arithViol_nil (opmViol_nil hr rfl)).1 _ _ _) word
  · have word : ∀ l, l < 32 → _ := fun l _ => isMinMax_opCode fp32_mem larger dfltMods.ftz
      ((ha l).trans (opCode_fp32_one _).symm) ((hb l).trans (opCode_fp32_one _).symm)
    rcases hi with ⟨rfl, rfl⟩ | ⟨rfl, rfl⟩ <;> exact computesWhere_fmt fp32_mem hr rfl rfl List.mem_cons_self word

theorem floatCompareClassifyResults : FloatCompareClassifyResults := by
  intro s c f F compared elements finite
  have hF : F ∈ ieeeFmts := fmtOf_mem f.ty
  refine ⟨?fsetp, ?dsetp, ?fsel, ?fclass, ?fchkTest, ?fchkTrap⟩
  case fsetp =>
    intro hr
    have hne : F ≠ fp64 := fmtOf_tF3_ne (arithViol_nil (opmViol_nil hr rfl)).1
    refine computesWhere_of_runs hr rfl rfl List.mem_cons_self (.inl rfl) fun l _ => ?_
    simp only [compared, fpSrc_of_ne hne]
    exact laneFsetp_cases F f _ _ _
  case dsetp =>
    intro hr
    exact computesWhere_of_runs hr rfl rfl List.mem_cons_self (.inl rfl) fun l _ => laneFsetp_cases fp64 f _ _ _
  case fsel =>
    intro hr
    obtain ⟨hty, hsub⟩ := arithViol_nil (opmViol_nil hr rfl)
    refine computesWhere_fmt hF hr rfl rfl (mem_usesA_fmt (tF4_of_tF2 hty) _ _ _) fun l _ => ?_
    rw [srcN_fmtRegs hF, srcN_fmtRegs hF, srcN_fmtRegs hF]
    exact laneFsel_cases F (of_decide_eq_true hsub) _ _ _
  case fclass =>
    intro hr
    refine computesWhere_of_runs hr rfl rfl List.mem_cons_self (.inl rfl) fun l _ => ?_
    rw [srcN_fmtRegs hF]
    exact laneFclass_cases hF _
  case fchkTest =>
    intro hr
    refine computesWhere_of_runs hr rfl rfl List.mem_cons_self (.inl rfl) fun l _ => ?_
    rcases boolRes_cases (decide_eq_true_iff.trans (fchkBits_eq_zero_iff f c l)) with ⟨hfin, hx⟩ | ⟨hinf, hx⟩
    · exact ⟨fun _ => hx, fun h => absurd hfin h⟩
    · exact ⟨fun h => absurd h hinf, fun _ => hx⟩
  case fchkTrap =>
    intro hr
    refine ⟨fun h => ?_, fun h => ?_⟩
    · exact exec_fchkTrap_passes hr (nonfiniteFault_none fun l hl hm => (fchkBits_eq_zero_iff f c l).mpr (h l hl hm))
    · have hsel : ∀ l, fchkBits f c l ≠ 0 ↔ ¬ finite l := fun l => (fchkBits_eq_zero_iff f c l).not
      obtain ⟨l, hl, hm, hinf⟩ := h
      obtain ⟨x, hx, hcause, hlanes⟩ := nonfiniteFault_some ⟨l, hl, hm, (hsel l).mpr hinf⟩
      exact ⟨x, hcause, fun l hl => (hlanes l hl).trans (and_congr_right' (hsel l)), exec_fchkTrap_raises hr hx⟩

/-- Settles O10: floating comparison and selection, by the order of exact values and the classes of codes. -/
theorem floatCompareAndSelect : Obligations.FloatCompareAndSelect := ⟨floatMinMaxResults, floatCompareClassifyResults⟩

end Sys2Proof.Proofs.Float
end
